-- ==== Sys2Proof/Word.lean ====
section
/-! DEFINITION. The word types of the AHY-4832. Registers, messages and encoded fields are bit vectors; addresses,
counts and times are natural numbers. -/

namespace Sys2Proof

/-- A byte of device or host memory. -/
abbrev Byte := BitVec 8

/-- A set-up register or a descriptor word; 32-bit registers use the low half (18 R364). -/
abbrev Word := BitVec 64

/-- The bits of an FP32 value (03 Table 3-1, code 0x6). -/
abbrev F32 := BitVec 32

end Sys2Proof
end

