-- ==== Sys2Proof/Syntax.lean ====
section
/-! DEFINITION. The commands of the block: one constructor per row of spec/opcode_table.json, in the table's order.
A command names the unit that does its next step, and carries the data that reaches the module from outside. -/

namespace Sys2Proof

/-- A host context, 0 to 63 (12 R243). -/
abbrev Ctx := Fin 64
/-- A logical hive, 0 to 255 (01 R13). -/
abbrev Hive := Fin 256
/-- A physical hive slot 5d + k, 0 to 319 (01, Physical and logical hives). -/
abbrev Slot := Fin 320
/-- A compute die, 0 to 63. -/
abbrev Die := Fin 64
/-- A stack, with its controller, forager unit and update engine, 0 to 31. -/
abbrev Stack := Fin 32
/-- A sector with its comb die and canal router, 0 to 15. -/
abbrev Sector := Fin 16
/-- A PCI Express function: 0 the PF, 1 to 15 a VF (12 R241). -/
abbrev Func := Fin 16
/-- An inbound mirror source entry (09 R175). -/
abbrev Source := Fin 16
/-- A port code as the TARGET of a lock table: 0x00 to 0x0F a link port, 0x40 + c canal port c (11 Table 11-4). -/
abbrev PortCode := BitVec 7

/-- How a PCI Express request the module issued completed (06 R117, 12 R250). -/
inductive CplStatus where
  | ok
  | unsupported
  | aborted
deriving DecidableEq, Repr

/-- The firmware processors (14 Table 14-1). -/
inductive Core where
  | security
  | power
  | scheduler
  | hiveControl
deriving DecidableEq, Repr

/-- Who waits on a counter or slot: a queue of a hive (0-2 E0-E2, 3 W, 4 D, 5 control), a host context, or the
i-th remote watch registered at its home (10 R202). -/
inductive Waiter where
  | queue (h : Hive) (q : Fin 6)
  | host (x : Ctx)
  | remote (i : Nat)
deriving DecidableEq, Repr

/-- A unit that holds synchronisation messages (10 R199): the queue of those to be sent, by index; a link or canal port; the
module as home of what is held for a moving hive. -/
inductive AgeUnit where
  | outgoing (i : Nat)
  | port (p : PortCode)
  | home
deriving DecidableEq, Repr

/-- A synchronisation message (11 Table 11-9). -/
structure SyncMsg where
  type : BitVec 4
  reserved : BitVec 4 := 0
  gen : BitVec 8
  object : BitVec 16
  origin : BitVec 14
  ctx : BitVec 6
  sentLc : BitVec 8
  value : BitVec 48
  tag : BitVec 16
deriving DecidableEq, Repr

/-- An unscheduled packet (11 Table 11-8). -/
structure Packet where
  cls : BitVec 3
  reserved : BitVec 5 := 0
  flits : BitVec 4
  hops : BitVec 4
  dest : BitVec 14
  src : BitVec 14
  len : BitVec 16
  fields : BitVec 64
  payload : List Byte
deriving DecidableEq, Repr

/-- A received or transmitted frame: its control (11 Table 11-2) and its 40 flits. A canal frame is the same with
slots of 1,024 bytes and no visible control (11 R239). -/
structure Frame where
  frame : BitVec 56
  tag : BitVec 8
  map : List (BitVec 2)
  credit : BitVec 16
  flits : List (List Byte)
deriving DecidableEq, Repr

/-- Where a firmware message came from (14 R307). -/
inductive MsgSrc where
  | fleet (eid : BitVec 8)
  | host (x : Ctx)
  | peer (m : BitVec 14)
deriving DecidableEq, Repr

/-- A firmware message (14 Table 14-9). -/
structure Msg where
  major : BitVec 8
  minor : BitVec 8
  type : BitVec 15
  reply : Bool
  seq : BitVec 16
  len : BitVec 16
  payload : List Byte
deriving DecidableEq, Repr

/-- A mailbox (14 Table 14-8). -/
inductive MailboxId where
  | hostIn (x : Ctx)
  | hostOut (x : Ctx)
  | toHive (p : Slot)
  | fromHive (p : Slot)
  | cores (a b : Core)
  | towpath (c : Core)
deriving DecidableEq, Repr

/-- A symbol error of a stack access: the symbol's lane 0-35 and the error added to it (07 R135). -/
structure SymbolError where
  lane : Fin 36
  value : BitVec 8
deriving DecidableEq, Repr

/-- What a stack access meets: symbol errors of the outer code, the errors that the stack's on-die ECC reports corrected, and how
often its command failed parity (07 R119, R135). -/
structure StackMeets where
  errs : List SymbolError
  inner : BitVec 8 := 0
  parity : BitVec 2 := 0
deriving DecidableEq, Repr

/-- What the scrub or an access finds in an SRAM word (06 R112). -/
inductive SramError where
  | none
  | corrected
  | uncorrectable
deriving DecidableEq, Repr

/-- An option of a published standard that no list of the spec names, as a peer asks for it: one without which the standard lets
the two go on, or one whose request can only be rejected (00 R6). -/
inductive Unlisted where
  | spare
  | needed
deriving DecidableEq, Repr

/-- What the training of a port measures (11 Table 11-3, R216). Times are in units of 0.1 ns. -/
structure PortTraining where
  lanesUp : Bool
  skewNs : Nat
  xa : Int
  xb : Int
  neighbour : BitVec 14
  peerPort : BitVec 4
  neighbourLocked : Bool
  activeTag : BitVec 8
  pendingTag : BitVec 8
  /-- An option of the electrical standard that the neighbour asks for beyond 11 Table 11-1. -/
  asks : Option Unlisted := none
deriving DecidableEq, Repr

/-- What the training of a stack finds (07 R133): TMAX and, per channel, the lanes that failed. -/
structure StackTraining where
  trained : Bool
  tmax : BitVec 8
  failed : List (Fin 16 × Fin 72)
deriving DecidableEq, Repr

/-- A norm partial or result on the rank tree (13 R278). -/
structure NormPartial where
  step : BitVec 48
  rank : BitVec 14
  result : Bool
  sum : Int
  flags : BitVec 3
  layers : List (BitVec 10 × Int × BitVec 3)
  outputs : List (BitVec 10 × Int × BitVec 3)
  trips : List (BitVec 10 × BitVec 2)
  stillScale : List (BitVec 10)
deriving DecidableEq, Repr

/-- A signature trailer of 1,024 bytes (17 R352): modulus, exponent, KEY_INDEX, the reserved bytes 389 to 639, and the signature. -/
structure Trailer where
  modulus : BitVec 3072
  exponent : BitVec 32
  keyIndex : BitVec 8
  reserved : BitVec 2008
  signature : BitVec 3072
deriving DecidableEq, Repr

/-- A firmware image as it stands in flash or arrives over PLDM: its directory entry (14 Table 14-3), the SHA-256 digest of its bytes
before the signature, which stands for them (log 7), and its trailer. -/
structure Image where
  cls : BitVec 8
  /-- Bit 0 VALID. -/
  flags : BitVec 8
  handoff : BitVec 16
  offset : BitVec 32
  length : BitVec 32
  version : BitVec 32
  svn : BitVec 32
  reserved : BitVec 96
  digest : BitVec 256
  trailer : Trailer
deriving DecidableEq, Repr

/-- A record of the settings image (14 Table 14-5). -/
structure SettingsRecord where
  offset : BitVec 32
  width : BitVec 8
  flags : BitVec 8
  reserved : BitVec 16
  value : Word
deriving DecidableEq, Repr

/-- A settings region: the header and records of the settings image (14 Table 14-5), the trailer at its end, and the SHA-256 digest of
the bytes before the trailer, which stands for those that no record fills (17 R355, log 7). -/
structure Settings where
  magic : BitVec 32
  format : BitVec 16
  pad : BitVec 16
  gen : BitVec 32
  count : BitVec 32
  digest : BitVec 256
  reserved : BitVec 128
  records : List SettingsRecord
  regionDigest : BitVec 256
  trailer : Trailer
deriving DecidableEq, Repr

/-- The PLDM requests beside firmware update that 14 Table 14-12 lists: Type 0 discovery, a reading of one of the eight numeric sensors of
Type 2, and the identity or the crash log record of Type 4. -/
inductive PldmQuery where
  | discovery
  | sensor (i : Fin 8)
  | fru (crash : Bool)
deriving DecidableEq, Repr

/-- A PLDM firmware update component (14 Table 14-12, 17 R351, R353), or another PLDM request. -/
inductive Component where
  | image (i : Image)
  | settings (t : Settings)
  /-- The keys to revoke, the digest of the component's bytes before the signature, and its trailer. -/
  | revocation (mask : BitVec 4) (digest : BitVec 256) (trailer : Trailer)
  | query (q : PldmQuery)
  /-- A PLDM request of a type, command or component that Table 14-12 does not list. -/
  | unlisted
deriving DecidableEq, Repr

/-- Where an SPDM request arrives: MCTP on the towpath or a function's DOE mailbox (17 R358). -/
inductive SpdmPort where
  | mctp
  | doe (f : Func)
deriving DecidableEq, Repr

/-- How the I3C bus owner gives an address: ENTDAA, or SETDASA for a static address; or a command or HDR mode that 14 Table 14-12 does not
list. -/
inductive I3cRequest where
  | entdaa
  | setdasa (static : BitVec 7)
  | unlisted
deriving DecidableEq, Repr

/-- An MCTP message that the endpoint answers by itself: a control message with its command code, or a message of a type that 14 Table 14-12
does not list. -/
inductive MctpMessage where
  | control (code : BitVec 8)
  | unlisted (type : BitVec 8)
deriving DecidableEq, Repr

/-- What an IDE_KM request does to a selective stream (17 R362). -/
inductive IdeKm where
  | program (key : BitVec 256) (base limit : Nat)
  | go
  | stop
  /-- A request for Link IDE or Partial Header Encryption, which are not supported. -/
  | unlisted
deriving DecidableEq, Repr

/-- The arguments of a log entry (14 Table 14-13). -/
structure LogArgs where
  severity : BitVec 3
  fm : Bool
  ctx : Option Ctx
  source : BitVec 8
  code : BitVec 16
  status : BitVec 8
  unit : BitVec 16
  args : List Word
deriving DecidableEq, Repr

/-- The measurements the power loop reads at one iteration (15 R321, R328, R329, R332): power of the link class,
measured and estimated module power, input power, and the estimator's compute power at each clock setting 14 to 28 and
issue 1 to 16 sixteenths and its memory power at each admitted fraction 8 to 16 sixteenths, in watts. -/
structure PowerReading where
  link : Nat
  measured : Nat
  estimate : Nat
  input : Nat
  /-- HV_IN in 0.1 V. -/
  hvDv : Nat := 3900
  computeAt : List (List Nat)
  memoryAt : List Nat
deriving DecidableEq, Repr

/-- A host configuration request: a read, a write that enables what it names, or one of the settings of 12 Table 12-1: the codes
of Max Payload Size, Max Read Request Size and the Completion Timeout range, a BAR, a width under L0p, an option that the
table does not list (12 R241, R244, 14 R293). Writes that disable are rows of their own. -/
inductive ConfigAccess where
  | read
  | busMasterEnable
  | d0
  | vfEnable
  | maxPayload (code : BitVec 3)
  | maxReadRequest (code : BitVec 3)
  | timeoutRange (code : BitVec 4)
  | bar (i : Fin 3) (address : BitVec 64)
  | vfBar (i : Fin 3) (address : BitVec 64)
  | l0p (width : BitVec 5)
  | unlisted (u : Unlisted)
deriving DecidableEq, Repr

/-- A step of a context's SCRUB, with what its access meets. -/
structure ScrubStep where
  context : Ctx
  meets : StackMeets
deriving DecidableEq, Repr

/-- An interrupted update engine, and what it finds in the words of its lock chamber (08 R160). -/
structure ChamberCheck where
  engine : Stack
  found : SramError
deriving DecidableEq, Repr

/-- Where an UNDO arrives: the mirror entry of its source, and the context (09 R179). -/
structure UndoRecord where
  source : Source
  context : Ctx
deriving DecidableEq, Repr

/-- A refresh of a bank of a stack; `managed`: on the stack's refresh management request (07 R119, R132). -/
structure BankRefresh where
  stack : Stack
  managed : Bool
deriving DecidableEq, Repr

/-- What arrives in a frame's time: none where the codewords are uncorrectable or the frame is missing; with the symbols corrected on
each of the eight lanes (11 R213, R214). -/
structure FrameArrival where
  frame : Option Frame
  corrected : List Nat
deriving DecidableEq, Repr

/-- GET_VERSION at a port, or in its place a request of another code, which 17 R358 does not list. -/
structure VersionRequest where
  port : SpdmPort
  other : Option (BitVec 8)
deriving DecidableEq, Repr

/-- The commands of the block. -/
inductive Instr where
  /-- The control core of `h` fetches a TILE and its engine executes it in queue order (04 R67). -/
  | tile (h : Hive)
  | drain (h : Hive)
  | wop (h : Hive)
  | signal (h : Hive)
  | wait (h : Hive)
  | barrier (h : Hive)
  | setx (h : Hive)
  | addx (h : Hive)
  | blt (h : Hive)
  | nop (h : Hive)
  | endStream (h : Hive)
  | copy (h : Hive)
  | convert (h : Hive)
  | transpose (h : Hive)
  | addWrite (h : Hive)
  | gather (h : Hive)
  | scatterAdd (h : Hive)
  | runComplete (x : Ctx)
  | runSuspended (x : Ctx)
  | waitRelease (w : Waiter)
  | longWait (w : Waiter)
  | signalMessage (m : SyncMsg)
  | watchMessage (m : SyncMsg)
  | releaseMessage (m : SyncMsg)
  | barrierArrivalMessage (m : SyncMsg)
  | barrierReleaseMessage (m : SyncMsg)
  /-- The unit that holds the `i`-th outgoing synchronisation message checks its age (10 R199). -/
  | messageAgeCheck (u : AgeUnit)
  | rebind (f : Func) (x : Ctx) (i : Fin 4096) (v : Word)
  | rebindEffect (x : Ctx) (i : Fin 4096)
  | xlateWrite (f : Func) (x : Ctx) (i : Fin 4096) (v : Word)
  /-- A write of SYN.BAR_CFG[n], or of SYN.BAR_PART[n][j] when `j` is given (10 R206). -/
  | barCfgWrite (f : Func) (n : Fin 4368) (j : Option (Fin 64)) (v : Word)
  | abandonStep (x : Ctx)
  | abandonRestore (x : Ctx)
  | replay (x : Ctx)
  | sqTail (f : Func) (x : Ctx) (t : BitVec 32)
  | cqHead (f : Func) (x : Ctx) (h : BitVec 32)
  | heartbeat (f : Func) (x : Ctx) (v : BitVec 32)
  | descriptorFetch (x : Ctx)
  | descriptorArrival (x : Ctx) (st : CplStatus)
  | completionWrite (x : Ctx) (st : CplStatus)
  | irqTimeout (x : Ctx)
  | runProgram (x : Ctx)
  | dma (x : Ctx)
  | signalCommand (x : Ctx)
  | waitCommand (x : Ctx)
  | barrierCommand (x : Ctx)
  | updateSweep (x : Ctx)
  | hostStart (x : Ctx)
  | hostStop (x : Ctx)
  | snapshot (x : Ctx)
  | restore (x : Ctx)
  | setTensors (x : Ctx)
  | loadLockTable (x : Ctx)
  | powerHint (x : Ctx)
  | hintPhaseStart (x : Ctx)
  | selfTest (x : Ctx)
  | suspend (x : Ctx)
  | resume (x : Ctx)
  | cancel (x : Ctx)
  | telemetry (x : Ctx)
  | scrub (k : ScrubStep)
  | logMark (x : Ctx)
  | trace (x : Ctx)
  | fwActivate (x : Ctx)
  | activationStart
  | soloRestart (c : Core)
  | coreReady (c : Core) (ok : Bool)
  | sweepPass1 (x : Ctx)
  | normPartial (x : Ctx) (p : NormPartial)
  | normTimeout (x : Ctx)
  | sweepDecision (x : Ctx)
  | pass2Block (x : Ctx) (e : Stack)
  | blockStamp (x : Ctx) (e : Stack)
  | sweepRecovery (x : Ctx) (e : ChamberCheck)
  | sweepRederive (x : Ctx)
  | commit (x : Ctx)
  | keepalive
  | recordReceive (p : Source) (record : List Byte)
  | commitRecordApply (p : Source)
  | ack (step : BitVec 48) (seq : BitVec 32)
  | resend (seq : BitVec 32)
  /-- UNDO arrives from a source, for one of its contexts. -/
  | undo (u : UndoRecord)
  | resynchronisation
  | hostRecordWrite
  | expHostHead (f : Func) (v : Word)
  | expCtrlWrite (f : Func) (v : Word)
  | partnerLost
  | sourceLost (p : Source) (reported : Bool)
  | rankMove (src : MsgSrc) (m : Msg)
  | takeover
  | jobAction (src : MsgSrc) (m : Msg)
  | jobActionAtLr (x : Ctx)
  | stepHeld (x : Ctx)
  | hiveRotation (d : Die)
  | earlyRotation (d : Die)
  | hiveMove (h : Hive)
  | hiveMoveDone (h : Hive)
  | hiveFailure (p : Slot)
  | hiveReplacement (d : Die)
  /-- The background scrub visits the SRAM word at a device address and finds it as given (06 R112). -/
  | sramScrub (a : BitVec 48) (e : SramError)
  | combLineSpare (c : Sector)
  /-- Stack controller access at a 32-byte unit: a read, or a write of the given bytes, with what it meets (07 R119, R120, R135). -/
  | stackAccess (k : Stack) (unit : BitVec 30) (data : Option (List Byte)) (m : StackMeets)
  | rowRepair (k : Stack)
  | patrolScrub (k : Stack) (unit : BitVec 30) (m : StackMeets)
  | refresh (k : BankRefresh)
  | sluiceWindow (k : Stack)
  | stackTempRead (k : Stack) (temp : BitVec 8)
  | throttleStepChange (k : Stack)
  | channelRetrain (k : Stack) (c : Fin 16) (lanes : List (Fin 72))
  | stackTraining (k : Stack) (t : StackTraining)
  | sluiceCommit (f : Func) (k : Stack)
  | sluiceApply (k : Stack)
  | frameTransmit (p : PortCode)
  | frameReceive (p : PortCode) (f : FrameArrival)
  | flitDeliver (p : PortCode) (b : BitVec 12)
  | reduceCombine (p : PortCode) (b : BitVec 12)
  | resendRequest (p : PortCode) (frame : BitVec 56)
  | resendRetry (p : PortCode) (b : BitVec 12)
  | packetReceive (p : PortCode) (k : Packet)
  | portDown (p : Sector) (cause : BitVec 8)
  | portErrorWarning (p : Sector) (symbols corrected frames bad : Nat)
  | portTraining (p : Sector) (t : PortTraining)
  | alignmentCheck (p : Sector) (xa xb : Int)
  | hallRefLoss
  | portCtrlWrite (f : Func) (p : Sector) (v : Word)
  | tableSelectArm (f : Func) (v : Word)
  | tableSwitch
  | oldTableRetire (p : PortCode)
  | canalEdgeLost (c : Fin 64)
  | perst
  | functionLevelReset (f : Func)
  | linkDown
  | busMasterDisable (f : Func)
  | d3hotEntry (f : Func)
  | vfDisable
  | completionTimeout (x : Ctx)
  | heartbeatExpiry (x : Ctx)
  | contextParked (x : Ctx)
  | hostAccessFailure (x : Ctx) (st : CplStatus)
  | ringCfgWrite (f : Func) (x : Ctx) (v : Word)
  | attachResume (f : Func) (x : Ctx)
  | attachReplay (f : Func) (x : Ctx)
  | attachCancel (f : Func) (x : Ctx)
  | configRequest (f : Func) (a : ConfigAccess)
  | inSlot (f : Func) (x : Ctx) (dmwr : Bool) (offset : Nat) (data : List Byte)
  | mailboxAck (m : MailboxId)
  | outAck (f : Func) (x : Ctx) (v : BitVec 32)
  | identify (src : MsgSrc) (m : Msg)
  | health (src : MsgSrc) (m : Msg)
  | resetModule (src : MsgSrc) (m : Msg)
  | setBudget (src : MsgSrc) (m : Msg)
  | setFreq (src : MsgSrc) (m : Msg)
  | attest (src : MsgSrc) (m : Msg)
  | fwActivateMessage (src : MsgSrc) (m : Msg)
  | pldmUpdateComponent (c : Component)
  | getVersion (r : VersionRequest)
  | getCapabilities (p : SpdmPort)
  | negotiateAlgorithms (p : SpdmPort) (rsapss3072 sha256 secp384r1 aes256gcm : Bool)
  | getDigests (p : SpdmPort)
  | getCertificate (p : SpdmPort) (slot : BitVec 8)
  | challenge (p : SpdmPort) (slot : BitVec 8) (nonce : BitVec 256)
  | getMeasurements (p : SpdmPort) (block : BitVec 8) (nonce : BitVec 256)
  | keyExchange (p : SpdmPort) (slot : BitVec 8) (pubKey : Nat)
  | finish (p : SpdmPort) (verified : Bool)
  | endSession (p : SpdmPort)
  | ideKmRequest (f : Func) (i : Fin 4) (k : IdeKm)
  | logEntry (a : LogArgs)
  | logHeadWrite (f : Func) (v : Word)
  | tracePoint (n : Fin 4096) (args : List Word)
  | moduleReset
  /-- The boot ROM's steps 1 to 3, with the levels of the tray's straps; open reads 1 (14 R292, 19 R386). -/
  | bootRom (traySlot : BitVec 2) (trayId : BitVec 6)
  | railBringUp
  | imageLoad
  | applyDefaults
  | protLock (f : Func) (v : Word)
  | auxValid
  | auxLoss
  | hvInValid
  /-- HV_IN leaves its range; the operand is its level in 0.1 V (15 R320). -/
  | hvInOutOfRange (dv : Nat)
  | hvInReturn
  /-- CONV_ALERT_N has been low for `ns` nanoseconds (15 R326). -/
  | convAlert (ns : Nat)
  | converterFault (i : Fin 4)
  | lowestStateExit
  /-- A margin sensor of an island, in ps. Islands: hive slots 0-319, die fabrics 320-383, stack islands 384-415, comb-die
  logic 416-431, service main islands 432-435; then those that do not stretch: ports, canal routers, standby (15 R324). -/
  | droopStretch (island : Fin 472) (margin : Int)
  | droopRecovery (island : Fin 472) (margin : Int) (cycles : Nat)
  /-- A die's estimated draw, in units of 0.1 W of the die's ceiling (15 R325). -/
  | currentLimiter (d : Die) (current : Nat)
  /-- The minimum margin of a regulator's region, in ps. Regions: the 452 of the logic class, then the 1,360 of the
  memory-array class, each in the order of 15 Table 15-2. -/
  | regulatorStep (region : Fin 1812) (margin : Int)
  | marginShort (region : Fin 1812) (margin : Int)
  /-- One iteration of the power loop over what it measures and estimates (15 R329). -/
  | powerLoop (r : PowerReading)
  | estimatorFault (measured estimate : Nat)
  | budgetLockCycle
  | freqSwitch
  /-- The conversion of one junction sensor; `none` is a sensor that stopped converting (16 R343). -/
  | junctionConversion (n : Fin 1280) (reading : Option Int)
  | thermtripRelease
  | thermtripInput (low : Bool)
  | flowPulse (widthUs : Nat)
  | flowDecay
  | flowStop
  | flowStopRelease
  /-- S3 reads the inlet and outlet sensors, in 0.1 degC; `none` is a failed sensor (16 R341, R343). -/
  | coolantRead (inlet outlet : Option Int)
  | flowLow
  | inletHigh
  | capBinding
  | errorCountClear (f : Func) (offset : BitVec 26) (v : Word)
  /-- A BAR 0 write of `bytes` bytes at `offset` through function `f` (18 R364). -/
  | registerWrite (f : Func) (offset : BitVec 26) (bytes : Nat) (v : Word)
  | stackCatastrophicTemperature (k : Stack)
  | convAlertNRelease
  | perstNDeasserted
  | hallRefReturn
  | anchorSet
  | ownerModeFuseWrite (mode : BitVec 2) (hash : BitVec 256)
  | dynamicAddressAssignment (static : I3cRequest) (addr : BitVec 7)
  | mctpControlMessage (command : MctpMessage) (data : List Byte)
deriving DecidableEq, Repr

end Sys2Proof
end

