-- ==== Sys2Proof/Decode.lean ====
section
/-! DEFINITION. The commands that bits spell. The opcode table gives its rows no bits, so no word spells one. -/

namespace Sys2Proof

/-- The command that a word of the opcode table's bits spells: none, for no row of the table has bits. -/
def decodeTableWord (_nbits _w : Nat) : Option Instr := none

end Sys2Proof
end

