-- ==== Sys2Proof/Machine/Sparse.lean ====
section
/-! DEFINITION. Sparse maps from natural keys, and the byte memories built on them. A map lists its keys strictly
rising and lists no key whose value is the default, so that equal maps are equal data. -/

namespace Sys2Proof.Machine

/-- The value at a key; an unlisted key holds the default. -/
def sget {α : Type} (d : α) : List (Nat × α) → Nat → α
  | [], _ => d
  | (k, v) :: r, n => if k = n then v else sget d r n

/-- The map without a key. -/
def sdel {α : Type} : List (Nat × α) → Nat → List (Nat × α)
  | [], _ => []
  | (k, v) :: r, n => if k = n then sdel r n else (k, v) :: sdel r n

/-- The map with a key inserted before the first larger one. -/
def sins {α : Type} : List (Nat × α) → Nat → α → List (Nat × α)
  | [], n, v => [(n, v)]
  | (k, w) :: r, n, v => if n < k then (n, v) :: (k, w) :: r else (k, w) :: sins r n v

/-- The map with `v` at key `n`; writing the default removes the entry. -/
def sput {α : Type} [DecidableEq α] (d : α) (m : List (Nat × α)) (n : Nat) (v : α) : List (Nat × α) :=
  if v = d then sdel m n else sins (sdel m n) n v

/-- The map with `f` applied to the value at key `n`. -/
def smod {α : Type} [DecidableEq α] (d : α) (m : List (Nat × α)) (n : Nat) (f : α → α) : List (Nat × α) :=
  sput d m n (f (sget d m n))

/-- The map with `f` applied to every listed value, by key. -/
def smapAll {α : Type} [DecidableEq α] (d : α) (m : List (Nat × α)) (f : Nat → α → α) : List (Nat × α) :=
  (m.map (fun e => (e.1, f e.1 e.2))).filter (fun e => decide (e.2 ≠ d))

/-- The keys rise strictly from above `lo`. -/
def srising {α : Type} : Option Nat → List (Nat × α) → Bool
  | _, [] => true
  | lo, (k, _) :: r => (match lo with
    | none => true
    | some l => decide (l < k)) && srising (some k) r

/-- The canonical form: keys strictly rising, no default listed. -/
def swf {α : Type} [DecidableEq α] (d : α) (m : List (Nat × α)) : Bool :=
  srising none m && m.all (fun e => decide (e.2 ≠ d))

/-- A byte memory; an unlisted address reads as 0 (log 3, 4). -/
abbrev Memory := List Host.Cell

/-- The byte at an address. -/
def Memory.byte (m : Memory) (a : Nat) : Byte := sget 0 m a

/-- The memory with one byte written. -/
def Memory.setByte (m : Memory) (a : Nat) (b : Byte) : Memory := sput 0 m a b

/-- The canonical form of a memory. -/
def Memory.wf (m : Memory) : Bool := swf (0 : Byte) m

/-- The `n` bytes from address `a`. -/
def Memory.bytes (m : Memory) (a n : Nat) : List Byte := (List.range n).map (fun i => m.byte (a + i))

/-- The memory with bytes written from address `a`. -/
def Memory.setBytes (m : Memory) (a : Nat) : List Byte → Memory
  | [] => m
  | b :: bs => (m.setByte a b).setBytes (a + 1) bs

/-- The number that bytes spell, little-endian (18 R366). -/
def leNat : List Byte → Nat
  | [] => 0
  | b :: bs => b.toNat + 256 * leNat bs

/-- The `n` little-endian bytes of a number. -/
def natLe (v : Nat) : Nat → List Byte
  | 0 => []
  | n + 1 => BitVec.ofNat 8 v :: natLe (v / 256) n

/-- The little-endian number in the `n` bytes from address `a`. -/
def Memory.nat (m : Memory) (a n : Nat) : Nat := leNat (m.bytes a n)

/-- The memory with a little-endian number of `n` bytes written at address `a`. -/
def Memory.setNat (m : Memory) (a n v : Nat) : Memory := m.setBytes a (natLe v n)

/-- Bits `hi` to `lo` of a number. -/
def bits (v hi lo : Nat) : Nat := v / 2 ^ lo % 2 ^ (hi + 1 - lo)

/-- Bit `i` of a number. -/
def bitAt (v i : Nat) : Bool := v.testBit i

/-- A number with bits `hi` to `lo` replaced. -/
def setBits (v hi lo x : Nat) : Nat :=
  v - bits v hi lo * 2 ^ lo + (x % 2 ^ (hi + 1 - lo)) * 2 ^ lo

/-- 1 for true. -/
def b2n (b : Bool) : Nat := if b then 1 else 0

end Sys2Proof.Machine
end

