-- ==== Sys2Proof/Machine/RegMap.lean ====
section
/-! DEFINITION. The set-up register map of BAR 0 (18 Tables 18-3 to 18-14): every register's offsets, width, access,
reset value, and the bits that a write can set, clear or start. -/

namespace Sys2Proof.Machine

/-- The registers of BAR 0. -/
inductive Reg where
  | hifId
  | hifCaps
  | hifModuleStat
  | hifLinkStat
  | hifFuncStat
  | ctxSqBase
  | ctxCqBase
  | ctxRingCfg
  | ctxIrqCfg
  | ctxHostBase
  | ctxHostSize
  | ctxHbCfg
  | ctxJob
  | ctxState
  | ctxRingPos
  | ctxCqPos
  | ctxAttach
  | ctxRingErr
  | ctxRingCrc
  | ctxJobId
  | synXlate
  | synBarCfg
  | synBarPart
  | synBarStat
  | synCtxSync
  | synWaitLimit
  | synCntCfg
  | synCntVal
  | memCtrl
  | memPart
  | memSluice
  | memSluiceCmd
  | memTherm
  | memErrStat
  | memErrAddr
  | memLaneStat
  | memFjCfg
  | memFjUsed
  | updCtxStat
  | updCtxNorm
  | updEngStat
  | updAuditStat
  | updExpCtrl
  | updExpStat
  | updExpHost
  | updExpSpool
  | updMirrorIn
  | updMirrorStat
  | updMirrorSpool
  | lnkPortCtrl
  | lnkPortStat
  | lnkErrStat
  | lnkSpill
  | lnkNodeCfg
  | lnkFrame
  | lnkTableSelect
  | lnkTableAt
  | lnkRoute
  | canPortStat
  | canErrStat
  | canSpill
  | pwrCtrl
  | pwrMode
  | pwrBudget
  | pwrBudgetAt
  | pwrFreqAt
  | pwrLimitStat
  | pwrMeas
  | pwrShare
  | pwrAlertCfg
  | pwrDroopCfg
  | pwrDieStat
  | thmCoolant
  | thmFlowCfg
  | thmTjCfg
  | thmStat
  | thmHiveRot
  | thmSpareMap
  | fwlFwStat
  | fwlLogBase
  | fwlLogCfg
  | fwlLogPos
  | fwlLogStat
  | fwlSettingsStat
  | fwlTraceEn
  | secProtLock
  | secBootStat
  | secCtxFunc
  | secFuncPerm
  | secCtxHives
  | secCtxMem
  | secCtxLayers
  | secCtxSlots
  | secMeas
  | numMonCtrl
  | numStillCtrl
  | numRotCtrl
  | numOvfTrig
  | numFreezeCtrl
  | numLayerCfg
  | numLayerStat
  | numFreezePath
deriving DecidableEq, Repr

/-- Who may write a register (18, Access columns; 12 R245, 10, 17 R359): every function; the physical function; the
function of the context of the first index, or of the second; the function of the context that owns the barrier slot,
the counter or the layer; nobody. -/
inductive RegWriter where
  | any
  | pf
  | ctx
  | ctx2
  | slot
  | cnt
  | layer
  | none
deriving DecidableEq, Repr

/-- Access of a register (00 Table 0-2). -/
inductive RegAccess where
  | ro
  | rw
  | bl
  | wor
deriving DecidableEq, Repr

/-- One row of the map: an offset `base + s1 * i + s2 * j` with `i < n1` and `j < n2`, the width in bytes, and the masks
of the RW, W1C and W1S bits. -/
structure RegRow where
  reg : Reg
  base : Nat
  s1 : Nat
  n1 : Nat
  s2 : Nat
  n2 : Nat
  bytes : Nat
  access : RegAccess
  writer : RegWriter
  reset : Nat
  rw : Nat
  w1c : Nat
  w1s : Nat
deriving DecidableEq, Repr

/-- Rows of the HIF block. -/
def rowsHif : List RegRow := [
  ⟨.hifId, 0x0, 0x0, 1, 0x0, 1, 8, .ro, .none, 0x483201000401, 0x0, 0x0, 0x0⟩,
  ⟨.hifCaps, 0x8, 0x0, 1, 0x0, 1, 8, .ro, .none, 0x400f0001002010, 0x0, 0x0, 0x0⟩,
  ⟨.hifModuleStat, 0x10, 0x0, 1, 0x0, 1, 4, .ro, .none, 0x0, 0x0, 0x0, 0x0⟩,
  ⟨.hifLinkStat, 0x18, 0x0, 1, 0x0, 1, 8, .ro, .none, 0x0, 0x0, 0x0, 0x0⟩,
  ⟨.hifFuncStat, 0x100, 0x8, 16, 0x0, 1, 8, .ro, .none, 0x0, 0x0, 0x0, 0x0⟩]

/-- Rows of the CTX block. -/
def rowsCtx : List RegRow := [
  ⟨.ctxSqBase, 0x100000, 0x1000, 64, 0x0, 1, 8, .rw, .ctx, 0x0, 0xfffffffffffff000, 0x0, 0x0⟩,
  ⟨.ctxCqBase, 0x100008, 0x1000, 64, 0x0, 1, 8, .rw, .ctx, 0x0, 0xfffffffffffff000, 0x0, 0x0⟩,
  ⟨.ctxRingCfg, 0x100010, 0x1000, 64, 0x0, 1, 4, .rw, .ctx, 0x0, 0x80001f1f, 0x0, 0x0⟩,
  ⟨.ctxIrqCfg, 0x100014, 0x1000, 64, 0x0, 1, 4, .rw, .ctx, 0x101, 0xffffff01, 0x0, 0x0⟩,
  ⟨.ctxHostBase, 0x100018, 0x1000, 64, 0x0, 1, 8, .rw, .ctx, 0x0, 0xfffffffffffff000, 0x0, 0x0⟩,
  ⟨.ctxHostSize, 0x100020, 0x1000, 64, 0x0, 1, 8, .rw, .ctx, 0x0, 0xfffffffff000, 0x0, 0x0⟩,
  ⟨.ctxHbCfg, 0x100028, 0x1000, 64, 0x0, 1, 4, .rw, .ctx, 0x7d0, 0xffff, 0x0, 0x0⟩,
  ⟨.ctxJob, 0x10002c, 0x1000, 64, 0x0, 1, 4, .rw, .ctx, 0x0, 0x3fff3fff, 0x0, 0x0⟩,
  ⟨.ctxState, 0x100030, 0x1000, 64, 0x0, 1, 4, .ro, .ctx, 0x0, 0x0, 0x0, 0x0⟩,
  ⟨.ctxRingPos, 0x100038, 0x1000, 64, 0x0, 1, 8, .ro, .ctx, 0x0, 0x0, 0x0, 0x0⟩,
  ⟨.ctxCqPos, 0x100040, 0x1000, 64, 0x0, 1, 8, .ro, .ctx, 0x0, 0x0, 0x0, 0x0⟩,
  ⟨.ctxAttach, 0x100048, 0x1000, 64, 0x0, 1, 4, .rw, .ctx, 0x0, 0x0, 0x4, 0x3⟩,
  ⟨.ctxRingErr, 0x10004c, 0x1000, 64, 0x0, 1, 4, .rw, .ctx, 0x0, 0x0, 0x1f, 0x0⟩,
  ⟨.ctxRingCrc, 0x100050, 0x1000, 64, 0x0, 1, 4, .ro, .ctx, 0x0, 0x0, 0x0, 0x0⟩,
  ⟨.ctxJobId, 0x100054, 0x1000, 64, 0x0, 1, 4, .rw, .ctx, 0x0, 0xffff, 0x0, 0x0⟩]

/-- Rows of the SYN block. -/
def rowsSyn : List RegRow := [
  ⟨.synXlate, 0x400000, 0x8000, 64, 0x8, 4096, 8, .rw, .ctx, 0x0, 0xe3ff00003fffffff, 0x0, 0x400000000000000⟩,
  ⟨.synBarCfg, 0x600000, 0x8, 4368, 0x0, 1, 8, .rw, .slot, 0x0, 0xffff00ffff1fff, 0x0, 0x0⟩,
  ⟨.synBarPart, 0x620000, 0x100, 4368, 0x4, 64, 4, .rw, .slot, 0x0, 0xcfffdfff, 0x0, 0x0⟩,
  ⟨.synBarStat, 0x732000, 0x8, 4368, 0x0, 1, 8, .ro, .none, 0x0, 0x0, 0x0, 0x0⟩,
  ⟨.synCtxSync, 0x73c000, 0x8, 64, 0x0, 1, 8, .rw, .ctx, 0x0, 0x0, 0xc000000000000000, 0x0⟩,
  ⟨.synWaitLimit, 0x73c400, 0x0, 1, 0x0, 1, 4, .rw, .pf, 0x1388, 0xffff, 0x0, 0x0⟩,
  ⟨.synCntCfg, 0x740000, 0x4, 65536, 0x0, 1, 4, .rw, .cnt, 0x0, 0x8001ffff, 0x0, 0x0⟩,
  ⟨.synCntVal, 0x780000, 0x8, 65536, 0x0, 1, 8, .ro, .none, 0x0, 0x0, 0x0, 0x0⟩]

/-- Rows of the MEM block. -/
def rowsMem : List RegRow := [
  ⟨.memCtrl, 0x800000, 0x10000, 32, 0x0, 1, 4, .rw, .any, 0x3c0002, 0x7ff0003, 0x0, 0x0⟩,
  ⟨.memPart, 0x800100, 0x10000, 32, 0x8, 8, 8, .rw, .pf, 0x0, 0x7f0000007f, 0x0, 0x0⟩,
  ⟨.memSluice, 0x800140, 0x10000, 32, 0x4, 8, 4, .rw, .pf, 0x4000, 0x7f7f, 0x0, 0x0⟩,
  ⟨.memSluiceCmd, 0x800180, 0x10000, 32, 0x0, 1, 4, .rw, .pf, 0x0, 0x0, 0x2, 0x1⟩,
  ⟨.memTherm, 0x800200, 0x10000, 32, 0x0, 1, 4, .ro, .none, 0x0, 0x0, 0x0, 0x0⟩,
  ⟨.memErrStat, 0x800300, 0x10000, 32, 0x0, 1, 8, .rw, .any, 0x0, 0x0, 0x0, 0x8000000000000000⟩,
  ⟨.memErrAddr, 0x800308, 0x10000, 32, 0x0, 1, 8, .rw, .any, 0x0, 0x0, 0xc000000000000000, 0x0⟩,
  ⟨.memLaneStat, 0x800400, 0x10000, 32, 0x8, 16, 8, .ro, .none, 0x0, 0x0, 0x0, 0x0⟩,
  ⟨.memFjCfg, 0x801000, 0x10000, 32, 0x10, 64, 8, .rw, .ctx2, 0x0, 0x7fff00007fff, 0x0, 0x0⟩,
  ⟨.memFjUsed, 0x801008, 0x10000, 32, 0x10, 64, 8, .ro, .none, 0x0, 0x0, 0x0, 0x0⟩]

/-- Rows of the UPD block. -/
def rowsUpd : List RegRow := [
  ⟨.updCtxStat, 0xc00000, 0x10, 64, 0x0, 1, 8, .ro, .none, 0x0, 0x0, 0x0, 0x0⟩,
  ⟨.updCtxNorm, 0xc00008, 0x10, 64, 0x0, 1, 8, .ro, .none, 0x0, 0x0, 0x0, 0x0⟩,
  ⟨.updEngStat, 0xc00400, 0x8, 32, 0x0, 1, 8, .ro, .none, 0x0, 0x0, 0x0, 0x0⟩,
  ⟨.updAuditStat, 0xc00500, 0x0, 1, 0x0, 1, 4, .rw, .any, 0x0, 0x0, 0x10000, 0x0⟩,
  ⟨.updExpCtrl, 0xc00600, 0x0, 1, 0x0, 1, 8, .rw, .pf, 0x0, 0xfffcffff0003, 0x0, 0x0⟩,
  ⟨.updExpStat, 0xc00608, 0x0, 1, 0x0, 1, 8, .ro, .none, 0x0, 0x0, 0x0, 0x0⟩,
  ⟨.updExpHost, 0xc00610, 0x0, 1, 0x0, 1, 8, .rw, .any, 0x0, 0xffffffff, 0x8000000000000000, 0x0⟩,
  ⟨.updExpSpool, 0xc00700, 0x8, 32, 0x0, 1, 8, .rw, .pf, 0x0, 0x7fff00007fff, 0x0, 0x0⟩,
  ⟨.updMirrorIn, 0xc00800, 0x10, 16, 0x0, 1, 8, .rw, .pf, 0x4000000, 0xfffe7fffffff0000, 0x0, 0x0⟩,
  ⟨.updMirrorStat, 0xc00808, 0x10, 16, 0x0, 1, 8, .ro, .none, 0x0, 0x0, 0x0, 0x0⟩,
  ⟨.updMirrorSpool, 0xc00900, 0x8, 16, 0x0, 1, 8, .rw, .pf, 0x0, 0x1f7fff00007fff, 0x0, 0x0⟩]

/-- Rows of the LNK block. -/
def rowsLnk : List RegRow := [
  ⟨.lnkPortCtrl, 0x1000000, 0x10000, 16, 0x0, 1, 4, .rw, .pf, 0x0, 0x1, 0x0, 0x2⟩,
  ⟨.lnkPortStat, 0x1000008, 0x10000, 16, 0x0, 1, 8, .ro, .none, 0x0, 0x0, 0x0, 0x0⟩,
  ⟨.lnkErrStat, 0x1000010, 0x10000, 16, 0x0, 1, 8, .rw, .any, 0x0, 0x0, 0x0, 0x8000000000000000⟩,
  ⟨.lnkSpill, 0x1000018, 0x10000, 16, 0x0, 1, 4, .rw, .pf, 0x0, 0x7ff03ff, 0x0, 0x0⟩,
  ⟨.lnkNodeCfg, 0x1100000, 0x0, 1, 0x0, 1, 4, .rw, .pf, 0x0, 0x3fff0001, 0x0, 0x0⟩,
  ⟨.lnkFrame, 0x1100008, 0x0, 1, 0x0, 1, 8, .ro, .none, 0x0, 0x0, 0x0, 0x0⟩,
  ⟨.lnkTableSelect, 0x1100010, 0x0, 1, 0x0, 1, 4, .rw, .pf, 0x0, 0x1000ffff, 0x20000000, 0x80000000⟩,
  ⟨.lnkTableAt, 0x1100018, 0x0, 1, 0x0, 1, 8, .rw, .pf, 0x0, 0x3fffffffffff, 0x0, 0x0⟩,
  ⟨.lnkRoute, 0x1110000, 0x4, 4096, 0x0, 1, 4, .rw, .pf, 0x0, 0x8f8f8f8f, 0x0, 0x0⟩]

/-- Rows of the CAN block. -/
def rowsCan : List RegRow := [
  ⟨.canPortStat, 0x1800000, 0x10, 64, 0x0, 1, 8, .ro, .none, 0x6000000000000000, 0x0, 0x0, 0x0⟩,
  ⟨.canErrStat, 0x1800008, 0x10, 64, 0x0, 1, 8, .rw, .any, 0x0, 0x0, 0x0, 0x8000000000000000⟩,
  ⟨.canSpill, 0x1801000, 0x4, 16, 0x0, 1, 4, .rw, .pf, 0x0, 0x7ff03ff, 0x0, 0x0⟩]

/-- Rows of the PWR block. -/
def rowsPwr : List RegRow := [
  ⟨.pwrCtrl, 0x2000000, 0x0, 1, 0x0, 1, 4, .bl, .any, 0x1c001130, 0x3f011fff, 0x0, 0x0⟩,
  ⟨.pwrMode, 0x2000008, 0x0, 1, 0x0, 1, 4, .ro, .none, 0x1c1c0000, 0x0, 0x0, 0x0⟩,
  ⟨.pwrBudget, 0x2000010, 0x0, 1, 0x0, 1, 8, .ro, .none, 0x113011300000, 0x0, 0x0, 0x0⟩,
  ⟨.pwrBudgetAt, 0x2000018, 0x0, 1, 0x0, 1, 8, .ro, .none, 0x0, 0x0, 0x0, 0x0⟩,
  ⟨.pwrFreqAt, 0x2000020, 0x0, 1, 0x0, 1, 8, .ro, .none, 0x0, 0x0, 0x0, 0x0⟩,
  ⟨.pwrLimitStat, 0x2000028, 0x0, 1, 0x0, 1, 4, .rw, .any, 0x101000, 0x0, 0x90000000, 0x0⟩,
  ⟨.pwrMeas, 0x2000030, 0x0, 1, 0x0, 1, 8, .ro, .none, 0x0, 0x0, 0x0, 0x0⟩,
  ⟨.pwrShare, 0x2000038, 0x0, 1, 0x0, 1, 8, .ro, .none, 0x0, 0x0, 0x0, 0x0⟩,
  ⟨.pwrAlertCfg, 0x2000040, 0x0, 1, 0x0, 1, 4, .rw, .pf, 0xa, 0xffff, 0x0, 0x0⟩,
  ⟨.pwrDroopCfg, 0x2000048, 0x0, 1, 0x0, 1, 4, .bl, .any, 0x28000c, 0xff00ff, 0x0, 0x0⟩,
  ⟨.pwrDieStat, 0x2001000, 0x8, 64, 0x0, 1, 8, .ro, .none, 0x10, 0x0, 0x0, 0x0⟩]

/-- Rows of the THM block. -/
def rowsThm : List RegRow := [
  ⟨.thmCoolant, 0x2400000, 0x0, 1, 0x0, 1, 8, .ro, .none, 0x0, 0x0, 0x0, 0x0⟩,
  ⟨.thmFlowCfg, 0x2400008, 0x0, 1, 0x0, 1, 4, .bl, .any, 0x14500708, 0xffffffff, 0x0, 0x0⟩,
  ⟨.thmTjCfg, 0x240000c, 0x0, 1, 0x0, 1, 4, .bl, .any, 0x15f, 0x1ff, 0x0, 0x0⟩,
  ⟨.thmStat, 0x2400010, 0x0, 1, 0x0, 1, 8, .ro, .none, 0x12c0000000000000, 0x0, 0x0, 0x0⟩,
  ⟨.thmHiveRot, 0x2400100, 0x0, 1, 0x0, 1, 4, .rw, .any, 0xa, 0xffff, 0x0, 0x0⟩,
  ⟨.thmSpareMap, 0x2400110, 0x4, 8, 0x0, 1, 4, .ro, .none, 0x0, 0x0, 0x0, 0x0⟩]

/-- Rows of the FWL block. -/
def rowsFwl : List RegRow := [
  ⟨.fwlFwStat, 0x2800000, 0x0, 1, 0x0, 1, 8, .ro, .none, 0x0, 0x0, 0x0, 0x0⟩,
  ⟨.fwlLogBase, 0x2800008, 0x0, 1, 0x0, 1, 8, .rw, .pf, 0x0, 0xfffffffffffff000, 0x0, 0x0⟩,
  ⟨.fwlLogCfg, 0x2800010, 0x0, 1, 0x0, 1, 4, .rw, .pf, 0x110, 0x8000071f, 0x0, 0x0⟩,
  ⟨.fwlLogPos, 0x2800018, 0x0, 1, 0x0, 1, 8, .rw, .pf, 0x0, 0xffffffff, 0x0, 0x0⟩,
  ⟨.fwlLogStat, 0x2800020, 0x0, 1, 0x0, 1, 8, .rw, .pf, 0x0, 0x0, 0x8000000000000000, 0x0⟩,
  ⟨.fwlSettingsStat, 0x2800028, 0x0, 1, 0x0, 1, 4, .ro, .none, 0x0, 0x0, 0x0, 0x0⟩,
  ⟨.fwlTraceEn, 0x2801000, 0x4, 128, 0x0, 1, 4, .rw, .pf, 0x0, 0xffffffff, 0x0, 0x0⟩]

/-- Rows of the SEC block. -/
def rowsSec : List RegRow := [
  ⟨.secProtLock, 0x2c00000, 0x0, 1, 0x0, 1, 4, .wor, .any, 0x0, 0x0, 0x0, 0x1⟩,
  ⟨.secBootStat, 0x2c00008, 0x0, 1, 0x0, 1, 8, .ro, .any, 0x0, 0x0, 0x0, 0x0⟩,
  ⟨.secCtxFunc, 0x2c00100, 0x4, 64, 0x0, 1, 4, .bl, .any, 0x0, 0x3f, 0x0, 0x0⟩,
  ⟨.secFuncPerm, 0x2c00200, 0x4, 16, 0x0, 1, 4, .bl, .any, 0x0, 0x1ff, 0x0, 0x0⟩,
  ⟨.secCtxHives, 0x2c01000, 0x20, 64, 0x8, 4, 8, .bl, .any, 0x0, 0xffffffffffffffff, 0x0, 0x0⟩,
  ⟨.secCtxMem, 0x2c02000, 0x100, 64, 0x8, 32, 8, .bl, .any, 0x0, 0xffff00000fffffff, 0x0, 0x0⟩,
  ⟨.secCtxLayers, 0x2c06000, 0x4, 64, 0x0, 1, 4, .bl, .any, 0x0, 0x7ff03ff, 0x0, 0x0⟩,
  ⟨.secCtxSlots, 0x2c06100, 0x28, 64, 0x8, 5, 8, .bl, .any, 0x0, 0xffffffffffffffff, 0x0, 0x0⟩,
  ⟨.secMeas, 0x2c07000, 0x20, 10, 0x8, 4, 8, .ro, .any, 0x0, 0x0, 0x0, 0x0⟩]

/-- Rows of the NUM block. -/
def rowsNum : List RegRow := [
  ⟨.numMonCtrl, 0x3000000, 0x0, 1, 0x0, 1, 4, .rw, .any, 0x85101, 0xfffff1, 0x0, 0x0⟩,
  ⟨.numStillCtrl, 0x3000004, 0x0, 1, 0x0, 1, 4, .rw, .any, 0x100, 0x3ffff, 0x0, 0x0⟩,
  ⟨.numRotCtrl, 0x3000008, 0x0, 1, 0x0, 1, 4, .rw, .any, 0x1f407d0, 0xfffffff, 0x0, 0x0⟩,
  ⟨.numOvfTrig, 0x300000c, 0x0, 1, 0x0, 1, 4, .rw, .any, 0x1008, 0xffff, 0x0, 0x0⟩,
  ⟨.numFreezeCtrl, 0x3000010, 0x0, 1, 0x0, 1, 4, .rw, .any, 0x3204, 0xff07, 0x0, 0x0⟩,
  ⟨.numLayerCfg, 0x3010000, 0x8, 1024, 0x0, 1, 8, .rw, .layer, 0x18000, 0xffffffff000f8000, 0x0, 0x0⟩,
  ⟨.numLayerStat, 0x3020000, 0x8, 1024, 0x0, 1, 8, .ro, .none, 0x0, 0x0, 0x0, 0x0⟩,
  ⟨.numFreezePath, 0x3030000, 0x4, 32, 0x0, 1, 4, .ro, .none, 0x0, 0x0, 0x0, 0x0⟩]

/-- The read-only fields of a register that can be written (18 Tables 18-3 to 18-14). -/
def Reg.roBits : Reg → Nat
  | .synXlate => 0x1800000000000000
  | .synBarCfg => 0xFF00000000000000
  | .synCtxSync => 0xFFFFFFFFFFF
  | .memSluiceCmd => 0x4
  | .memErrStat => 0x7FFFFFFFFFFFFFFF
  | .memErrAddr => 0x3E00FFFFFFFFFFFF
  | .updAuditStat => 0xFFFF
  | .lnkErrStat => 0x7FFFFFFFFFFFFFFF
  | .lnkNodeCfg => 0x2
  | .lnkTableSelect => 0x40000000
  | .canErrStat => 0x7FFFFFFFFFFF0000
  | .pwrLimitStat => 0x601F1F00
  | .fwlLogPos => 0xFFFFFFFF00000000
  | .fwlLogStat => 0xFFFFFFFFFFFF
  | _ => 0

/-- The reserved bits of a register (00 R2). -/
def RegRow.reserved (r : RegRow) : Nat := (2 ^ (8 * r.bytes) - 1) ^^^ (r.rw ||| r.w1c ||| r.w1s ||| r.reg.roBits)

/-- A setting of the data plane that no rule gives a boundary of its own: it takes effect at the next frame boundary after the
write (01 R19; log 36). -/
def Reg.dataPlane : Reg → Bool
  | .memCtrl | .memFjCfg | .lnkNodeCfg | .updExpSpool | .updMirrorSpool | .lnkSpill | .lnkRoute | .canSpill => true
  | .numMonCtrl | .numStillCtrl | .numRotCtrl | .numOvfTrig | .numFreezeCtrl | .numLayerCfg => true
  | _ => false

/-- The whole map. -/
def regRows : List RegRow :=
  rowsHif ++ rowsCtx ++ rowsSyn ++ rowsMem ++ rowsUpd ++ rowsLnk ++ rowsCan ++ rowsPwr ++ rowsThm ++ rowsFwl ++ rowsSec ++ rowsNum

/-- The indices at which a row has an offset. -/
def RegRow.index (r : RegRow) (off : Nat) : Option (Nat × Nat) :=
  if off < r.base then none
  else
    let d := off - r.base
    let i := if r.s1 = 0 then 0 else d / r.s1
    let e := if r.s1 = 0 then d else d % r.s1
    let j := if r.s2 = 0 then 0 else e / r.s2
    let f := if r.s2 = 0 then e else e % r.s2
    if f = 0 ∧ i < r.n1 ∧ j < r.n2 then some (i, j) else none

/-- The row and indices of an offset, if the map lists it (18 R365). -/
def regFind (off : Nat) : List RegRow → Option (RegRow × Nat × Nat)
  | [] => none
  | r :: rs =>
    match r.index off with
    | some (i, j) => some (r, i, j)
    | none => regFind off rs

/-- The register at an offset. -/
def regAt (off : Nat) : Option (RegRow × Nat × Nat) := regFind off regRows

/-- The reset value of a register instance (18 Tables 18-3 to 18-14). -/
def RegRow.resetAt (r : RegRow) (i j : Nat) : Nat :=
  match r.reg with
  | .memPart => if j = 0 then 0x6000000000 else 0
  | .secCtxFunc => if i = 0 then 0x30 else 0
  | .secFuncPerm => if i = 0 then 0xFF else 0
  | .secCtxHives => if i = 0 then 0xFFFFFFFFFFFFFFFF else 0
  | .secCtxLayers => if i = 0 then 0x4000000 else 0
  | .secCtxSlots => if i = 0 then (if j = 4 then 0xFFFF else 0xFFFFFFFFFFFFFFFF) else 0
  | _ => r.reset

/-- The reset value at an offset; an unlisted offset reads zero (18 R365). -/
def regReset (off : Nat) : Nat :=
  match regAt off with
  | some (r, i, j) => r.resetAt i j
  | none => 0

namespace Off

def hifId : Nat := 0x0
def hifCaps : Nat := 0x8
def hifModuleStat : Nat := 0x10
def hifLinkStat : Nat := 0x18
def hifFuncStat (i : Nat) : Nat := 0x100 + 0x8 * i
def ctxSqBase (i : Nat) : Nat := 0x100000 + 0x1000 * i
def ctxCqBase (i : Nat) : Nat := 0x100008 + 0x1000 * i
def ctxRingCfg (i : Nat) : Nat := 0x100010 + 0x1000 * i
def ctxIrqCfg (i : Nat) : Nat := 0x100014 + 0x1000 * i
def ctxHostBase (i : Nat) : Nat := 0x100018 + 0x1000 * i
def ctxHostSize (i : Nat) : Nat := 0x100020 + 0x1000 * i
def ctxHbCfg (i : Nat) : Nat := 0x100028 + 0x1000 * i
def ctxJob (i : Nat) : Nat := 0x10002c + 0x1000 * i
def ctxState (i : Nat) : Nat := 0x100030 + 0x1000 * i
def ctxRingPos (i : Nat) : Nat := 0x100038 + 0x1000 * i
def ctxCqPos (i : Nat) : Nat := 0x100040 + 0x1000 * i
def ctxAttach (i : Nat) : Nat := 0x100048 + 0x1000 * i
def ctxRingErr (i : Nat) : Nat := 0x10004c + 0x1000 * i
def ctxRingCrc (i : Nat) : Nat := 0x100050 + 0x1000 * i
def ctxJobId (i : Nat) : Nat := 0x100054 + 0x1000 * i
def synXlate (i j : Nat) : Nat := 0x400000 + 0x8000 * i + 0x8 * j
def synBarCfg (i : Nat) : Nat := 0x600000 + 0x8 * i
def synBarPart (i j : Nat) : Nat := 0x620000 + 0x100 * i + 0x4 * j
def synBarStat (i : Nat) : Nat := 0x732000 + 0x8 * i
def synCtxSync (i : Nat) : Nat := 0x73c000 + 0x8 * i
def synWaitLimit : Nat := 0x73c400
def synCntCfg (i : Nat) : Nat := 0x740000 + 0x4 * i
def synCntVal (i : Nat) : Nat := 0x780000 + 0x8 * i
def memCtrl (i : Nat) : Nat := 0x800000 + 0x10000 * i
def memPart (i j : Nat) : Nat := 0x800100 + 0x10000 * i + 0x8 * j
def memSluice (i j : Nat) : Nat := 0x800140 + 0x10000 * i + 0x4 * j
def memSluiceCmd (i : Nat) : Nat := 0x800180 + 0x10000 * i
def memTherm (i : Nat) : Nat := 0x800200 + 0x10000 * i
def memErrStat (i : Nat) : Nat := 0x800300 + 0x10000 * i
def memErrAddr (i : Nat) : Nat := 0x800308 + 0x10000 * i
def memLaneStat (i j : Nat) : Nat := 0x800400 + 0x10000 * i + 0x8 * j
def memFjCfg (i j : Nat) : Nat := 0x801000 + 0x10000 * i + 0x10 * j
def memFjUsed (i j : Nat) : Nat := 0x801008 + 0x10000 * i + 0x10 * j
def updCtxStat (i : Nat) : Nat := 0xc00000 + 0x10 * i
def updCtxNorm (i : Nat) : Nat := 0xc00008 + 0x10 * i
def updEngStat (i : Nat) : Nat := 0xc00400 + 0x8 * i
def updAuditStat : Nat := 0xc00500
def updExpCtrl : Nat := 0xc00600
def updExpStat : Nat := 0xc00608
def updExpHost : Nat := 0xc00610
def updExpSpool (i : Nat) : Nat := 0xc00700 + 0x8 * i
def updMirrorIn (i : Nat) : Nat := 0xc00800 + 0x10 * i
def updMirrorStat (i : Nat) : Nat := 0xc00808 + 0x10 * i
def updMirrorSpool (i : Nat) : Nat := 0xc00900 + 0x8 * i
def lnkPortCtrl (i : Nat) : Nat := 0x1000000 + 0x10000 * i
def lnkPortStat (i : Nat) : Nat := 0x1000008 + 0x10000 * i
def lnkErrStat (i : Nat) : Nat := 0x1000010 + 0x10000 * i
def lnkSpill (i : Nat) : Nat := 0x1000018 + 0x10000 * i
def lnkNodeCfg : Nat := 0x1100000
def lnkFrame : Nat := 0x1100008
def lnkTableSelect : Nat := 0x1100010
def lnkTableAt : Nat := 0x1100018
def lnkRoute (i : Nat) : Nat := 0x1110000 + 0x4 * i
def canPortStat (i : Nat) : Nat := 0x1800000 + 0x10 * i
def canErrStat (i : Nat) : Nat := 0x1800008 + 0x10 * i
def canSpill (i : Nat) : Nat := 0x1801000 + 0x4 * i
def pwrCtrl : Nat := 0x2000000
def pwrMode : Nat := 0x2000008
def pwrBudget : Nat := 0x2000010
def pwrBudgetAt : Nat := 0x2000018
def pwrFreqAt : Nat := 0x2000020
def pwrLimitStat : Nat := 0x2000028
def pwrMeas : Nat := 0x2000030
def pwrShare : Nat := 0x2000038
def pwrAlertCfg : Nat := 0x2000040
def pwrDroopCfg : Nat := 0x2000048
def pwrDieStat (i : Nat) : Nat := 0x2001000 + 0x8 * i
def thmCoolant : Nat := 0x2400000
def thmFlowCfg : Nat := 0x2400008
def thmTjCfg : Nat := 0x240000c
def thmStat : Nat := 0x2400010
def thmHiveRot : Nat := 0x2400100
def thmSpareMap (i : Nat) : Nat := 0x2400110 + 0x4 * i
def fwlFwStat : Nat := 0x2800000
def fwlLogBase : Nat := 0x2800008
def fwlLogCfg : Nat := 0x2800010
def fwlLogPos : Nat := 0x2800018
def fwlLogStat : Nat := 0x2800020
def fwlSettingsStat : Nat := 0x2800028
def fwlTraceEn (i : Nat) : Nat := 0x2801000 + 0x4 * i
def secProtLock : Nat := 0x2c00000
def secBootStat : Nat := 0x2c00008
def secCtxFunc (i : Nat) : Nat := 0x2c00100 + 0x4 * i
def secFuncPerm (i : Nat) : Nat := 0x2c00200 + 0x4 * i
def secCtxHives (i j : Nat) : Nat := 0x2c01000 + 0x20 * i + 0x8 * j
def secCtxMem (i j : Nat) : Nat := 0x2c02000 + 0x100 * i + 0x8 * j
def secCtxLayers (i : Nat) : Nat := 0x2c06000 + 0x4 * i
def secCtxSlots (i j : Nat) : Nat := 0x2c06100 + 0x28 * i + 0x8 * j
def secMeas (i j : Nat) : Nat := 0x2c07000 + 0x20 * i + 0x8 * j
def numMonCtrl : Nat := 0x3000000
def numStillCtrl : Nat := 0x3000004
def numRotCtrl : Nat := 0x3000008
def numOvfTrig : Nat := 0x300000c
def numFreezeCtrl : Nat := 0x3000010
def numLayerCfg (i : Nat) : Nat := 0x3010000 + 0x8 * i
def numLayerStat (i : Nat) : Nat := 0x3020000 + 0x8 * i
def numFreezePath (i : Nat) : Nat := 0x3030000 + 0x4 * i

end Off

end Sys2Proof.Machine
end

