-- ==== Sys2Proof/Config.lean ====
section
/-! DEFINITION. What the spec leaves open or an individual part fixes: opaque constants with no body (log 7, 9, 12). -/

namespace Sys2Proof.Config

/-- A free value: number `n` of those drawn so far, for the purpose named (log 9). -/
opaque freeValue : Nat → Nat

/-- The result of a wide-unit function whose accuracy 04 Table 4-7 bounds and whose bits it does not fix: function
code, element index and the FP32 operands (R79, log 9). -/
opaque wideFn : Nat → Nat → List F32 → F32

/-- The layer, plus one, whose output activations are written to a device address, and whether the narrow tensor with its
header at an address is a gradient tensor: the spec names both kinds and gives no mark of either (03 R49, R53, log 38). -/
opaque outputLayer : Nat → Nat
opaque gradientTensor : Nat → Bool

/-- The parameter block of its layer's group to which a block of the gradient tensor with its header at an address belongs, as the
frozen-block mask numbers it: the spec does not say (03 R53, log 38). -/
opaque gradientPblock : Nat → Nat → Nat

/-- The value of a causal-mask bit that keeps its element (04 Table 4-7 SOFTMAX, log 13). -/
opaque maskKeeps : Bool

/-- The SHA-256 digests of what measurements 0 and 8 cover, whose bytes the spec does not give: the ROM version with fuses, and
the repair record (17 R356), by the measurement's index and their numbers. -/
opaque recordDigest : Nat → List Nat → BitVec 256

/-- The RSASSA-PSS signature the security core makes over a digest with a key of DEVICE_KEYS, 0 the identity key and 1 the
attestation key: its salt is the core's own (17 R357, R358). -/
opaque sign : BitVec 16384 → Nat → BitVec 256 → List Byte

/-- The certificate chain of a slot that DEVICE_KEYS holds, in a layout the spec does not give, and the device's DHE public key for a
requester's (17 R351, R358). -/
opaque certificate : BitVec 16384 → Nat → List Byte
opaque dhePublic : Nat → Nat

/-- The redundant lanes of a stack's channel (07 R133), the DRAM row within its pseudo-channel that holds 256 bytes of a stack
and the bank of a row, which 07 R120 does not expose, and the post-package repairs of a bank beyond the first (07 R137, R139):
constants of the part (log 12). -/
opaque laneSpares : Nat → Nat → Nat
opaque rowOf : Nat → Nat
opaque bankOf : Nat → Nat
opaque bankRepairs : Nat → Nat

/-- The bus time of a row activation, of a turnaround between reads and writes, and of a refresh of a bank, in times of a 32-byte
access: the spec bounds none of them (07 R122, R132; log 12). -/
opaque activationTime : Nat
opaque turnaroundTime : Nat
opaque refreshTime : Nat

end Sys2Proof.Config
end

