-- ==== Sys2Proof/Machine/Num.lean ====
section
/-! DEFINITION. Exact numbers and their rounding: the element formats of 03 Table 3-1, one rounding to
nearest even for all of them, and FP32 arithmetic. -/

namespace Sys2Proof.Machine

/-- A NaN, a signed infinity, or the exact number (-1)^neg * m * 2^e. -/
inductive Fp where
  | nan
  | inf (neg : Bool)
  | fin (neg : Bool) (m : Nat) (e : Int)
deriving DecidableEq, Repr

namespace Fp

/-- Positive zero. -/
def zero : Fp := .fin false 0 0

/-- One. -/
def one : Fp := .fin false 1 0

/-- A natural number. -/
def ofNat (n : Nat) : Fp := .fin false n 0

/-- The signed integer of a mantissa. -/
def signed (neg : Bool) (m : Nat) : Int := if neg then -(m : Int) else m

/-- The negated value. -/
def neg : Fp → Fp
  | nan => nan
  | inf s => inf (!s)
  | fin s m e => fin (!s) m e

/-- The magnitude. -/
def abs : Fp → Fp
  | nan => nan
  | inf _ => inf false
  | fin _ m e => fin false m e

/-- The exact sum; an exact zero is +0 unless both inputs are -0. -/
def add : Fp → Fp → Fp
  | nan, _ => nan
  | _, nan => nan
  | inf a, inf b => if a = b then inf a else nan
  | inf a, fin .. => inf a
  | fin .., inf b => inf b
  | fin s m e, fin t n f =>
    let q := min e f
    let x := signed s (m * 2 ^ (e - q).toNat) + signed t (n * 2 ^ (f - q).toNat)
    fin (decide (x < 0) || (decide (x = 0) && s && t)) x.natAbs q

/-- The exact difference. -/
def sub (a b : Fp) : Fp := add a b.neg

/-- The exact product. -/
def mul : Fp → Fp → Fp
  | nan, _ => nan
  | _, nan => nan
  | inf a, inf b => inf (a != b)
  | inf a, fin t n _ => if n = 0 then nan else inf (a != t)
  | fin s m _, inf b => if m = 0 then nan else inf (s != b)
  | fin s m e, fin t n f => fin (s != t) (m * n) (e + f)

/-- The exact sum of a list, with a zero result +0. -/
def sum (xs : List Fp) : Fp := xs.foldl add zero

/-- The value times 2^k. -/
def scale (x : Fp) (k : Int) : Fp :=
  match x with
  | fin s m e => fin s m (e + k)
  | y => y

/-- True for a NaN. -/
def isNan : Fp → Bool
  | nan => true
  | _ => false

/-- True for an infinity or a NaN. -/
def nonFinite : Fp → Bool
  | fin .. => false
  | _ => true

/-- True for a zero of either sign. -/
def isZero : Fp → Bool
  | fin _ m _ => m == 0
  | _ => false

/-- `a < b` on numbers; false if either is a NaN. -/
def lt : Fp → Fp → Bool
  | nan, _ => false
  | _, nan => false
  | inf a, inf b => a && !b
  | inf a, fin .. => a
  | fin .., inf b => !b
  | fin s m e, fin t n f =>
    let q := min e f
    decide (signed s (m * 2 ^ (e - q).toNat) < signed t (n * 2 ^ (f - q).toNat))

/-- `a <= b` on numbers. -/
def le (a b : Fp) : Bool := !a.isNan && !b.isNan && !lt b a

/-- floor(log2 |x|) of a finite non-zero value. -/
def log2 : Fp → Int
  | fin _ m e => e + (Nat.log2 m : Nat)
  | _ => 0

/-- The larger magnitude; a NaN wins, then an infinity (03 R33). -/
def maxAbs (a b : Fp) : Fp :=
  if a.isNan || b.isNan then nan else if lt a.abs b.abs then b.abs else a.abs

end Fp

/-- `m / 2^sh` rounded to nearest even, where `sticky` says that the exact value is slightly above `m`. -/
def rneShift (m sh : Nat) (sticky : Bool) : Nat :=
  if sh = 0 then m
  else
    let q := m / 2 ^ sh
    let r := m % 2 ^ sh
    if r > 2 ^ (sh - 1) ∨ (r = 2 ^ (sh - 1) ∧ (sticky ∨ q % 2 = 1)) then q + 1 else q

/-- `m * 2^e` rounded to `p` significant bits with no unit below 2^qmin: the mantissa and the exponent. -/
def roundGrid (p : Nat) (qmin : Int) (m : Nat) (e : Int) (sticky : Bool) : Nat × Int :=
  if m = 0 then (0, qmin)
  else
    let q := max (e + (Nat.log2 m : Nat) - (p - 1 : Nat)) qmin
    if q ≤ e then (m * 2 ^ (e - q).toNat, q) else (rneShift m (q - e).toNat sticky, q)

/-- An IEEE-like format: exponent and mantissa widths and bias (03 Table 3-1). -/
structure Fmt where
  ebits : Nat
  mbits : Nat
  bias : Nat
deriving DecidableEq, Repr

/-- The format of a code of Table 3-1; other codes take FP32's. -/
def fmtOf (code : Nat) : Fmt :=
  match code with
  | 0 => ⟨2, 1, 1⟩
  | 1 => ⟨3, 2, 3⟩
  | 2 => ⟨2, 3, 1⟩
  | 3 => ⟨4, 3, 7⟩
  | 4 => ⟨5, 2, 15⟩
  | 5 => ⟨8, 7, 127⟩
  | _ => ⟨8, 23, 127⟩

/-- Width in bits of an element of a format code. -/
def fmtBits (code : Nat) : Nat := 1 + (fmtOf code).ebits + (fmtOf code).mbits

/-- A narrow format code: FP4, FP6 or FP8. -/
def isNarrow (code : Nat) : Bool := decide (code ≤ 4)

/-- emax of Table 3-1. -/
def fmtEmax (code : Nat) : Int :=
  match code with
  | 0 => 2
  | 1 => 4
  | 2 => 2
  | 3 => 8
  | 4 => 15
  | _ => 127

/-- The largest finite value of a format (Table 3-1): mantissa and exponent. -/
def fmtMax (code : Nat) : Nat × Int :=
  match code with
  | 0 => (3, 1)
  | 1 => (7, 2)
  | 2 => (15, -1)
  | 3 => (7, 6)
  | 4 => (7, 13)
  | 5 => (255, 120)
  | _ => (16777215, 104)

/-- The value of an element code (R26, Table 3-1). -/
def decodeElem (code : Nat) (v : Nat) : Fp :=
  let f := fmtOf code
  let s := v.testBit (f.ebits + f.mbits)
  let x := v / 2 ^ f.mbits % 2 ^ f.ebits
  let m := v % 2 ^ f.mbits
  if code = 3 ∧ x = 15 ∧ m = 7 then .nan
  else if code ≥ 4 ∧ x = 2 ^ f.ebits - 1 then (if m = 0 then .inf s else .nan)
  else if x = 0 then .fin s m (1 - (f.bias : Int) - f.mbits)
  else .fin s (m + 2 ^ f.mbits) ((x : Int) - f.bias - f.mbits)

/-- The element code of a finite value already on the format's grid, `m * 2^q` with `q` its unit. -/
def encodeGrid (code : Nat) (neg : Bool) (m : Nat) (q : Int) : Nat :=
  let f := fmtOf code
  let (m, q) := if m = 2 ^ (f.mbits + 1) then (2 ^ f.mbits, q + 1) else (m, q)
  let s := if neg then 2 ^ (f.ebits + f.mbits) else 0
  if m < 2 ^ f.mbits then s + m
  else s + (q + f.mbits + f.bias).toNat * 2 ^ f.mbits + (m - 2 ^ f.mbits)

/-- The smallest unit of a format. -/
def fmtQmin (code : Nat) : Int := 1 - ((fmtOf code).bias : Int) - (fmtOf code).mbits

/-- The quiet NaN 0x7FC0_0000 (R79, R82, R85). -/
def f32Nan : F32 := 0x7FC00000

/-- +infinity and -infinity in FP32. -/
def f32Inf (neg : Bool) : F32 := if neg then 0xFF800000 else 0x7F800000

/-- The exact value of an FP32 word. -/
def f32Val (b : F32) : Fp := decodeElem 6 b.toNat

/-- FP32 of `m * 2^e` rounded to nearest even; overflow is an infinity (R82). -/
def f32Round (neg : Bool) (m : Nat) (e : Int) (sticky : Bool) : F32 :=
  let (r, q) := roundGrid 24 (-149) m e sticky
  let c := encodeGrid 6 false r q
  if c ≥ 0x7F800000 then f32Inf neg
  else BitVec.ofNat 32 (c + (if neg then 0x80000000 else 0))

/-- rne_fp32 of an exact value; every NaN is 0x7FC0_0000 (R85). -/
def Fp.toF32 : Fp → F32
  | .nan => f32Nan
  | .inf s => f32Inf s
  | .fin s m e => f32Round s m e false

/-- rne_fp32(a + b) (R85). -/
def f32Add (a b : F32) : F32 := ((f32Val a).add (f32Val b)).toF32

/-- rne_fp32(a * b). -/
def f32Mul (a b : F32) : F32 := ((f32Val a).mul (f32Val b)).toF32

/-- BF16 of an FP32 value (R28): a NaN keeps the input's sign. -/
def bf16OfF32 (b : F32) : BitVec 16 :=
  match f32Val b with
  | .nan => if b.msb then 0xFFC0 else 0x7FC0
  | .inf s => if s then 0xFF80 else 0x7F80
  | .fin s m e =>
    let (r, q) := roundGrid 8 (-133) m e false
    let c := encodeGrid 5 false r q
    if c ≥ 0x7F80 then (if s then 0xFF80 else 0x7F80) else BitVec.ofNat 16 (c + (if s then 0x8000 else 0))

/-- The quotient of two finite values to at least 64 bits: mantissa, exponent and whether it is inexact. -/
def quotient (m : Nat) (e : Int) (n : Nat) (f : Int) : Nat × Int × Bool :=
  let k := 64 + Nat.log2 n
  (m * 2 ^ k / n, e - f - (k : Nat), decide (m * 2 ^ k % n ≠ 0))

/-- rne_fp32(a / b), IEEE 754. -/
def f32Div (a b : Fp) : F32 :=
  match a, b with
  | .nan, _ => f32Nan
  | _, .nan => f32Nan
  | .inf _, .inf _ => f32Nan
  | .inf s, .fin t _ _ => f32Inf (s != t)
  | .fin s _ _, .inf t => if s != t then 0x80000000 else 0
  | .fin s m e, .fin t n f =>
    if n = 0 then (if m = 0 then f32Nan else f32Inf (s != t))
    else
      let (q, x, st) := quotient m e n f
      f32Round (s != t) q x st

/-- An FP32 infinity made the largest finite value of its sign, and whether that happened (R35). -/
def f32Sat (b : F32) : F32 × Bool :=
  if b = 0x7F800000 then (0x7F7FFFFF, true) else if b = 0xFF800000 then (0xFF7FFFFF, true) else (b, false)

/-- rne_fp32_sat(x / t) of a finite source, and whether the quotient saturated (R35). -/
def quotientSat (x t : Fp) : F32 × Bool := f32Sat (f32Div x t)

/-- The integer square root, by `k` bits from bit `k - 1` down. -/
def isqrtFrom (n : Nat) : Nat → Nat → Nat
  | 0, r => r
  | k + 1, r => isqrtFrom n k (if (r + 2 ^ k) * (r + 2 ^ k) ≤ n then r + 2 ^ k else r)

/-- The integer square root. -/
def isqrt (n : Nat) : Nat := isqrtFrom n (Nat.log2 n / 2 + 1) 0

/-- rne_fp32(sqrt x), IEEE 754. -/
def f32Sqrt : Fp → F32
  | .nan => f32Nan
  | .inf s => if s then f32Nan else f32Inf false
  | .fin s m e =>
    if m = 0 then (if s then 0x80000000 else 0)
    else if s then f32Nan
    else
      let (m, e) := if e % 2 = 0 then (m * 2 ^ 128, e - 128) else (m * 2 ^ 129, e - 129)
      let r := isqrt m
      f32Round false r (e / 2) (decide (r * r ≠ m))

/-- rne_fp32(1 / sqrt x), IEEE 754. -/
def f32Rsqrt : Fp → F32
  | .nan => f32Nan
  | .inf s => if s then f32Nan else 0
  | .fin s m e =>
    if m = 0 then f32Inf s
    else if s then f32Nan
    else
      let (m, e) := if e % 2 = 0 then (m, e) else (2 * m, e - 1)
      let k := 2 * (Nat.log2 m + 64)
      let r := isqrt (2 ^ k / m)
      f32Round false r (-(e / 2) - (k / 2 : Nat)) (decide (r * r * m ≠ 2 ^ k))

/-- The fixed-point 2^f for the fraction `f / 2^n`, by the bits of `f` from the top; `c` is 2^(2^-i) with 160
fraction bits. -/
def exp2Bits (f : Nat) : Nat → Nat → Nat → Nat
  | 0, _, acc => acc
  | n + 1, c, acc =>
    exp2Bits f n (isqrt (c * 2 ^ 160)) (if f.testBit n then acc * c / 2 ^ 160 else acc)

/-- 2^x to about 90 bits for a finite x: mantissa and exponent, and whether it is inexact. -/
def exp2Core (neg : Bool) (m : Nat) (e : Int) : Nat × Int × Bool :=
  -- the argument as a multiple of 2^-100, rounded down
  let x := Fp.signed neg m
  let n : Int := if e ≥ -100 then x * 2 ^ (e + 100).toNat else x / 2 ^ (-100 - e).toNat
  let ip := n / 2 ^ 100
  let fr := (n % 2 ^ 100).toNat
  if fr = 0 ∧ (-100 ≤ e ∨ x = n * 2 ^ (-100 - e).toNat) then (1, ip, false)
  else (exp2Bits fr 100 (isqrt (2 ^ 321)) (2 ^ 160), ip - 160, true)

/-- EXP2, correctly rounded (R79). -/
def f32Exp2 : Fp → F32
  | .nan => f32Nan
  | .inf s => if s then 0 else f32Inf false
  | .fin s m e =>
    if m = 0 then 0x3F800000
    else if Fp.le (.ofNat 200) (.fin false m e) then (if s then 0 else f32Inf false)
    else
      let (r, x, st) := exp2Core s m e
      f32Round false r x st

/-- The first `n` binary fraction digits of log2 of the fixed-point `y` in [1, 2) with 256 fraction bits. -/
def log2Bits : Nat → Nat → Nat → Nat
  | 0, _, acc => acc
  | n + 1, y, acc =>
    let y2 := y * y / 2 ^ 256
    if y2 ≥ 2 ^ 257 then log2Bits n (y2 / 2) (2 * acc + 1) else log2Bits n y2 (2 * acc)

/-- log2 of a positive finite value, as a multiple of 2^-120 rounded down, and whether it is inexact. -/
def log2Core (m : Nat) (e : Int) : Int × Bool :=
  let l := Nat.log2 m
  let ip := e + (l : Nat)
  if m = 2 ^ l then (ip * 2 ^ 120, false)
  else (ip * 2 ^ 120 + (log2Bits 120 (m * 2 ^ 256 / 2 ^ l) 0 : Nat), true)

/-- LOG2, correctly rounded (R79). -/
def f32Log2 : Fp → F32
  | .nan => f32Nan
  | .inf s => if s then f32Nan else f32Inf false
  | .fin s m e =>
    if m = 0 then f32Inf true
    else if s then f32Nan
    else
      let (n, st) := log2Core m e
      if n < 0 then
        if st then f32Round true (n.natAbs - 1) (-120) true else f32Round true n.natAbs (-120) false
      else f32Round false n.natAbs (-120) st

/-! High-precision values against which the bounded functions of Table 4-7 are held. -/

/-- A finite value cut to 200 significant bits. -/
def Fp.trim : Fp → Fp
  | .fin s m e => if Nat.log2 m > 200 then .fin s (m / 2 ^ (Nat.log2 m - 200)) (e + (Nat.log2 m - 200 : Nat))
      else .fin s m e
  | x => x

/-- a / b to at least 64 bits, for finite non-zero b. -/
def Fp.divHp (a b : Fp) : Fp :=
  match a, b with
  | .fin s m e, .fin t n f =>
    if n = 0 then .nan
    else
      let k := 200 + Nat.log2 n
      .fin (s != t) (m * 2 ^ k / n) (e - f - (k : Nat))
  | _, _ => .nan

/-- sqrt of a finite non-negative value to at least 64 bits. -/
def Fp.sqrtHp : Fp → Fp
  | .fin false m e =>
    let (m, e) := if e % 2 = 0 then (m * 2 ^ 256, e - 256) else (m * 2 ^ 257, e - 257)
    .fin false (isqrt m) (e / 2)
  | _ => .nan

/-- A sum over `n` elements, divided by `n`. -/
def Fp.mean (a : Fp) (n : Nat) : Fp :=
  match a with
  | .fin .. => (Fp.divHp a (.ofNat n)).trim
  | y => y

/-- 1 / sqrt x to at least 64 bits, with IEEE 754's results at the ends. -/
def Fp.rsqrtHp : Fp → Fp
  | .nan => .nan
  | .inf s => if s then .nan else .zero
  | .fin s m e => if m = 0 then .inf s else if s then .nan else (Fp.divHp .one (Fp.fin false m e).trim.sqrtHp).trim

/-- ln 2 with 200 fraction bits. -/
def ln2Hp : Fp := .fin false 1113844574712631719546256151097547306333272293549090750737802 (-200)

/-- log2 e with 200 fraction bits. -/
def log2eHp : Fp := .fin false 2318321547468254865173387471183990171487108758923299108729110 (-200)

/-- exp x for a finite x, cut to |x| < 200. -/
def Fp.expHp (x : Fp) : Fp :=
  match (x.mul log2eHp).trim with
  | .fin s m e =>
    if Fp.le (.ofNat 400) (.fin false m e) then (if s then .zero else .inf false)
    else
      let (r, q, _) := exp2Core s m e
      .fin false r q
  | _ => .nan

/-- ln x for a positive finite x. -/
def Fp.lnHp : Fp → Fp
  | .fin false m e =>
    let n := (log2Core m e).1
    (Fp.mul (.fin (decide (n < 0)) n.natAbs (-120)) ln2Hp).trim
  | _ => .nan

/-- 1 / (1 + exp(-x)). -/
def Fp.sigmoidHp (x : Fp) : Fp :=
  match x.neg.expHp with
  | .inf _ => .zero
  | y => Fp.divHp .one (Fp.one.add y).trim

/-- tanh x; below 2^-30 it is x. -/
def Fp.tanhHp (x : Fp) : Fp :=
  if Fp.lt x.abs (.fin false 1 (-30)) then x
  else
    match (x.abs.scale 1).neg.expHp with
    | y =>
      let t := Fp.divHp (Fp.one.sub y) (Fp.one.add y).trim
      match x with
      | .fin true _ _ => t.neg
      | _ => t

/-- The series of the normal distribution at x: the sum of t_n / (2n + 1), t_n = x (-x^2/2)^n / n!, in units of
2^-420. -/
def phiSeries (h : Int) : Nat → Nat → Int → Int → Int
  | 0, _, _, acc => acc
  | k + 1, n, t, acc => phiSeries h k (n + 1) (t * h / 2 ^ 420 / (n + 1)) (acc + t / (2 * n + 1))

/-- x times the normal distribution function of x (GELU, erf form), for a finite x. -/
def Fp.geluHp (x : Fp) : Fp :=
  match x with
  | .fin s m e =>
    if Fp.lt (.ofNat 15) x.abs then (if s then .zero else x)
    else
      let i : Int := Fp.signed s (if e ≥ -420 then m * 2 ^ (e + 420).toNat else m / 2 ^ (-420 - e).toNat)
      let h := -(i * i / 2 ^ 421)
      let c : Int :=
        1080210127512207710831974822652979729319793270878301120492116162320557224481878264293419771025705856815722596170916469288368023
      let p := 2 ^ 419 + phiSeries h 500 0 i 0 * c / 2 ^ 420
      Fp.mul x (.fin (decide (p < 0)) p.natAbs (-420))
  | y => y

/-- The free result if it lies within `k` ULP of the value, else the rounded value (Table 4-7). -/
def withinUlp (k : Nat) (x : Fp) (free : F32) : F32 :=
  match x with
  | .fin _ m _ =>
    let u : Fp := .fin false 1 (if m = 0 then -149 else max (x.log2 - 23) (-149))
    if Fp.le ((f32Val free).sub x).abs (u.mul (.ofNat k)) then free else x.toF32
  | y => y.toF32

/-- The free result if it lies within `d` of the value, else the rounded value. -/
def withinAbs (d x : Fp) (free : F32) : F32 :=
  if Fp.le ((f32Val free).sub x).abs d then free else x.toF32

end Sys2Proof.Machine
end

