-- ==== Sys2Proof/Machine/State.lean ====
section
/-! DEFINITION. The state of the module as plain data, its value after a module reset, and the reasons a step can
stop. A field left at its declared default holds what 14 R291 leaves: every memory and register cleared. -/

namespace Sys2Proof.Machine

/-- A sparse map with natural keys. -/
abbrev SMap (α : Type) := List (Nat × α)

/-- No meaning raises a fault: every failure the spec describes is a status, a log entry or a state change, so the type
has the one constructor that the interface asks for and nothing raises it (safe). -/
inductive Fault where
  /-- Raised by no meaning. -/
  | none
deriving DecidableEq, Repr

/-- Why a step has no meaning. -/
inductive Refusal where
  /-- The command's row has no meaning in this model yet; raised by an arm of `exec` (safe). -/
  | notModelled (mnemonic : String)
deriving DecidableEq, Repr

/-- What a MGMT packet of the module's own carries: the spec gives their contents and no byte layout (10 R199, 13 R278). -/
inductive Mgmt where
  /-- A synchronisation message was discarded. -/
  | discard (m : SyncMsg)
  /-- A norm partial or result of a job. -/
  | norm (job : Nat) (p : NormPartial)
deriving DecidableEq, Repr

/-- What the module has sent to the outside, in the model's own record (log 8). -/
inductive Output where
  /-- MSI-X vector of a function (12 R246). -/
  | irq (f : Nat) (vector : Nat)
  /-- A firmware message to the fleet manager (14 Table 14-10). -/
  | towpath (type : Nat) (payload : List Byte)
  /-- The acknowledgement of a message: return code and reply payload (14 R301). -/
  | ack (src : MsgSrc) (code : BitVec 16) (reply : List Byte)
  /-- A MGMT report that no port takes: for this module itself, or for one without a route. -/
  | mgmt (dest : Nat) (m : Mgmt)
  /-- A frame sent by a link port: the codewords of its lanes (11 R213, R223). -/
  | frame (p : Nat) (lanes : List (List Nat))
  /-- Completion of a host request: 0 Successful, 1 Unsupported Request, 2 Completer Abort, 3 Request Retry Status. -/
  | completion (f : Nat) (code : Nat)
  /-- A module-driven pin takes a level (19 R383-R385). -/
  | pin (name : String) (high : Bool)
  /-- An SPDM, DOE, PLDM or MCTP response (14 R309, 17 R358). -/
  | response (kind : String) (code : Nat) (payload : List Byte)
deriving DecidableEq, Repr

/-- Time, the frame counter and the free values drawn. -/
structure Clock where
  /-- Picoseconds since the last module reset (log 2). -/
  now : Nat := 0
  /-- The frame number (11 R213). -/
  frame : Nat := 0
  /-- Reference cycles by which the model's ticks lie behind the frame's beginning: which HALL_REF edge of every four begins a
  frame (11 R215, R216). -/
  edge : Nat := 0
  /-- The module has frame lock (11 R217). -/
  lock : Bool := false
  /-- Free values drawn so far; the model's own (log 9). -/
  free : Nat := 0
  /-- Picoseconds since reset in which the issue level was below sixteen sixteenths (04 R78). -/
  limited : Nat := 0
deriving DecidableEq, Repr

/-- Device and host memory, and the stored units that cannot be read. -/
structure Mems where
  dev : Memory := []
  host : Memory := []
  /-- 32-byte stack units, 8-byte comb words and hive-store words that are uncorrectable until written in full, by
  address (06 R112, R115, 07 R137). -/
  bad : SMap Bool := []
  /-- Stack pages of 4 KiB retired, by page number (07 R139). -/
  retired : SMap Bool := []
deriving DecidableEq, Repr

/-! ### Hives (04, 05) -/

/-- A TILE with its index-select fields resolved; offsets are bytes in the hive's own store (04 Table 4-4). -/
structure TileOp where
  eng : Nat
  m : Nat
  n : Nat
  opens : Bool
  masked : Bool
  group : Nat
  byBlock : Bool
  k : Nat
  fmtA : Nat
  fmtB : Nat
  aOff : Nat
  bOff : Nat
  maskOff : Nat
  rowBlk : Nat
deriving DecidableEq, Repr

/-- A DRAIN with its fields resolved. -/
structure DrainOp where
  eng : Nat
  accum : Bool
  discard : Bool
  group : Nat
  byBlock : Bool
  fmt : Nat
  dstOff : Nat
  maskOff : Nat
  row0 : Nat
  col0 : Nat
  pitch : Nat
deriving DecidableEq, Repr

/-- A WOP with its fields resolved, and X7 as it stood at fetch (05 R102). -/
structure WopOp where
  func : Nat
  srcFmt : Nat
  dstFmt : Nat
  part : Bool
  srcOff : Nat
  dstOff : Nat
  auxOff : Nat
  rows : Nat
  len : Nat
  x7 : Nat
deriving DecidableEq, Repr

/-- A transfer of 04 Table 4-6, from a hive program or a ring; `src` and `dst` are device addresses. -/
structure DmaOp where
  mode : Nat
  masked : Bool
  byBlock : Bool
  src : Nat
  dst : Nat
  count : Nat
  cols : Nat
  maskOff : Nat
  srcFmt : Nat
  dstFmt : Nat
  pitch : Nat
deriving DecidableEq, Repr

/-- A queue entry's instruction. -/
inductive Op where
  | tile (t : TileOp)
  | drain (d : DrainOp)
  | wop (w : WopOp)
  | dma (d : DmaOp)
  | signal (atRead : Bool) (id inc : Nat)
  | wait (id target : Nat)
  | barrier (id : Nat)
deriving DecidableEq, Repr

/-- A queue entry: the instruction's slot index, and for one that holds its queue the round it entered, the time the
hold began and whether the long wait was logged (10 R205, R210). -/
structure QItem where
  pos : Nat
  op : Op
  held : Bool := false
  round : Nat := 0
  since : Nat := 0
  logged : Bool := false
deriving DecidableEq, Repr

/-- The fetch-time account of an accumulation group (05 R86, R89): its shape, the heights of its entries, newest
first, and what every TILE into it must repeat (04 R392). -/
structure GroupAcct where
  fed : Bool := false
  m : Nat := 0
  n : Nat := 0
  heights : List Nat := []
  row : Option (Nat × Bool × Bool × Nat) := none
deriving DecidableEq, Repr

/-- An accumulation group (05 R86-R88): its entries (height and FP32 tile, newest first) in run mode, one exact value
per element in exact and forerunner mode, the drain's scale factor, the ROTATED states and the row block. -/
structure Group where
  m : Nat := 0
  n : Nat := 0
  live : Bool := false
  entries : List (Nat × List F32) := []
  exact : List Fp := []
  f : F32 := 0x3F800000
  rotA : Bool := false
  rotB : Bool := false
  layer : Nat := 0xFFFF
  masked : Bool := false
  byBlock : Bool := false
  maskOff : Nat := 0
  rowBlk : Nat := 0
  /-- Exact mode: where in the engine's exact group area the entry stands, pieces of (offset, bytes). -/
  slot : List (Nat × Nat) := []
deriving DecidableEq, Repr

/-- One logical hive's control core and engines (04 R62-R67). -/
structure HiveState where
  /-- The context and submission index of the run on the hive, if one is. -/
  run : Option (Nat × Nat) := none
  fetching : Bool := false
  ended : Bool := false
  base : Nat := 0
  len : Nat := 0
  pos : Nat := 0
  /-- ACC_MODE of the run: 0 run, 1 exact, 2 forerunner. -/
  mode : Nat := 0
  /-- X1 to X7. -/
  xs : List (BitVec 32) := [0, 0, 0, 0, 0, 0, 0]
  /-- E0, E1, E2, W, D, control; oldest first. -/
  queues : List (List QItem) := [[], [], [], [], [], []]
  /-- Key 128 e + g. -/
  accts : SMap GroupAcct := []
  groups : SMap Group := []
  /-- Rows of the product of each row mask, by MASK_OFF, from its masked TRANSPOSE (04 R76). -/
  maskRows : SMap Nat := []
  /-- The slot of the last instruction whose host accesses were issued (06 R117). -/
  hostAt : Option Nat := none
deriving DecidableEq, Repr

/-- A SELF_TEST in progress (13 R285): its context and command, and the result codes, die d at d and module item i at
64 + i. -/
structure SelfTest where
  x : Nat
  idx : Nat
  items : Nat
  dies : List Nat
  codes : SMap Nat := []
  /-- Items run so far. -/
  ran : Nat := 0
deriving DecidableEq, Repr

/-- Hives and their placement (01 R13-R16, 09 R186-R189). -/
structure Hives where
  hives : SMap HiveState := []
  /-- The slot 0-4 on its die of each logical hive that is not in slot l mod 4 + 1 (log 5). -/
  slotOf : SMap (Option Nat) := []
  /-- Physical slots retired (09 R189). -/
  failed : SMap Bool := []
  /-- Logical hives whose move between slots is in progress, with the destination slot (06 R109). -/
  moving : SMap (Option Nat) := []
  /-- Time of the last rotation of each die. -/
  lastRotation : SMap Nat := []
  /-- Dies that run four logical hives on three slots (01 R16). -/
  three : SMap Bool := []
  /-- Calibration values of each slot, from its last passed calibration (09 R190). -/
  calib : SMap Nat := []
  /-- Dies whose spare a self-test holds (09 R190), and the self-test. -/
  spareHeld : SMap Bool := []
  test : Option SelfTest := none
  /-- Issue in the compute units is stopped by a thermal HALT (16 R345). -/
  halt : Bool := false
deriving DecidableEq, Repr

/-! ### Synchronisation (10) -/

/-- A counter (10 R192, R194, R198). -/
structure Counter where
  value : Nat := 0
  committed : Nat := 0
  gen : BitVec 8 := 0
  rebound : Option Nat := none
deriving DecidableEq, Repr

/-- A barrier slot (10 R205): arrival counts by participant, L, W, the parent's released count, the same at the last
commit, the generation and the time of the last rebind. -/
structure Barrier where
  arr : SMap Nat := []
  l : Nat := 0
  w : Nat := 0
  pw : Nat := 0
  cArr : SMap Nat := []
  cl : Nat := 0
  cw : Nat := 0
  cpw : Nat := 0
  gen : BitVec 8 := 0
  rebound : Option Nat := none
deriving DecidableEq, Repr

/-- A remote wait registered at its counter's home (10 R202). -/
structure Watch where
  /-- The object is a barrier slot. -/
  barrier : Bool := false
  object : Nat
  target : Nat
  origin : Nat
  ctx : Nat
  tag : Nat
  gen : BitVec 8
deriving DecidableEq, Repr

/-- A synchronisation message on its way out, with the module it is for. -/
structure OutMsg where
  msg : SyncMsg
  dest : Nat
  /-- The barge that carries it: port, index, and the READY count it follows (11 R223). -/
  via : Option (Nat × Nat × Nat) := none
  /-- The sector it is sent from (01 R7). -/
  sector : Nat := 0
deriving DecidableEq, Repr

/-- What sent a signal: a queue of a logical hive, by the slot of its instruction; a ring's command, by its index; a barge. -/
inductive Sender where
  | queue (h q pos : Nat)
  | ring (idx : Nat)
  | barge (port : Nat)
deriving DecidableEq, Repr

/-- What is held for an object of a logical hive that moves between slots (10 R200), or that the canal joins no more to the
sector it comes from (01 R7): a message with that sector, a signal of a context of this module, the arrival of a completed child
slot at its parent, or the released count that a parent slot passes to its child. -/
inductive HeldMsg where
  | message (m : SyncMsg) (sector : Option Nat)
  | signal (x p inc : Nat) (sender : Sender)
  | arrival (parent child : Nat) (gen : BitVec 8)
  | release (child parent : Nat) (gen : BitVec 8) (w : Nat)
deriving DecidableEq, Repr

/-- A rebind that waits out the 1 ms spacing: its entry, and the object the entry named (10 R198). -/
structure Rebind where
  x : Nat
  id : Nat
  barrier : Bool
  object : Nat
deriving DecidableEq, Repr

/-- Counters, barrier slots, watches and messages. -/
structure Sync where
  counters : SMap Counter := []
  barriers : SMap Barrier := []
  watches : List Watch := []
  outbox : List OutMsg := []
  /-- Held for moving hives, oldest first. -/
  held : List HeldMsg := []
  /-- Contexts of messages that have left for other modules within the last millisecond, with the time each is sure to have been
  delivered or discarded (10 R195, R199). -/
  flying : List (Nat × Nat) := []
  rebinds : List Rebind := []
  /-- Tag and identifier of each remote wait whose release has arrived. -/
  released : List (Nat × Nat) := []
  /-- The millisecond of the last logged drop, plus one (10 R197). -/
  dropMs : Nat := 0
deriving DecidableEq, Repr

/-- A layer's monitors and rotation (03 R41-R54, 04 R78). -/
structure LayerSt where
  /-- Steps committed, against which the start-up count runs. -/
  age : Nat := 0
  recovery : Nat := 0
  still : Nat := 0
  avgOut : Option F32 := none
  avgGrad : Option F32 := none
  samplesOut : Nat := 0
  samplesGrad : Nat := 0
  /-- Flagged block writes of past steps in the window, newest first, and of the current step. -/
  window : List Nat := []
  flagged : Nat := 0
  /-- Mask rows seen and frozen in the step. -/
  seen : Nat := 0
  frozen : Nat := 0
  /-- The fall-back path is selected. -/
  path : Bool := false
  /-- Start-up rotated steps left, as the step under way runs with them; none until a step boundary or write sets it. -/
  startLeft : Option Nat := none
  /-- Exact sum of squares of the output activations written in the step (R49). -/
  outSq : Fp := .zero
  /-- The narrow gradient tensors known to have named the layer, and the blocks of them written in the step, by header address
  + 2^48 times the block: 1 with scale 0x00 alone, 2 with another (R53). -/
  grads : SMap Bool := []
  gradBlocks : SMap Nat := []
deriving DecidableEq, Repr

/-! ### Contexts and rings (12, 13) -/

/-- Where a fetched command stands. -/
inductive Phase where
  | waiting
  | started
  | done
deriving DecidableEq, Repr

/-- A fetched command (12 R250-R260). -/
structure Cmd where
  idx : Nat
  desc : BitVec 512
  phase : Phase := .waiting
  /-- The status its descriptor check gave (13 R268); 0 passes. -/
  check : Nat := 0
  suspended : Bool := false
  /-- To be cancelled with its step (12 R260). -/
  cancel : Bool := false
  /-- Progress of a long operation: units written, items done, round entered. -/
  progress : Nat := 0
  /-- 64-byte units that a SNAPSHOT has written. -/
  units : Nat := 0
  since : Nat := 0
  logged : Bool := false
  /-- A SUSPEND, RESUME or CANCEL that has acted and waits for its effect. -/
  acted : Bool := false
  /-- Its step has committed, failed or been cancelled; its slot may be released. -/
  past : Bool := false
  final : Bool := false
  /-- It completed with a status that fails its step, before that step was the oldest (13 R269). -/
  failed : Bool := false
  /-- Its step is replayed, and its descriptor is to be fetched again (12 R256). -/
  stale : Bool := false
deriving DecidableEq, Repr

/-- A completion entry not yet written (12 R251, 13 Table 13-3). -/
structure Entry where
  idx : Nat
  status : Nat
  replay : Nat
  opcode : Nat
  tag : BitVec 32
  result : BitVec 32
  intr : Bool
deriving DecidableEq, Repr

/-- A running hive program (04 R62-R65). -/
structure Run where
  idx : Nat
  mode : Nat
  hives : List Nat
  fail : Option (Nat × Nat) := none
  suspended : Bool := false
deriving DecidableEq, Repr

/-- A narrow tensor header written in the step, with the first 32 bytes of its committed form (03 R40). -/
structure Touched where
  addr : Nat
  tscale : F32
  amax : F32
  rotated : Bool
deriving DecidableEq, Repr

/-- A host-ring power hint (13 R284). -/
structure Hint where
  kind : Nat
  level : Nat
  start : Nat
  duration : Nat
  active : Bool := false
deriving DecidableEq, Repr

/-- Why a step is abandoned: for a replay, after a failure, by a cancel, or because its rank moved (13 R272). -/
inductive Abandon where
  | replay
  | fail
  | cancel
  | moved
deriving DecidableEq, Repr

/-- Where an update sweep stands (08 R152-R156): accepted; its norms being combined; known; pass 2; all blocks stamped;
re-derived. -/
inductive SweepPhase where
  | start
  | norm
  | decide
  | pass2
  | rederive
  | commit
deriving DecidableEq, Repr

/-- A parameter group entry (08 Table 8-3). -/
structure Grp where
  grad : Nat
  master : Nat
  residue : Nat
  m : Nat
  v : Nat
  stamp : Nat
  gstate : Nat
  params : Nat
  firstPblock : Nat
  lr : F32
  beta1 : F32
  beta2 : F32
  eps : F32
  decay : F32
  layer : Nat
  fp32 : Bool
  reserved : Nat
deriving DecidableEq, Repr

/-- What an engine holds of a group for the whole of pass 2 (08 R148, R159): the group, the constants formed at its start, and
T of its state record. -/
structure HeldGrp where
  g : Grp
  t : Nat
  c1 : F32
  c2 : F32
  p1 : F32
  p2 : F32
  b1 : F32
  b2 : F32
  ld : F32
deriving DecidableEq, Repr

/-- A lock-chamber entry: the block, the step, its old bytes by address, and whether its record was emitted (08 R157,
R158). -/
structure Chamber where
  eng : Nat
  grp : Nat
  blk : Nat
  step : Nat
  emitted : Bool := false
  old : List (Nat × List Byte)
deriving DecidableEq, Repr

/-- Exact sums of squares by layer, in ascending layer number. -/
abbrev LayerSums := SMap Fp

/-- A sweep in progress (08 R152-R163). -/
structure Sweep where
  idx : Nat
  table : Nat
  phase : SweepPhase := .start
  /-- The module's own sums, then the job's. -/
  sum : Fp := .zero
  layers : LayerSums := []
  outputs : LayerSums := []
  trips : SMap (BitVec 2) := []
  /-- Layers whose narrow gradient blocks were all at scale 0x00. -/
  still : List Nat := []
  /-- Layers with a block that is not frozen. -/
  active : List Nat := []
  /-- When the module's own partial was ready, and whether it was sent up. -/
  readyAt : Option Nat := none
  sent : Bool := false
  /-- Targets whose audit failed (R163). -/
  mismatched : List Nat := []
  applied : Bool := false
  /-- The gradient factor q, the scaled norm Ns, and the running average and samples that the commit writes. -/
  q : F32 := 0x3F800000
  norm : F32 := 0
  avg : F32 := 0
  samples : Nat := 0
  /-- Layers to enter recovery rotation (R48). -/
  rotate : List Nat := []
  /-- RESULT bits of 13 Table 13-9 and the status so far. -/
  bits : Nat := 0
  status : Nat := 0
  /-- Blocks taken and stamped by engine. -/
  taken : SMap Nat := []
  stamped : SMap Nat := []
  chamber : List Chamber := []
  /-- The groups as the engines hold them, by index, from the start of pass 2 (R148). -/
  held : List HeldGrp := []
  /-- Bytes that pass 2 replaced, newest first. -/
  old : List (Nat × List Byte) := []
  /-- Addresses of group state records written. -/
  groups : List Nat := []
  /-- Engines interrupted by an uncorrectable access (R159), and the units they met. -/
  stopped : List Nat := []
  met : List Nat := []
  /-- An access was restored from the mirror partner, so the sweep ends with STEP_REPLAYED (R160). -/
  resumed : Bool := false
deriving DecidableEq, Repr

/-- A journalled row of a forager table (07 R128). -/
structure JRow where
  addr : Nat
  fmt : Nat
  old : List Byte
  /-- Address of the row's scale byte, for a narrow table, and its old value. -/
  scaleAddr : Option Nat
  oldScale : Byte
  /-- Where the journal holds the entry. -/
  kept : Nat := 0
deriving DecidableEq, Repr

/-- A host context (12, 13). -/
structure CtxSt where
  /-- Table 12-7. -/
  state : BitVec 4 := 0
  cause : BitVec 4 := 0
  sqBase : Nat := 0
  cqBase : Nat := 0
  sqLog : Nat := 0
  cqLog : Nat := 0
  tail : BitVec 32 := 0
  fetch : BitVec 32 := 0
  released : BitVec 32 := 0
  cqTail : BitVec 32 := 0
  cqHead : BitVec 32 := 0
  /-- An outstanding descriptor read: first index, count and the time of issue. -/
  read : Option (BitVec 32 × Nat × Nat) := none
  /-- Fetched and unreleased commands, oldest first. -/
  cmds : List Cmd := []
  /-- Entries not yet written, oldest first. -/
  entries : List Entry := []
  /-- Entries written since the last interrupt, and the time of the first. -/
  irqCount : Nat := 0
  irqSince : Option Nat := none
  lastBeat : Nat := 0
  runs : List Run := []
  /-- The step in progress failed or is to be replayed, but is not yet abandoned: cause and status. -/
  fault : Option (Abandon × Nat) := none
  /-- The step is being abandoned: cause and when the 1 ms wait ends (10 R209). -/
  abandon : Option (Abandon × Nat) := none
  /-- The step under way is abandoned and restored; its commands up to its sweep complete with this status. -/
  drain : Option Nat := none
  /-- The replay may start: FETCH goes back to the step's first command (12 R256). -/
  replayReady : Bool := false
  attempt : Nat := 0
  /-- The committed step number (08 R147). -/
  step : Nat := 0
  /-- A hive of the context was replaced, or its die ran on three, in the step (13 R279). -/
  remapped : Bool := false
  /-- CRC of the step's descriptors as first fetched, once it is replayed (12 R257). -/
  crcFirst : BitVec 32 := 0
  hint : Option Hint := none
  tensors : List Nat := []
  tensorsNext : Option (List Nat) := none
  touched : List Touched := []
  /-- Live overflow-map bytes changed in the step, with their committed values, and the blocks that each map is known to
  cover, by map address: the most that any command, instruction or table has named (03 R38, R40; log 39). -/
  mapOld : List (Nat × Byte) := []
  tops : SMap Nat := []
  /-- Forager journal rows, newest first. -/
  journal : List JRow := []
  /-- What the last committed step replaced, newest first, and the layers' state before it (09 R179). -/
  undo : List (Nat × List Byte) := []
  undoLayers : SMap LayerSt := []
  /-- The sweep table and rank map of the last sweep accepted, and when the step began. -/
  table : Option Nat := none
  rankMap : Nat := 0
  stepStart : Nat := 0
  limitedAt : Nat := 0
  /-- Norm partials and results received for the context (13 R278). -/
  parts : List NormPartial := []
  /-- SEQ of the last COMMIT record that the partner has not acknowledged (09 R173). -/
  unacked : Option (BitVec 32) := none
  sweep : Option Sweep := none
  /-- The ranges that sweeps protect, by submission index, until their completion entries are written (08 R146). -/
  guards : List (Nat × List (Nat × Nat)) := []
  /-- A JOB_ACTION accepted: action and Lr. -/
  jobAct : Option (Nat × Nat) := none
  heldReported : Bool := false
  /-- Lines and units that the step met uncorrectable, with the attempt that met each (06 R115, 07 R137). -/
  badLines : List (Nat × Nat) := []
  /-- A ring DMA outside every run that met an uncorrectable stack access, which completes once that is repaired, and its unit
  (07 R137). -/
  badDma : Option (Nat × Nat) := none
  /-- The identifiers that were DIRTY at the last commit (10 R209). -/
  dirtyAt : List Nat := []
  /-- A completion write failed: entries are held until reattachment (12 R251). -/
  cqHeld : Bool := false
  /-- A takeover of the rank found no sweep table: the working copies are derived when one is known (09 R183). -/
  owesTargets : Bool := false
deriving DecidableEq, Repr

/-! ### The log (14 R310-R315) -/

/-- A log entry (14 Table 14-13). -/
structure LogRec where
  seq : BitVec 32
  time : Nat
  locked : Bool
  args : LogArgs
deriving DecidableEq, Repr

/-- The log (14 R310-R314). -/
structure LogSt where
  seq : BitVec 32 := 0
  /-- Newest first. -/
  mem : List LogRec := []
  /-- When the last 100 warnings were sent, the newest first (R310). -/
  warned : List Nat := []
  /-- Entries for the host ring that wait for the PF's host (R312). -/
  held : List LogRec := []
  /-- First sequence number lost and how many, until the gap entry is written (R313). -/
  gap : Option (BitVec 32 × Nat) := none
  /-- The crash log of the running slot's device, and how much of it TELEMETRY has given out, in bytes (R314). -/
  crash : List LogRec := []
  crashPos : Nat := 0
  /-- The last module reset followed THERMTRIP_N or a security fault (R314). -/
  crashSource : Bool := false
deriving DecidableEq, Repr

/-! ### Stacks and comb dies (06, 07) -/

/-- A stack and its controller (07). -/
structure StackSt where
  trained : Bool := false
  /-- Failed as a unit (R119). -/
  dead : Bool := false
  /-- Partitions in force, (BASE, SIZE) in 256 MiB, and sluices in force, (MIN, MAX) in sixty-fourths; at reset
  partition 0 covers the stack (R121). -/
  parts : List (Nat × Nat) := (0, 0x60) :: List.replicate 7 (0, 0)
  shares : List (Nat × Nat) := List.replicate 8 (0, 64)
  /-- Bus time charged to each partition in the sluice window, in times of a 32-byte access, what refresh and scrub took of it, and
  the window's number (R122). -/
  charged : SMap Nat := []
  taken : Nat := 0
  window : Nat := 0
  /-- Partitions whose requests wait, those that asked in the window and were not served since, and the one served last (R122). -/
  waits : List Nat := []
  asked : List Nat := []
  served : Nat := 7
  /-- The open row of each bank, and pseudo-channels whose bus last wrote (R122). -/
  openRows : SMap (Option Nat) := []
  writing : SMap Bool := []
  /-- A commit that waits for the next frame boundary (R123). -/
  commit : Bool := false
  /-- A throttle step that waits for the next frame boundary (R130). -/
  nextStep : Option Nat := none
  /-- Refreshes performed, those on the stack's refresh management request, and patrol accesses done (R119, R132, R138). -/
  refreshes : Nat := 0
  managed : Nat := 0
  patrolled : Nat := 0
  /-- Failed lanes without a spare, 72 c + lane, and spares used per channel (R133, R134). -/
  failedLanes : SMap Bool := []
  sparesUsed : SMap Nat := []
  /-- Times of the last 256 corrected symbol errors of each lane, newest first, key 72 c + lane (R133). -/
  laneErrs : SMap (List Nat) := []
  /-- Channels due to retrain at the next step boundary. -/
  retrain : SMap Bool := []
  /-- Units whose row is to be repaired at the step boundary, with the step that found each (R137). -/
  repairs : List (Nat × Nat) := []
  /-- Rows under soft repair, to be made hard at the next module reset, and repairs used per bank (R139). -/
  softRows : List Nat := []
  repairsUsed : SMap Nat := []
  /-- Two failed lanes in a pseudo-channel: takeover is asked for when the step ends (R134). -/
  wantTakeover : Bool := false
deriving DecidableEq, Repr

/-- A comb die (06 R115): spare lines used per bank and lines waiting to be spared at the step boundary. -/
structure CombSt where
  used : SMap Nat := []
  due : List Nat := []
  /-- Lines mapped to a spare. -/
  spared : List Nat := []
deriving DecidableEq, Repr

/-! ### Export (09) -/

/-- A record in an export spool (09 R166, R170): its place in the spool, and whether its step was abandoned. -/
structure Rec where
  seq : BitVec 32
  kind : Nat
  ctx : Nat
  step : Nat
  stack : Nat
  bytes : List Byte
  pos : Nat := 0
  dead : Bool := false
deriving DecidableEq, Repr

/-- A journalled old row copied into a stack's spool at commit (09 R170). -/
structure OldRow where
  ctx : Nat
  step : Nat
  stack : Nat
  bytes : List Byte
deriving DecidableEq, Repr

/-- The host copy of the stream (09 R174, 13 R280): the context and ring, the tail written, the next SEQ, and whether
records were dropped and the copy waits for a COMMIT. -/
structure HostCopy where
  x : Nat
  base : Nat
  tailAddr : Nat
  size : Nat
  /-- Units written and consumed, free-running. -/
  tail : Nat := 0
  head : Nat := 0
  next : BitVec 32
  gap : Bool := false
deriving DecidableEq, Repr

/-- The outgoing stream and its partner (09 R166-R180). -/
structure ExportSt where
  seq : BitVec 32 := 0
  /-- Records held, oldest first, and the old rows held beside them. -/
  recs : List Rec := []
  rows : List OldRow := []
  /-- Where each stack's spool is written next, in bytes from its base. -/
  heads : SMap Nat := []
  /-- SEQ of the next record to send. -/
  next : BitVec 32 := 0
  lost : Bool := false
  resync : Bool := false
  /-- Records of the resynchronisation emitted so far, and the SEQ of its last COMMIT once that is emitted. -/
  resyncPos : Nat := 0
  resyncEnd : Option (BitVec 32) := none
  ackStep : Nat := 0
  /-- Time of the last record from the partner. -/
  heard : Nat := 0
  /-- One more than the lock cycle in which a record last went to each module. -/
  sentTo : SMap Nat := []
  host : Option HostCopy := none
  /-- ACK, RESEND and KEEPALIVE records for other modules, oldest first, with their destinations. -/
  replies : List (Nat × List Byte) := []
deriving DecidableEq, Repr

/-- A narrow tensor that a source's records name: header address, committed-map address and map bytes. -/
structure MirTensor where
  hdr : Nat
  map : Nat
  bytes : Nat
deriving DecidableEq, Repr

/-- What a mirror keeps for one context of a source (09 R175-R179). -/
structure MirCtx where
  /-- The closing COMMIT of a resynchronisation has come, and the last step applied. -/
  inStep : Bool := false
  applied : Nat := 0
  /-- While resynchronising: places of the full records that have come. -/
  fulls : List Nat := []
  /-- What the last applied step replaced, newest first, and the numerics image after and before it. -/
  undo : List (Nat × List Byte) := []
  image : List Byte := []
  undoImage : List Byte := []
deriving DecidableEq, Repr

/-- A mirrored source (09 R175-R181). -/
structure MirrorSt where
  /-- UPD.MIRROR_STAT.STATE: 0 idle, 1 in step, 2 resynchronising, 3 lost. -/
  state : Nat := 0
  /-- The last step applied, of any context. -/
  applied : Nat := 0
  ctxs : SMap MirCtx := []
  /-- Records of steps not yet applied, in SEQ order, and where the inbound spool is written next. -/
  spool : List (List Byte) := []
  pos : Nat := 0
  /-- SEQ of the next record expected, once one has arrived. -/
  next : Option (BitVec 32) := none
  /-- First SEQ discarded for want of room. -/
  dropped : Option (BitVec 32) := none
  heard : Nat := 0
  tensors : List MirTensor := []
  /-- Ranges held for the source, as addresses on this module. -/
  held : List (Nat × Nat) := []
deriving DecidableEq, Repr

/-- A rank move accepted (09 R182): the context, the lost rank, the standby, D and Lt. -/
structure RankMove where
  x : Nat
  rank : Nat
  standby : Nat
  d : Nat
  lt : Nat
deriving DecidableEq, Repr

/-- Export, mirrors and failover. -/
structure Failover where
  exp : ExportSt := {}
  mirrors : SMap MirrorSt := []
  moves : List RankMove := []
  /-- The module's rank has moved: it idles until reset (R184). -/
  moved : Bool := false
  /-- The module whose frames and records are discarded (R182). -/
  silenced : List Nat := []
deriving DecidableEq, Repr

/-! ### Links and canal (11) -/

/-- A barge descriptor (11 Table 11-5). -/
structure Barge where
  kind : Nat
  msg : Bool
  cont : Bool
  ctx : Nat
  dest : Nat
  counter : Nat
  localCtr : Nat
  addr : Nat
  loc : Nat
  length : Nat
  fwdPort : Nat
  fwdBarge : Nat
deriving DecidableEq, Repr

/-- A loaded table buffer: TAG, barges, and the barge of each slot's transmit and receive field, key 40 lock + slot
(11 R220). -/
structure LockTable where
  tag : Nat := 0
  /-- A load wrote the buffer, and its table has not been retired. -/
  loaded : Bool := false
  barges : List Barge := []
  tx : SMap (Option Nat) := []
  rx : SMap (Option Nat) := []
deriving DecidableEq, Repr

/-- A berth in a receiving barge's order: its frame and slot, its flit once that is here (a message flit or data) with the
frame from which a forward may use it, and how often and when it was asked for (11 R225, R226, R236). -/
structure Berth where
  frame : Nat
  slot : Nat
  flit : Option (Bool × List Byte) := none
  avail : Nat := 0
  asks : Nat := 0
  askedAt : Nat := 0
  /-- Where in the spill area it stands, if it was spilled. -/
  spilled : Option Nat := none
deriving DecidableEq, Repr

/-- Where a barge stands (11 R221-R227, R235). -/
structure BargeSt where
  /-- Window flits sent or delivered in the owning context's step. -/
  n : Nat := 0
  /-- Received and expected flits not yet delivered, in barge order. -/
  line : List Berth := []
  /-- FORWARD_OUT: flits passed to it, each with its available frame. -/
  ready : List (Nat × Bool × List Byte) := []
  /-- FORWARD_OUT: frames and slots that were sent owed. -/
  owes : List (Nat × Nat) := []
  /-- Flits were discarded for want of landing room. -/
  cut : Bool := false
deriving DecidableEq, Repr

/-- A flit in the replay or LATE store (11, Errors, resends and port loss). -/
structure Sent where
  frame : Nat
  slot : Nat
  barge : Nat
  msg : Bool
  bytes : List Byte
  /-- When it was sent as a LATE flit. -/
  late : Option Nat := none
deriving DecidableEq, Repr

/-- A link or canal port (11). -/
structure PortSt where
  /-- LNK.PORT_STAT.STATE; for a canal port 3 once started. -/
  state : Nat := 0
  lost : Bool := false
  neighbour : Nat := 0
  peer : Nat := 0
  neighbourLocked : Bool := false
  /-- Offset and one-way delay in 0.1 ns. -/
  align : Int := 0
  delay : Nat := 0
  checked : Option Nat := none
  /-- The buffer in force, the first frame it governs, and when the switch was, while the old one still serves. -/
  active : Nat := 0
  since : Nat := 0
  oldSince : Option Nat := none
  table0 : LockTable := {}
  table1 : LockTable := {}
  /-- Barges by 4,096 buffer + index. -/
  barges : SMap BargeSt := []
  sent : Option Nat := none
  got : Option Nat := none
  badRun : Nat := 0
  /-- Corrected symbols by lane (11 R214). -/
  corr : SMap Nat := []
  store : List Sent := []
  /-- Credit held and credit to return, by class, and unscheduled packets waiting (11 R231). -/
  credit : SMap Nat := []
  returns : SMap Nat := []
  queue : List Packet := []
  /-- A packet under way out: its bytes sent, and to be sent; and flits of one under way in. -/
  outSent : List Byte := []
  outRest : List Byte := []
  inPart : List Byte := []
  /-- Canal frames on the edge toward this port. -/
  wire : List Frame := []
  warnedAt : Option Nat := none
deriving DecidableEq, Repr

/-- A link self-test: the port, its first and last lock cycle (09 R191). -/
structure LinkTest where
  port : Nat
  first : Nat
  last : Nat
deriving DecidableEq, Repr

/-- Links, canal and what they share. -/
structure Links where
  /-- By port code. -/
  ports : SMap PortSt := []
  tests : List LinkTest := []
  /-- HALL_REF has no edges (11 R219). -/
  refLost : Bool := false
  /-- Bytes of the record stream cut but not yet sent, by destination; and received but not whole, by module, with 2^14
  added for a stream that arrives in packets, and 2^15 for management traffic. -/
  streamOut : SMap (List Byte) := []
  streamIn : SMap (List Byte) := []
deriving DecidableEq, Repr

/-! ### Messages and mailboxes (14 R301-R308) -/

/-- A mailbox (14 R301, Table 14-7): the message slot, FULL, who wrote it, what the receiver has decided and not yet written
back, the acknowledge register with VALID, and OVERRUN; the lock cycle in which the message came, and a change that waits for the
acknowledgement (15 R339). -/
structure Mailbox where
  msg : Option Msg := none
  full : Bool := false
  src : Option MsgSrc := none
  result : Option (BitVec 16 × List Byte) := none
  ack : Option (BitVec 16) := none
  valid : Bool := false
  overrun : Bool := false
  arrivedLc : Nat := 0
  armOnAck : Bool := false
deriving DecidableEq, Repr

/-- The last message acknowledged from a source, with its code and reply (R307). -/
structure LastAck where
  src : MsgSrc
  msg : Msg
  code : BitVec 16
  reply : List Byte
deriving DecidableEq, Repr

/-- Mailboxes by key, the last acknowledgement of each source, and when a module reset asked for falls due. -/
structure Mail where
  boxes : SMap Mailbox := []
  last : List LastAck := []
  resetAt : Option Nat := none
deriving DecidableEq, Repr

/-! ### Firmware, flash and fuses (14 R288-R300, 17 R351-R356) -/

/-- A 3,072-bit number from its 256-bit words, the most significant first. -/
def wide3072 (ws : List Nat) : BitVec 3072 := BitVec.ofNat 3072 (ws.foldl (fun a w => 2 ^ 256 * a + w) 0)

/-- The trailer of a delivered image: a key of the model's own, and its signature over the digest 0 (log 7). -/
def factoryTrailer : Trailer where
  modulus := wide3072 [
  0xd8c491b6aa57564785d331040d971bf4daaa56b56e4eb67a1b5176cb4e23a247,
  0xf51c3ff62ad14e3c672dae20f5cd61ff3a63e57ea239b31a8e23639f8d4a2e77,
  0x7af9c5ce8e9dce43c0a7a680f9f9cb657f1d5fd80104e1251427ff4723084793,
  0xb5dafc38ed3c59333b1bab481b8901d460313eea596f8c5f5e996aafe38aee06,
  0x91b647d30624e1af3739a8bceb11e660a1aad486bf21b79efbd04c28acddeb8b,
  0xa99d27e66de18e8f78a9c68a4bb09474e81f1abfbb2d73dfb459683af173e7dc,
  0x7b8ed174a32eca98adbc23db42fc322351615332bfdf93830a04c7b44b7a7659,
  0xf7d833e7a66c7a6e7cc9b3ac78c15aff721ea62e3a0741ab02e32edf2cddd0a7,
  0x2c80528ff2adf003959d8f571d53430dcdd3177c93584c14fbd2900103fd98c8,
  0x42caf84c83880ac3e11493398aafae4c1c4466dd605e7d79ef25bd0c035d972d,
  0x5cbfd2f55b31fd822584c1047140ab74fbac7d7df42a7d6303d970d4c1bf7264,
  0xa1fd9f890265e4ac7dd0c5fc97c2e9de8a0042dbcd62686952faa1fa2586f08b]
  exponent := 65537
  keyIndex := 0
  reserved := 0
  signature := wide3072 [
  0xd819ca59583cf8d236d4e086b3abfec85a030bac89d196bf0b8c05d1da7344d6,
  0xa26af1f6e2e85c0cdcb0ed93316597a6dbf9119d04d06c240b4103f2dc9776de,
  0x7fa612ece5aec67ce6644a88452a5c78741a0496deef075ce808e3eee52068a1,
  0x09f2ee8b456ca09d47e24792de16c1755fdc6fe53a3f56b913fa493676f5064b,
  0x2523aba443c041afe819a1a4fdfe30239901728cdc6fec1f5a4b3102c4bd4a35,
  0xbaacb0a9d63ae0103c84088e4d48207e488c4c89284821a99b7c756c74da6b90,
  0x8c635e4888a6d8abe88b2aa367338cf00102fde9040f30ba7b0fa74347e76977,
  0xf16661809f1937d39ccb16463cfeb94260031ebeeeec2e0106d04c4c609a10a4,
  0x07461a31fb319a2ed19f774179ed5d1d4e72411097ded3cd159249b4aed89147,
  0x25aac7976e643af1891091f82f4c9dcc815fffa874008a3f44bc2e1d948be828,
  0x9a509138e47adfc02efca9f6502d4dd4fa110d70f0aad42a70b11b2f5c2a9b6d,
  0x24d999e25485824fcda90d61ed9f8143c41c9165f4a5f0b564781c8f539bbf47]

/-- An image of a delivered part (log 7). -/
def factoryImage (c : BitVec 8) : Image :=
  { cls := c, flags := 1, handoff := 1, offset := 0x2000, length := 0x2000, version := 0x01000000, svn := 0, reserved := 0,
    digest := 0, trailer := factoryTrailer }

/-- The image of every class (log 7). -/
def factoryImages : List Image := [factoryImage 1, factoryImage 2, factoryImage 3, factoryImage 4, factoryImage 5]

/-- The repair record (07 R133, R139; 09 R189): hive slots retired, rows repaired and pages retired. -/
structure Repair where
  gen : Nat := 0
  slots : List Nat := []
  rows : List Nat := []
  pages : List Nat := []
deriving DecidableEq, Repr

/-- A flash device (14 R289, R290, Table 14-2): the boot header with its reserved bytes 6-7, 13-63 and the reserved bits of byte 12,
the image directory, whose first 128 entries the device has room for, the settings and repair regions and the crash log. -/
structure Device where
  magic : BitVec 32 := 0x42594148
  format : BitVec 16 := 1
  pad : BitVec 16 := 0
  bootGen : BitVec 32
  valid : Bool := true
  rest : BitVec 415 := 0
  images : List Image := factoryImages
  settings : Option Settings := none
  repair : Repair := {}
  crash : List LogRec := []
deriving DecidableEq, Repr

/-- The fuses (17 Table 17-1). DEVICE_KEYS holds the identity key and the attestation key with their certificates: the signing engine
alone reads them. -/
structure Fuses where
  rootHash : List (BitVec 256) :=
    [0x244088e16bede59a1a0bfa96a07c41b52a0e91547900cdd70660f5a64eec3431, 0, 0, 0]
  revoke : BitVec 4 := 0
  /-- Least SVN accepted of classes 1 to 5. -/
  svnMin : List Nat := [0, 0, 0, 0, 0]
  ownerMode : BitVec 2 := 0
  ownerHash : BitVec 256 := 0
  deviceKeys : BitVec 16384 := 0
  serial : BitVec 128 := 0
deriving DecidableEq, Repr

/-- A firmware activation (14 R297-R300): the slot, the CORES mask, the ring command that waits for it, whether it runs and
since when, the cores still to change in order, and those changed. -/
structure Activation where
  slot : Nat
  cores : Nat
  cmd : Option (Nat × Nat) := none
  running : Bool := false
  started : Nat := 0
  todo : List Core := []
  changed : List Core := []
deriving DecidableEq, Repr

/-- Flash, fuses and the firmware cores. -/
structure Firmware where
  dev0 : Device := { bootGen := 1 }
  dev1 : Device := { bootGen := 0 }
  fuses : Fuses := {}
  /-- The images loaded, by class, and those of before the activation. -/
  loaded : List Image := []
  previous : List Image := []
  act : Option Activation := none
  /-- Cores in a solo restart. -/
  restarting : List Core := []
  /-- When the module was last in an emergency (R299). -/
  calmSince : Nat := 0
  /-- Slots whose images failed in this boot (R294). -/
  failedSlots : List Nat := []
  /-- The settings image applied, and its device. -/
  settings : Option (Settings × Nat) := none
  /-- The tray identity straps as sampled (19 R386). -/
  traySlot : BitVec 2 := 0
  trayId : BitVec 6 := 0
  /-- The I3C dynamic address and the MCTP endpoint identifier (14 Table 14-12). -/
  i3c : Option (BitVec 7) := none
  eid : BitVec 8 := 0
deriving DecidableEq, Repr

/-! ### Power (15) -/

/-- A budget ramp (15 R338): B0, T, the rate, and the lock cycle AT. -/
structure Ramp where
  b0 : Nat
  t : Nat
  rate : Nat
  at_ : Nat
deriving DecidableEq, Repr

/-- Power delivery and its control. -/
structure Power where
  /-- AUX_12V is valid (19 R381); HV_IN is valid; HV_IN lies outside 360-420 V; the converters turned off under 15 R320. -/
  aux : Bool := false
  hv : Bool := false
  hvOut : Bool := false
  shut : Bool := false
  /-- Converters and rails are up (Table 14-4 step 4). -/
  rails : Bool := false
  /-- Since when CONV_ALERT_N has been low, and converters that drive it. -/
  alert : Option Nat := none
  /-- How long it had been low before the last module reset. -/
  alertPast : Nat := 0
  faults : SMap Bool := []
  /-- When the last reason for the lowest state went away (R327). -/
  released : Nat := 0
  /-- Stretched islands (R324). -/
  stretched : SMap Bool := []
  /-- Output of each regulator in 0.1 mV where it is not the nominal of its class, when it reached its top, and when its
  shortage was last logged (R323). -/
  volts : SMap Nat := []
  topSince : SMap (Option Nat) := []
  shortLogged : SMap (Option Nat) := []
  /-- The ceiling of each die in 0.1 W, once the loop has set it; when each die's current last passed 95% of it; the issue
  level of each die's spare test is held at zero (R325). -/
  ceiling : Option Nat := none
  belowSince : SMap (Option Nat) := []
  testHeld : SMap Bool := []
  /-- The lowest margin of each die since the last loop period, in ps. -/
  marginLow : SMap (Option Nat) := []
  /-- Since when estimate and measurement have differed, or agreed (R332). -/
  differSince : Option Nat := none
  agreeSince : Option Nat := none
  /-- When BUDGET_SHORT was last logged (R331). -/
  shortAt : Option Nat := none
  /-- The armed budget: T and rate; and the ramp under way (R338). -/
  armed : Option (Nat × Nat) := none
  ramp : Option Ramp := none
  /-- A clock that takes effect at the next lock-cycle boundary, with that lock cycle (R327, R335). -/
  nextClock : Option (Nat × Nat) := none
  /-- N and the memory fraction rise by at most one sixteenth per loop period, after the lowest state (R327). -/
  climbing : Bool := false
deriving DecidableEq, Repr

/-! ### Thermal (16) -/

/-- Sensors, coolant and thermal limits. -/
structure Thermal where
  /-- The last reading of each junction sensor in degC, and sensors marked failed (R341, R343). -/
  temps : SMap (Option Int) := []
  failed : SMap Bool := []
  inlet : Option Int := none
  outlet : Option Int := none
  /-- The inlet, or the outlet, sensor has failed (R343). -/
  inletLost : Bool := false
  outletLost : Bool := false
  /-- Times of the last nine pulses, newest first, and F as a fraction of 1 L/min (R342). -/
  pulses : List Nat := []
  lastPulse : Option Nat := none
  flow : Nat × Nat := (0, 1)
  /-- Since when: F below 0.8, at or above 0.85, at or above 0.5 of NOMINAL; the inlet above 45.0, at or below 44.0 degC; the
  cap below, not below the budget. -/
  flowLow : Option Nat := none
  flowOk : Option Nat := none
  flowHalf : Option Nat := none
  inletHigh : Option Nat := none
  inletOk : Option Nat := none
  binding : Option Nat := none
  unbound : Option Nat := none
  /-- C_J (R346). -/
  cj : Nat := 4800
  /-- FLOW_STOP asks for takeover at the next loop period, with the log SEQ (R348). -/
  stopReq : Option (BitVec 32) := none
  /-- When S3 asserted THERMTRIP_N; and the tray holds it low (R347, 19 R383). -/
  trip : Option Nat := none
  trayTrip : Bool := false
  /-- The rails were taken away by the tray's low (R347). -/
  trayFell : Bool := false
deriving DecidableEq, Repr

/-! ### The host interface (12, 17 R358, R362, R363) -/

/-- A selective IDE stream: its key, its association of bus addresses, and whether it is Secure. -/
structure IdeStream where
  key : BitVec 256
  base : Nat
  limit : Nat
  secure : Bool := false
deriving DecidableEq, Repr

/-- Where an SPDM requester stands: version, capabilities and algorithms agreed, and the session under way, once finished. -/
structure Spdm where
  version : Bool := false
  capabilities : Bool := false
  algorithms : Bool := false
  /-- secp384r1 and AES-256-GCM were both offered. -/
  sessions : Bool := false
  session : Option Nat := none
  finished : Bool := false
deriving DecidableEq, Repr

/-- What the host configured of a function (12 Table 12-1, R244): the codes of Max Payload Size, Max Read Request Size and the
Completion Timeout range, and the three BARs; the standard's reset values (log 20). -/
structure FuncCfg where
  payload : Nat := 0
  readRequest : Nat := 2
  timeout : Nat := 0
  bars : List Nat := [0, 0, 0]
  /-- The VF BARs of the SR-IOV capability, in the physical function's configuration alone (12 R244). -/
  vfBars : List Nat := [0, 0, 0]
  /-- AER: an advisory non-fatal error has been reported (12 Table 12-1). -/
  advisory : Bool := false
deriving DecidableEq, Repr

/-- The host interface (12 R241-R247). -/
structure HostIf where
  /-- By function. -/
  cfg : SMap FuncCfg := []
  /-- MSI-X table words that differ from their reset, key 260 f + word (18 Table 18-3). -/
  msix : SMap (BitVec 32) := []
  /-- MSI-X pending bits, key 65 f + vector. -/
  msixPending : SMap Bool := []
  /-- PERST_N is asserted. -/
  perst : Bool := true
  /-- IDE streams by 4 f + i, and SPDM requesters: 0 for MCTP, 1 + f for a function's DOE mailbox. -/
  streams : SMap (Option IdeStream) := []
  spdm : SMap Spdm := []
deriving DecidableEq, Repr

/-- The state of the module. -/
structure State where
  /-- Commands waiting, first in, first out. -/
  pending : List Instr := []
  clk : Clock := {}
  /-- Set-up registers that differ from their reset values, by BAR 0 offset (18). -/
  regs : SMap Word := []
  /-- Data-plane settings written since the last frame boundary, by offset (01 R19). -/
  staged : SMap (Option Word) := []
  mem : Mems := {}
  hive : Hives := {}
  stks : SMap StackSt := []
  combs : SMap CombSt := []
  sync : Sync := {}
  ctxs : SMap CtxSt := []
  layers : SMap LayerSt := []
  /-- The layers' committed state (03 R40). -/
  layersC : SMap LayerSt := []
  fail : Failover := {}
  lnk : Links := {}
  log : LogSt := {}
  mail : Mail := {}
  fw : Firmware := {}
  pwr : Power := {}
  thm : Thermal := {}
  io : HostIf := {}
  /-- What the module has sent, newest first; the model's own record (log 8). -/
  out : List Output := []
deriving DecidableEq, Repr

/-- The module right after a module reset (14 R291): every memory and register cleared, or at the reset value of its
field table; nothing waits. -/
def State.reset : State := {}

end Sys2Proof.Machine
end

