-- ==== Sys2Proof/Machine/Ops.lean ====
section
/-! DEFINITION. The shared operations over registers, memory, the log and the outside that every command's meaning is
written in. -/

namespace Sys2Proof.Machine

/-- The outcome of a command. -/
abbrev Out := Host.Outcome State Fault Refusal

/-- A unit takes its next step when its condition holds; otherwise the command leaves the state as it is (log 1). -/
def whenReady (c : Bool) (s t : State) : Out := .next (if c then t else s)

/-! ### Registers -/

/-- The stored value of a register. -/
def State.reg (s : State) (off : Nat) : Nat := (sget (BitVec.ofNat 64 (regReset off)) s.regs off).toNat

/-- The state with a register's stored value replaced. -/
def State.setReg (s : State) (off v : Nat) : State :=
  { s with regs := sput (BitVec.ofNat 64 (regReset off)) s.regs off (BitVec.ofNat 64 v) }

/-- Bits `hi` to `lo` of a register. -/
def State.field (s : State) (off hi lo : Nat) : Nat := bits (s.reg off) hi lo

/-- One bit of a register. -/
def State.flag (s : State) (off i : Nat) : Bool := (s.reg off).testBit i

/-- The state with bits `hi` to `lo` of a register replaced. -/
def State.setField (s : State) (off hi lo v : Nat) : State := s.setReg off (setBits (s.reg off) hi lo v)

/-- The state with one bit of a register replaced. -/
def State.setFlag (s : State) (off i : Nat) (b : Bool) : State := s.setField off i i (b2n b)

/-- The state with a saturating count in bits `hi` to `lo` raised by `n`. -/
def State.countField (s : State) (off hi lo n : Nat) : State :=
  s.setField off hi lo (min (s.field off hi lo + n) (2 ^ (hi + 1 - lo) - 1))

/-! ### Free values and what the module sends -/

/-- The free value the next draw gives, below `bound` (log 9). -/
def State.freeBelow (s : State) (bound : Nat) : Nat := Config.freeValue s.clk.free % bound

/-- The state with one free value drawn. -/
def State.drawn (s : State) : State := { s with clk := { s.clk with free := s.clk.free + 1 } }

/-- The module sends something. -/
def State.send (s : State) (o : Output) : State := { s with out := o :: s.out }

/-- The lock-cycle number (11 R213). -/
def State.lockCycle (s : State) : Nat := s.clk.frame / 1024

/-- The time of one frame, 25.6 nanoseconds, in picoseconds (11 R213). -/
def framePs : Nat := 25600

/-- The lock cycle, or without frame lock the count of its length since reset. -/
def State.lcNow (s : State) : Nat := if s.clk.lock then s.lockCycle else s.clk.now / (1024 * framePs)

/-- B(L) of a ramp (15 R338). -/
def Ramp.value (r : Ramp) (l : Nat) : Nat :=
  let gap := (r.t - r.b0) + (r.b0 - r.t)
  let d := if r.rate = 0 then gap else min gap (r.rate * (l - r.at_) * 262144 / 10000000)
  if r.b0 ≤ r.t then r.b0 + d else r.b0 - d

/-- Frame lock is gained or lost. A ramp under way goes on from the budget in force, and a clock due at the next lock cycle stays so,
in the lock cycles counted from now on (15 R335, R338; log 23). -/
def State.moveLock (s : State) (b : Bool) : State :=
  let t : State := { s with clk := { s.clk with lock := b } }
  let old := s.lcNow
  let new := t.lcNow
  { t with pwr := { s.pwr with
    ramp := s.pwr.ramp.map (fun r => ⟨r.value old, r.t, r.rate, new⟩)
    nextClock := s.pwr.nextClock.map (fun e => (e.1, if e.2 ≤ old then new else new + 1)) } }

/-- The data-plane settings written since the last frame boundary take effect (01 R19). -/
def State.takeStaged (s : State) : State :=
  s.staged.foldl (fun s e => e.2.elim s (fun v => s.setReg e.1 v.toNat)) { s with staged := [] }

/-- A data-plane setting is written: it waits for the next frame boundary (01 R19). -/
def State.stageReg (s : State) (off v : Nat) : State := { s with staged := sput none s.staged off (some (BitVec.ofNat 64 v)) }

/-- What a register's stored bits read: a setting that waits for the frame boundary reads as written (18 R366). -/
def State.regShown (s : State) (off : Nat) : Nat := (sget none s.staged off).elim (s.reg off) BitVec.toNat

/-! ### Functions and contexts -/

/-- A context's state. -/
def State.ctx (s : State) (x : Nat) : CtxSt := sget {} s.ctxs x

/-- The state with a context replaced. -/
def State.setCtx (s : State) (x : Nat) (c : CtxSt) : State := { s with ctxs := sput {} s.ctxs x c }

/-- The state with a context changed. -/
def State.modCtx (s : State) (x : Nat) (f : CtxSt → CtxSt) : State := s.setCtx x (f (s.ctx x))

/-- The function a context is assigned to (12 R243, SEC.CTX_FUNC). -/
def State.funcOf (s : State) (x : Nat) : Nat := s.field (Off.secCtxFunc x) 3 0

/-- The context is enabled by the protection set-up. -/
def State.ctxEnabled (s : State) (x : Nat) : Bool := s.flag (Off.secCtxFunc x) 4

/-- The contexts of a function. -/
def State.ctxsOf (s : State) (f : Nat) : List Nat :=
  (List.range 64).filter (fun x => s.ctxEnabled x && s.funcOf x == f)

/-- A context of the physical function (13 Table 13-2). -/
def State.onPf (s : State) (x : Nat) : Bool := s.funcOf x == 0

/-- A unit or mode is permitted to the function of a context (SEC.FUNC_PERM). -/
def State.permits (s : State) (x bit : Nat) : Bool := s.flag (Off.secFuncPerm (s.funcOf x)) bit

/-- A logical hive belongs to a context (SEC.CTX_HIVES). -/
def State.ownsHive (s : State) (x l : Nat) : Bool := decide (l < 256) && s.flag (Off.secCtxHives x (l / 64)) (l % 64)

/-- A barrier slot belongs to a context: hive slots with their hive, others by SEC.CTX_SLOTS. -/
def State.ownsSlot (s : State) (x n : Nat) : Bool :=
  if n < 4096 then s.ownsHive x (n / 16)
  else decide (n < 4368) && s.flag (Off.secCtxSlots x ((n - 4096) / 64)) ((n - 4096) % 64)

/-- A counter belongs to a context. -/
def State.ownsCounter (s : State) (x p : Nat) : Bool := s.ownsHive x (p / 256)

/-- The context that owns an object, if one does. -/
def State.ownerOf (s : State) (barrier : Bool) (o : Nat) : Option Nat :=
  (List.range 64).find? (fun x => s.ctxEnabled x && if barrier then s.ownsSlot x o else s.ownsCounter x o)

/-- A joined context (12 R258). -/
def State.joined (s : State) (x : Nat) : Bool := decide (s.field (Off.ctxJob x) 13 0 > 1)

/-- The function can reach its host: Bus Master Enable set, not in D3hot, the Data Link Layer up, and for a VF the VFs
enabled (12 R261). -/
def State.hostUp (s : State) (f : Nat) : Bool :=
  s.flag (Off.hifFuncStat f) 63 && !s.flag (Off.hifFuncStat f) 62 && s.flag Off.hifLinkStat 1
    && (f == 0 || s.flag (Off.hifFuncStat 0) 61)

/-- A request of a function to a bus address is held: the stream that covers it is Insecure, or none does and IDE_ONLY is set
(17 R363). -/
def State.ideHolds (s : State) (f a : Nat) : Bool :=
  let covers := fun (e : IdeStream) => decide (e.base ≤ a ∧ a ≤ e.limit)
  match ((List.range 4).filterMap (fun i => sget none s.io.streams (4 * f + i))).find? covers with
  | some e => !e.secure
  | none => s.flag (Off.secFuncPerm f) 8

/-- An MSI-X table entry is masked; a vector control word resets to masked. -/
def State.msixMasked (s : State) (f v : Nat) : Bool := (sget 1#32 s.io.msix (260 * f + 4 * v + 3)).getLsbD 0

/-- The module raises an MSI-X vector of a function (12 R246): nothing while Bus Master Enable is clear; a masked vector
stays pending. -/
def State.irq (s : State) (f v : Nat) : State :=
  if s.hostUp f then
    if s.msixMasked f v then { s with io := { s.io with msixPending := sput false s.io.msixPending (65 * f + v) true } }
    else s.send (.irq f v)
  else s

/-- A context changes state; vector 0 of its function signals it (12 R246). -/
def State.setCtxState (s : State) (x : Nat) (st : BitVec 4) : State :=
  if (s.ctx x).state = st then s
  else (s.modCtx x (fun c => { c with state := st })).irq (s.funcOf x) 0

/-! ### The log (14 R310-R313) -/

/-- The 64 bytes of a log entry (14 Table 14-13). -/
def LogRec.bytes (r : LogRec) : List Byte :=
  natLe r.seq.toNat 4 ++ natLe (r.time + (if r.locked then 2 ^ 63 else 0)) 8
    ++ natLe (r.args.severity.toNat + 8 * b2n r.args.fm + 16 * b2n r.args.ctx.isSome) 1
    ++ natLe r.args.source.toNat 1 ++ natLe r.args.code.toNat 2
    ++ natLe (match r.args.ctx with
      | some x => x.val
      | none => 0) 1
    ++ natLe r.args.status.toNat 1 ++ natLe r.args.unit.toNat 2 ++ natLe 0 4
    ++ ((List.range 5).map (fun i => natLe (r.args.args.getD i 0).toNat 8)).flatten

/-- log2 of the host log ring's entries; values outside 10 to 20 count as 16. -/
def State.logRingLog (s : State) : Nat :=
  let n := s.field Off.fwlLogCfg 4 0
  if 10 ≤ n ∧ n ≤ 20 then n else 16

/-- Another warning may be sent: fewer than 100 went in the last second (14 R310). -/
def State.mayWarn (s : State) : Bool := match s.log.warned[99]? with
  | some t => decide (t + 1000000000000 ≤ s.clk.now)
  | none => true

/-- A warning to the fleet manager, or a count of those dropped (14 R310). -/
def State.warn (s : State) (r : LogRec) : State :=
  if s.mayWarn then { s with log := { s.log with warned := (s.clk.now :: s.log.warned).take 100 } }.send (.towpath 0x0040 r.bytes)
  else s.countField Off.fwlLogStat 47 32 1

/-- The host log ring has no slot for the entry with this number (14 R313). -/
def State.logRingFull (s : State) (seq : BitVec 32) : Bool :=
  decide ((seq - BitVec.ofNat 32 (s.field Off.fwlLogPos 31 0)).toNat ≥ 2 ^ s.logRingLog)

/-- An entry is written to the host ring, or is dropped and counted lost (14 R312, R313). -/
def State.putLog (s : State) (r : LogRec) : State :=
  if s.logRingFull r.seq || s.log.gap.isSome then
    let gap := match s.log.gap with
      | some (q, n) => some (q, n + 1)
      | none => some (r.seq, 1)
    { s with log := { s.log with gap := gap } }.countField Off.fwlLogStat 31 0 1
  else
    let a := s.field Off.fwlLogBase 63 12 * 4096 + 64 * (r.seq.toNat % 2 ^ s.logRingLog)
    { s with mem := { s.mem with host := s.mem.host.setBytes a r.bytes } }.setField Off.fwlLogPos 63 32
      ((r.seq.toNat + 1) % 2 ^ 32)

/-- The entries that wait for the PF's host are written once it can be reached (14 R312). -/
def State.flushLog (s : State) : State :=
  if s.log.held.isEmpty || !s.hostUp 0 || s.ideHolds 0 (s.field Off.fwlLogBase 63 12 * 4096) then s
  else s.log.held.foldl State.putLog { s with log := { s.log with held := [] } }

/-- An entry joins those on their way to the host ring. -/
def State.logToRing (s : State) (r : LogRec) : State :=
  State.flushLog { s with log := { s.log with held := s.log.held ++ [r] } }

/-- An entry goes to the host ring if the ring takes it (14 R312). -/
def State.logToHost (s : State) (r : LogRec) : State :=
  let sev := r.args.severity.toNat
  let wanted := decide (sev ≥ min (s.field Off.fwlLogCfg 10 8) 5) || decide (sev = 0)
  if s.flag Off.fwlLogCfg 31 && wanted then s.logToRing r else s

/-- A core or unit writes a log entry (14 R311). -/
def State.logEntry (s : State) (a : LogArgs) : State :=
  let r : LogRec := ⟨s.log.seq, if s.clk.lock then s.clk.frame else s.clk.now / 25600, s.clk.lock, a⟩
  let s := { s with log := { s.log with seq := s.log.seq + 1, mem := (r :: s.log.mem).take 1048576 } }
  let s := if a.fm then s.warn r else s
  s.logToHost r

/-- A log entry from its fields. -/
def State.note (s : State) (sev : Nat) (fm : Bool) (source code : Nat) (args : List Nat) (x : Option Nat := none)
    (status unit : Nat := 0) : State :=
  s.logEntry ⟨BitVec.ofNat 3 sev, fm, x.bind (fun n => if h : n < 64 then some ⟨n, h⟩ else none),
    BitVec.ofNat 8 source, BitVec.ofNat 16 code, BitVec.ofNat 8 status, BitVec.ofNat 16 unit,
    args.map (BitVec.ofNat 64)⟩

/-- One frame's time passes: with frame lock the frame number advances, the settings written take effect and log entries held go out (11 R213, 01 R19,
14 R312;
log 2). -/
def State.tick (s : State) : State :=
  let s := s.takeStaged.flushLog
  { s with clk := { s.clk with
      now := s.clk.now + framePs
      frame := if s.clk.lock then s.clk.frame + 1 else s.clk.frame
      limited := if s.field Off.pwrLimitStat 12 8 < 16 then s.clk.limited + framePs else s.clk.limited } }

/-- A log entry whose code the spec does not give: the code is a free value (log 15). -/
def State.noteFree (s : State) (sev : Nat) (fm : Bool) (source : Nat) (args : List Nat) (x : Option Nat := none)
    (status unit : Nat := 0) : State :=
  s.drawn.note sev fm source (s.freeBelow 65536) args x status unit

/-- "Ignored and logged": entry 0x0601 with the offset, value and function (18 R364, 14 Table 14-14). -/
def State.ignored (s : State) (f off v : Nat) : State := s.note 2 false 0x50 0x0601 [off, v, f]

/-- The value a register holds after a write of `v`: RW bits take it, W1C bits written 1 clear, other bits stay. -/
def maskedWrite (rw w1c old v : Nat) : Nat :=
  ((old &&& ((2 ^ 64 - 1) ^^^ rw)) ||| (v &&& rw)) &&& ((2 ^ 64 - 1) ^^^ (v &&& w1c))

/-- A write that sets reserved bits is ignored in them, and logged (00 R2, 14 Table 14-14). -/
def State.noteReserved (s : State) (f off v : Nat) : State :=
  match regAt off with
  | some (r, _, _) => if v &&& r.reserved = 0 then s else s.ignored f off v
  | none => s

/-- A permitted write stores its bits in a register. -/
def State.putReg (s : State) (f off rw w1c v : Nat) : State :=
  (s.setReg off (maskedWrite rw w1c (s.reg off) v)).noteReserved f off v

/-- The module asks the fleet manager for takeover by its standby (16 R348, 14 Table 14-10). -/
def State.takeoverReq (s : State) (cause unit : Nat) : State :=
  s.send (.towpath 0x0025 (natLe cause 1 ++ natLe unit 2 ++ natLe s.log.seq.toNat 4))

/-! ### Device addresses (06 R105-R107) -/

/-- What a device address names. -/
inductive Place where
  | stack (n off : Nat)
  | comb (n off : Nat)
  | slot (p off : Nat)
  | hive (l off : Nat)
  | host (off : Nat)
  | unpopulated
deriving DecidableEq, Repr

/-- The device address map (06 Table 6-1). -/
def placeOf (a : Nat) : Place :=
  if a < 0x10000000000 then
    if a % 0x800000000 < 0x600000000 then .stack (a / 0x800000000) (a % 0x800000000) else .unpopulated
  else if a < 0x10400000000 then .comb ((a - 0x10000000000) / 0x40000000) ((a - 0x10000000000) % 0x40000000)
  else if 0x11000000000 ≤ a ∧ a < 0x11280000000 then
    let o := a - 0x11000000000
    if o % 0x2000000 < 0x1800000 then .slot (o / 0x2000000) (o % 0x2000000) else .unpopulated
  else if 0x12000000000 ≤ a ∧ a < 0x12200000000 then
    let o := a - 0x12000000000
    if o % 0x2000000 < 0x1800000 then .hive (o / 0x2000000) (o % 0x2000000) else .unpopulated
  else if 0x800000000000 ≤ a ∧ a < 0x1000000000000 then .host (a - 0x800000000000)
  else .unpopulated

/-- Bytes from an address to the end of its region. -/
def Place.room : Place → Nat
  | .stack _ off => 0x600000000 - off
  | .comb _ off => 0x40000000 - off
  | .slot _ off => 0x1800000 - off
  | .hive _ off => 0x1800000 - off
  | .host off => 0x800000000000 - off
  | .unpopulated => 0

/-- The logical window address of an offset in a hive's store (01 R15). -/
def hiveAddr (l off : Nat) : Nat := 0x12000000000 + l * 0x2000000 + off

/-- The physical slot 5d + k of a logical hive (01 R13; log 5). -/
def State.slotOfHive (s : State) (l : Nat) : Nat :=
  5 * (l / 4) + match sget none s.hive.slotOf l with
    | some k => k
    | none => l % 4 + 1

/-- The address at which device memory is kept: a logical hive's store at its slot. -/
def State.devKey (s : State) (a : Nat) : Nat :=
  match placeOf a with
  | .hive l off => 0x11000000000 + s.slotOfHive l * 0x2000000 + off
  | _ => a

/-- A physical slot is out of use. -/
def State.slotFailed (s : State) (p : Nat) : Bool := sget false s.hive.failed p

/-- The logical hive in a physical slot. -/
def State.hiveIn (s : State) (p : Nat) : Option Nat :=
  ((List.range 4).map (fun j => 4 * (p / 5) + j)).find? (fun l => decide (s.slotOfHive l = p))

/-- A move of a logical hive is under way, to a slot of its die (06 R109). -/
def State.movingTo (s : State) (l : Nat) : Option Nat := sget none s.hive.moving l

/-- Any logical hive of a die is moving. -/
def State.dieMoving (s : State) (d : Nat) : Bool := (List.range 4).any (fun j => (s.movingTo (4 * d + j)).isSome)

/-- The current spare slot of a die: one that holds no logical hive, to which none moves, and not failed (01, Physical and
logical hives). -/
def State.spareSlot (s : State) (d : Nat) : Option Nat :=
  (List.range 5).find? (fun k => !s.slotFailed (5 * d + k) && (s.hiveIn (5 * d + k)).isNone
    && (List.range 4).all (fun j => s.movingTo (4 * d + j) != some k))

/-- A device address lies in the store of a logical hive that moves: accesses to it are held (06 R109). -/
def State.onMove (s : State) (a : Nat) : Bool :=
  match placeOf a with
  | .hive l _ => (s.movingTo l).isSome
  | _ => false

/-- The home of a counter or barrier slot is a logical hive that moves: messages to it are held (10 R200). -/
def State.homeMoving (s : State) (barrier : Bool) (o : Nat) : Bool :=
  if barrier then decide (o < 4096) && (s.movingTo (o / 16)).isSome else (s.movingTo (o / 256)).isSome

/-- A range of SEC.CTX_MEM: valid, first address and bytes. -/
def State.memRange (s : State) (x r : Nat) : Option (Nat × Nat) :=
  let o := Off.secCtxMem x r
  if s.flag o 63 then some (s.field o 27 0 * 0x100000, s.field o 62 48 * 0x100000) else none

/-- The extent lies in the union of the context's ranges. -/
def State.covered (s : State) (x : Nat) : Nat → Nat → Nat → Bool
  | 0, _, _ => false
  | k + 1, a, n =>
    match (List.range 32).findSome? (fun r => (s.memRange x r).bind (fun (b, z) =>
        if b ≤ a ∧ a < b + z then some (b + z - a) else none)) with
    | none => false
    | some room => if n ≤ room then true else s.covered x k (a + room) (n - room)

/-- A stack's state. -/
def State.stk (s : State) (n : Nat) : StackSt := sget {} s.stks n

/-- The state with a stack's state changed. -/
def State.modStk (s : State) (n : Nat) (f : StackSt → StackSt) : State := { s with stks := smod {} s.stks n f }

/-- The extent meets no retired page (07 R139). -/
def State.pagesOk (s : State) (a n : Nat) : Bool :=
  s.mem.retired.all (fun e => decide (e.1 * 4096 + 4096 ≤ a ∨ a + n ≤ e.1 * 4096))

/-- A context may reach `n` bytes of one region from an address in it; `test` is the exception of 01 R15:
a self-test may reach the slot that is the spare. -/
def State.reaches (s : State) (x a n : Nat) (test : Bool) : Bool :=
  match placeOf a with
  | .stack k _ => !(s.stk k).dead && s.pagesOk a n && (s.flag (Off.secCtxFunc x) 5 || s.covered x 33 a n)
  | .comb .. => s.flag (Off.secCtxFunc x) 5 || s.covered x 33 a n
  | .slot p _ => test && s.spareSlot (p / 5) == some (p % 5)
  | .hive l _ => s.ownsHive x l
  | .host off => decide (off + n ≤ s.field (Off.ctxHostSize x) 47 12 * 4096)
  | .unpopulated => false

/-- The extent walk of `State.mayAccess`, region by region. -/
def State.mayAccessFrom (s : State) (x : Nat) (test : Bool) : Nat → Nat → Nat → Bool
  | 0, _, _ => false
  | k + 1, a, n =>
    let room := (placeOf a).room
    if n ≤ room then s.reaches x a n test
    else decide (0 < room) && s.reaches x a room test && s.mayAccessFrom x test k (a + room) (n - room)

/-- The check of 06 R107 over a whole extent. -/
def State.mayAccess (s : State) (x a n : Nat) (test : Bool := false) : Bool :=
  decide (n = 0) || s.mayAccessFrom x test 20 a n

/-- The extent meets a range that a sweep protects from other writes, until its completion entry is written
(08 R146). -/
def State.isProtected (s : State) (a n : Nat) : Bool :=
  s.ctxs.any (fun c => c.2.guards.any (fun g => g.2.any (fun e => decide (e.1 < a + n ∧ a < e.1 + e.2))))

/-- The address lies in the host window. -/
def isHostAddr (a : Nat) : Bool := decide (0x800000000000 ≤ a)

/-- The bus address of a host-window address (06 R106). -/
def State.busAddr (s : State) (x a : Nat) : Nat := s.field (Off.ctxHostBase x) 63 12 * 4096 + (a - 0x800000000000)

/-- The byte a context reads at a device address. -/
def State.load (s : State) (x a : Nat) : Byte :=
  if isHostAddr a then s.mem.host.byte (s.busAddr x a) else s.mem.dev.byte (s.devKey a)

/-- The `n` bytes a context reads from a device address. -/
def State.loads (s : State) (x a n : Nat) : List Byte := (List.range n).map (fun i => s.load x (a + i))

/-- The little-endian number a context reads. -/
def State.loadNat (s : State) (x a n : Nat) : Nat := leNat (s.loads x a n)

/-- A write of a byte by a context. -/
def State.store (s : State) (x a : Nat) (b : Byte) : State :=
  if isHostAddr a then { s with mem := { s.mem with host := s.mem.host.setByte (s.busAddr x a) b } }
  else { s with mem := { s.mem with dev := s.mem.dev.setByte (s.devKey a) b } }

/-- Writes of consecutive bytes by a context. -/
def State.storesRaw (s : State) (x a : Nat) : List Byte → State
  | [] => s
  | b :: bs => (s.store x a b).storesRaw x (a + 1) bs

/-- The size of the unit a code protects at a stored address: 32 bytes in a stack, 8 in an SRAM. -/
def badUnit (k : Nat) : Nat := if k < 0x10000000000 then 32 else 8

/-- A write of consecutive bytes; a unit written in full is readable again (06 R115). -/
def State.stores (s : State) (x a : Nat) (bs : List Byte) : State :=
  let t := s.storesRaw x a bs
  let k := s.devKey a
  if isHostAddr a || s.mem.bad.isEmpty then t
  else { t with mem := { t.mem with bad := t.mem.bad.filter (fun e => ¬(k ≤ e.1 ∧ e.1 + badUnit e.1 ≤ k + bs.length)) } }

/-- A little-endian write of `n` bytes. -/
def State.storeNat (s : State) (x a n v : Nat) : State := s.stores x a (natLe v n)

/-- The first uncorrectable unit that a read of an extent meets. -/
def State.badIn (s : State) (a n : Nat) : Option Nat :=
  let k := s.devKey a
  if isHostAddr a ∨ n = 0 then none
  else (s.mem.bad.find? (fun e => decide (e.1 < k + n ∧ k < e.1 + badUnit e.1))).map (·.1)

/-! ### The step of a context (12 R253) -/

/-- Bits of a descriptor, numbered from bit 0 of byte 0. -/
def Cmd.f (c : Cmd) (hi lo : Nat) : Nat := bits c.desc.toNat hi lo

/-- OPCODE (13 Table 13-1). -/
def Cmd.opcode (c : Cmd) : Nat := c.f 7 0

/-- A step command (12 R253). -/
def Cmd.isStep (c : Cmd) : Bool := decide (1 ≤ c.opcode ∧ c.opcode ≤ 6)

/-- Elements up to and including the first that satisfies `p`. -/
def takeThrough {α : Type} (p : α → Bool) : List α → List α
  | [] => []
  | a :: r => if p a then [a] else a :: takeThrough p r

/-- The commands of the oldest uncommitted step, in ring order (12 R253). -/
def CtxSt.stepCmds (c : CtxSt) : List Cmd :=
  takeThrough (fun d => d.opcode == 6) (c.cmds.filter (fun d => d.isStep && !d.past))

/-- A step of the context has begun: one of its commands has started, or it is being abandoned. -/
def State.stepOpen (s : State) (x : Nat) : Bool :=
  (s.ctx x).stepCmds.any (fun d => decide (d.phase ≠ .waiting)) || (s.ctx x).fault.isSome || (s.ctx x).abandon.isSome

/-! ### Faults of a step (10 R209, 12 R256, R258) -/

/-- The step of a context fails or is to be replayed; the first cause stands, and a rank move or cancel ranks before it
(13 R272). ABANDON_STEP or, for a joined context, STEP_HELD takes it from here. -/
def State.stepFault (s : State) (x : Nat) (a : Abandon) (status : Nat) : State :=
  s.modCtx x (fun c => match c.fault with
    | none => { c with fault := some (a, status) }
    | some (.replay, _) => if a = .replay then c else { c with fault := some (a, status) }
    | some (.fail, _) => if a = .cancel ∨ a = .moved then { c with fault := some (a, status) } else c
    | some (.cancel, _) => if a = .moved then { c with fault := some (a, status) } else c
    | some (.moved, _) => c)

/-- A running program fails: its hives stop fetching, the first status stands (04 R65). -/
def State.runFail (s : State) (x idx status result : Nat) : State :=
  s.modCtx x (fun c => { c with runs := c.runs.map (fun r =>
    if r.idx = idx ∧ r.fail.isNone then { r with fail := some (status, result) } else r) })

/-- The hives of the job's context that hold work. -/
def State.hiveSt (s : State) (h : Nat) : HiveState := sget {} s.hive.hives h

/-- The state with a hive replaced. -/
def State.setHive (s : State) (h : Nat) (v : HiveState) : State :=
  { s with hive := { s.hive with hives := sput {} s.hive.hives h v } }

end Sys2Proof.Machine
end

