-- ==== Sys2Proof/Machine/Tensor.lean ====
section
/-! DEFINITION. Narrow tensors (03): headers, decoding, the block-scale rules of R35 and R36, overflow maps, and
rotations. -/

namespace Sys2Proof.Machine

/-- A narrow tensor header (03 Table 3-3). -/
structure Hdr where
  fmt : Nat
  blockLen : Nat
  policy : Nat
  rotated : Bool
  written : Bool
  reserved : Nat
  layer : Nat
  tscale : F32
  scales : Nat
  map : Nat
  amax : F32
  last : Nat
  /-- Bytes from one block's elements to the next: those of a block, or a forager table's ROW_STRIDE (07 R125). -/
  step : Nat
deriving DecidableEq, Repr

/-- The header at an address, as a context reads it. -/
def State.hdr (s : State) (x a : Nat) : Hdr :=
  let w := s.loadNat x a 4
  let l := 16 * 2 ^ bits w 5 4
  { fmt := bits w 3 0, blockLen := l, step := l * fmtBits (bits w 3 0) / 8, policy := bits w 7 6, rotated := w.testBit 8,
    written := w.testBit 9, reserved := bits w 15 10, layer := bits w 31 16,
    tscale := BitVec.ofNat 32 (s.loadNat x (a + 4) 4), scales := s.loadNat x (a + 8) 8,
    map := s.loadNat x (a + 16) 8, amax := BitVec.ofNat 32 (s.loadNat x (a + 24) 4),
    last := s.loadNat x (a + 28) 4 }

/-- A positive finite normal FP32 value. -/
def posNormal (t : F32) : Bool := !t.msb && decide (0x00800000 ≤ t.toNat) && decide (t.toNat < 0x7F800000)

/-- A positive finite power of two in FP32. -/
def posPow2 (t : F32) : Bool :=
  let m := t.toNat % 2 ^ 23
  !t.msb && decide (t.toNat < 0x7F800000) && decide (t ≠ 0) &&
    (if t.toNat / 2 ^ 23 = 0 then decide (m = 2 ^ Nat.log2 m) else decide (m = 0))

/-- The checks of 03 R32 on a header at an address. -/
def Hdr.ok (h : Hdr) (a : Nat) : Bool :=
  decide (a % 64 = 0) && decide (h.scales % 64 = 0) && decide (h.map % 8 = 0)
    && decide (h.scales < 2 ^ 48) && decide (h.map < 2 ^ 48)
    && isNarrow h.fmt && decide (h.policy ≠ 3) && decide (h.reserved = 0) && decide (h.last = 0)
    && (decide (h.layer < 1024) || decide (h.layer = 0xFFFF))
    && !(h.rotated && decide (h.layer = 0xFFFF))
    && (decide (h.policy ≠ 1) || posNormal h.tscale) && (decide (h.policy ≠ 2) || posPow2 h.tscale)

/-- The tensor scale a header applies (03 R33). -/
def Hdr.t (h : Hdr) : F32 := if h.policy = 0 then 0x3F800000 else h.tscale

/-- Stored elements in a row of `k` elements: whole blocks, and whole segments of 128 where rotated (03 R31, R44). -/
def rowElems (k blockLen : Nat) (rotated : Bool) : Nat :=
  let u := if rotated then 128 else blockLen
  (k + u - 1) / u * u

/-- The element codes of block `blk`. -/
def State.blockCodes (s : State) (x a : Nat) (h : Hdr) (blk : Nat) : List Nat :=
  let w := fmtBits h.fmt
  let n := s.loadNat x (a + 64 + blk * h.step) (h.blockLen * w / 8)
  (List.range h.blockLen).map (fun i => n / 2 ^ (w * i) % 2 ^ w)

/-- The scale byte of block `blk`. -/
def State.blockScale (s : State) (x : Nat) (h : Hdr) (blk : Nat) : Nat := (s.load x (h.scales + blk)).toNat

/-- The value of an element without the tensor scale: q * 2^(b - 127); a block of scale 0xFF is NaN (03 R30). -/
def elemAt (fmt b code : Nat) : Fp :=
  if b = 255 then .nan else (decodeElem fmt code).scale ((b : Int) - 127)

/-- The values of block `blk` under 03 R30, exactly. -/
def State.blockVals (s : State) (x a : Nat) (h : Hdr) (blk : Nat) : List Fp :=
  let b := s.blockScale x h blk
  (s.blockCodes x a h blk).map (fun c => (elemAt h.fmt b c).mul (f32Val h.t))

/-- The sign of element `i` under a seed (03 R45). -/
def rotSign (seed : BitVec 32) (i : Nat) : Bool :=
  let z := seed * 0x9E3779B9#32 + BitVec.ofNat 32 i * 0x85EBCA6B#32
  let z := (z ^^^ (z >>> 16)) * 0x7FEB352D#32
  let z := (z ^^^ (z >>> 15)) * 0x846CA68B#32
  (z ^^^ (z >>> 16)).msb

/-- The parity of the ones of a number below 128. -/
def parity7 (n : Nat) : Bool :=
  ((n.testBit 0 != n.testBit 1) != (n.testBit 2 != n.testBit 3)) != ((n.testBit 4 != n.testBit 5) != n.testBit 6)

/-- H D x over one segment of 128 whose first element has index `i0` (03 R44): exact sums, rounded once. -/
def rotate (seed : BitVec 32) (i0 : Nat) (xs : List Fp) : List Fp :=
  let d := (List.range 128).map (fun i => let v := xs.getD i .zero; if rotSign seed (i0 + i) then v.neg else v)
  (List.range 128).map (fun j =>
    f32Val (Fp.sum (d.mapIdx (fun i v => if parity7 (i &&& j) then v.neg else v))).toF32)

/-- 2^-7 D H y over one segment (03 R46): exact sums, rounded once. -/
def unrotate (seed : BitVec 32) (i0 : Nat) (ys : List Fp) : List Fp :=
  (List.range 128).map (fun j =>
    let v := Fp.sum ((List.range 128).map (fun i => let v := ys.getD i .zero
      if parity7 (i &&& j) then v.neg else v))
    f32Val (((if rotSign seed (i0 + j) then v.neg else v).scale (-7)).toF32))

/-- The seed of a layer (NUM.LAYER_CFG.ROT_SEED). -/
def State.seed (s : State) (layer : Nat) : BitVec 32 := BitVec.ofNat 32 (s.field (Off.numLayerCfg layer) 63 32)

/-- A layer's monitor state. -/
def State.layer (s : State) (n : Nat) : LayerSt := sget {} s.layers n

/-- Flagged block writes of the last `win` steps, the one under way included (03 R41). -/
def LayerSt.flaggedIn (l : LayerSt) (win : Nat) : Nat := if win = 0 then 0 else l.flagged + (l.window.take (win - 1)).sum

/-- The state with a layer's monitor state changed. -/
def State.modLayer (s : State) (n : Nat) (f : LayerSt → LayerSt) : State :=
  { s with layers := smod {} s.layers n f }

/-- Start-up rotated steps that the registers leave a layer (03 Table 3-4). -/
def State.startupCount (s : State) (n : Nat) (l : LayerSt) : Nat :=
  if s.flag (Off.numLayerCfg n) 17 then s.field Off.numRotCtrl 15 0 - l.age else 0

/-- Start-up rotated steps a layer has left: as the last step boundary set them, before any as the registers do (03 R48;
log 43). -/
def State.startupLeft (s : State) (n : Nat) (l : LayerSt) : Nat := l.startLeft.getD (s.startupCount n l)

/-- The mode of a layer is fixed for the step under way (03 R48). -/
def State.fixMode (s : State) (n : Nat) : State :=
  if n < 1024 then s.modLayer n (fun l => { l with startLeft := some (s.startupLeft n l) }) else s

/-- A layer is in rotated mode in the current step (03 R48). -/
def State.rotMode (s : State) (n : Nat) : Bool :=
  decide (n < 1024) && (decide (s.startupLeft n (s.layer n) > 0) || decide ((s.layer n).recovery > 0))

/-- `xs` cut into pieces of `n`. -/
def chunks {α : Type} (n : Nat) : Nat → List α → List (List α)
  | 0, _ => []
  | k + 1, xs => if xs.isEmpty then [] else xs.take n :: chunks n k (xs.drop n)

/-- An element decoded by a DMA engine: the product with a FIXED tensor scale that is not a power of two rounds once to FP32
(04 R71, R390). -/
def decodeFixed (h : Hdr) (v : Fp) : Fp :=
  if h.policy = 1 ∧ !posPow2 h.tscale then f32Val v.toF32 else v

/-- A row of a narrow tensor as a non-product read gives it: decoded, by a DMA engine with its own rounding, and with the
rotation inverted where the header has ROTATED (03 R46). -/
def State.rowVals (s : State) (x a : Nat) (h : Hdr) (row k : Nat) (dma : Bool := false) : List Fp :=
  let re := rowElems k h.blockLen h.rotated
  let bpr := re / h.blockLen
  let vs := ((List.range bpr).map (fun j => s.blockVals x a h (row * bpr + j))).flatten
  let vs := if dma then vs.map (decodeFixed h) else vs
  let vs := if h.rotated then
      ((chunks 128 re vs).mapIdx (fun g ys => unrotate (s.seed h.layer) (128 * g) ys)).flatten
    else vs
  vs.take k

/-! ### Block writes -/

/-- An element rounded to a narrow format with saturation (03 R27): its code, and whether it saturated. -/
def rneSat (fmt : Nat) (v : Fp) : Nat × Bool :=
  match v with
  | .fin s m e =>
    let f := fmtOf fmt
    let (r, q) := roundGrid (f.mbits + 1) (fmtQmin fmt) m e false
    let (mm, me) := fmtMax fmt
    if Fp.lt (.fin false mm me) (.fin false r q) then (encodeGrid fmt s mm me, true)
    else (encodeGrid fmt (s && decide (r ≠ 0)) r q, false)
  | _ => (0, false)

/-- choose_scale of 03 R35 over source values: the scale byte, the quotients and whether one saturated. -/
def chooseScale (xs : List Fp) (t : F32) (fmt bump : Nat) : Nat × List Fp × Bool :=
  if xs.any (·.nonFinite) then (255, xs.map (fun _ => .zero), false)
  else
    let qs := xs.map (fun v => quotientSat v (f32Val t))
    let vs := qs.map (fun q => f32Val q.1)
    let m := vs.foldl Fp.maxAbs .zero
    let sat := qs.any (·.2)
    match m with
    | .fin _ n e =>
      if n = 0 then (0, vs, sat)
      else
        let x := m.log2 - fmtEmax fmt
        let f := fmtOf fmt
        let (r, q) := roundGrid (f.mbits + 1) (-100000) n (e - x) false
        let (mm, me) := fmtMax fmt
        let x := if Fp.lt (.fin false mm me) (.fin false r q) then x + 1 else x
        ((max 0 (min 254 (x + 127 + (bump : Int)))).toNat, vs, sat)
    | _ => (255, vs, sat)

/-- The bit of a block in one half of its overflow map (03 R38). -/
def State.liveBit (s : State) (x : Nat) (h : Hdr) (blk : Nat) : Bool :=
  (s.load x (h.map + blk / 8)).getLsbD (blk % 8)

/-- The tensor whose overflow map is at `map` is known to hold `blocks` blocks (log 39). -/
def State.sizeMap (s : State) (x map blocks : Nat) : State :=
  s.modCtx x (fun c => { c with tops := smod 0 c.tops map (max blocks) })

/-- The state with a block's live overflow bit replaced; the byte's committed value is kept for an abandonment. -/
def State.setLive (s : State) (x : Nat) (h : Hdr) (blk : Nat) (b : Bool) : State :=
  let a := h.map + blk / 8
  let old := s.load x a
  let s := s.modCtx x (fun c => { c with
    mapOld := if c.mapOld.any (·.1 == a) then c.mapOld else (a, old) :: c.mapOld })
  (s.sizeMap x h.map (blk + 1)).stores x a [BitVec.ofNat 8 (setBits old.toNat (blk % 8) (blk % 8) (b2n b))]

/-- The elements and scale byte of a block written as one unit (03 R37). -/
def State.putBlock (s : State) (x a : Nat) (h : Hdr) (blk b : Nat) (codes : List Nat) : State :=
  let w := fmtBits h.fmt
  let n := (codes.take h.blockLen).mapIdx (fun i c => c * 2 ^ (w * i))
  (s.storeNat x (a + 64 + blk * h.step) (h.blockLen * w / 8) n.sum).stores x (h.scales + blk)
    [BitVec.ofNat 8 b]

/-- What a block write leaves on its header's AMAX, its layer's counts and the live bit (03 R33, R39, R41, R53); `counted`
says that it adds a flagged block write. -/
def State.blockDone (s : State) (x a : Nat) (h : Hdr) (blk b : Nat) (vals : List Fp) (counted : Bool) (live : Bool) :
    State :=
  let amax := f32Val (BitVec.ofNat 32 (s.loadNat x (a + 24) 4))
  let s := s.storeNat x (a + 24) 4 ((vals.foldl Fp.maxAbs amax).toF32).toNat
  let s := s.setLive x h blk live
  if h.layer < 1024 then
    let grad := Config.gradientTensor a
    s.modLayer h.layer (fun l => { l with
      flagged := l.flagged + b2n counted
      grads := if grad then sput false l.grads a true else l.grads
      gradBlocks := if grad then smod 0 l.gradBlocks (a + 2 ^ 48 * blk) (max (if b = 0 then 1 else 2)) else l.gradBlocks })
  else s

/-- The first write of a header in a step chooses the tensor scale and starts AMAX; every write sets ROTATED to the form
it writes and, under UNIT, the scale to 1.0 (03 R33, R44). -/
def State.beginWrite (s : State) (x a : Nat) (accum rot : Bool) : State :=
  let h := s.hdr x a
  let first := !h.written
  let s := if first then
      s.modCtx x (fun c => if c.touched.any (·.addr == a) then c
        else { c with touched := ⟨a, h.tscale, h.amax, h.rotated⟩ :: c.touched })
    else s
  let t : F32 :=
    if h.policy = 0 then 0x3F800000
    else if h.policy = 2 ∧ first ∧ !accum then
      match f32Val h.amax with
      | .fin _ m e => if m = 0 then h.tscale else (Fp.fin false 1 (Fp.log2 (.fin false m e))).toF32
      | _ => h.tscale
    else h.tscale
  let s := if first then s.storeNat x (a + 24) 4 0 else s
  let w := setBits (setBits (s.loadNat x a 4) 8 8 (b2n rot)) 9 9 1
  ((s.storeNat x a 4 w).storeNat x (a + 4) 4 t.toNat).fixMode h.layer

/-- A whole-block write of 03 R35: `vals` are the block's source values, padding excluded. -/
def State.writeBlock (s : State) (x a : Nat) (blk : Nat) (vals : List Fp) : State :=
  let h := s.hdr x a
  let (b, qs, sat) := chooseScale vals h.t h.fmt (b2n (s.liveBit x h blk))
  let es := qs.map (fun q => rneSat h.fmt (q.scale (127 - (b : Int))))
  let sat := sat || es.any (·.2)
  (s.putBlock x a h blk b (es.map (·.1))).blockDone x a h blk b vals sat sat

/-- The codes of a block with those of a part from element `i0` replaced, and zero in the padding past `real` (03 R31). -/
def partCodes (old part : List Nat) (i0 real : Nat) : List Nat :=
  old.mapIdx (fun i c => if real ≤ i then 0 else if i0 ≤ i ∧ i < i0 + part.length then part.getD (i - i0) 0 else c)

/-- The largest finite code of a format with a sign: an element whose quotient overflows FP32 saturates (03 R36). -/
def satElem (fmt : Nat) (neg : Bool) : Nat × Bool := (encodeGrid fmt neg (fmtMax fmt).1 (fmtMax fmt).2, true)

/-- An element of a part, at the block's scale byte (03 R36). -/
def partElem (fmt b : Nat) (v t : Fp) : Nat × Bool :=
  let (u, sat) := quotientSat v t
  if sat then satElem fmt u.msb else rneSat fmt ((f32Val u).scale (127 - (b : Int)))

/-- A part of a block written by a drain in parts, at element `i0` of the block, of whose elements `real` are not padding
(03 R36). A part of an empty group that is the first gives scale 0x00 (05 R86; log 40). The parts of a block count once as a
flagged write (R36, R41). -/
def State.writePart (s : State) (x a : Nat) (blk i0 real : Nat) (vals : List Fp) (empty : Bool) : State :=
  let h := s.hdr x a
  let live := s.liveBit x h blk
  let c := (chooseScale vals h.t h.fmt 0).1
  let old := s.blockScale x h blk
  let b := if c = 255 then 255 else if i0 = 0 then (if empty then 0 else min 254 (c + 1 + b2n live)) else old
  let es := if b = 255 then vals.map (fun _ => (0, false)) else vals.map (fun v => partElem h.fmt b v (f32Val h.t))
  let sat := es.any (·.2)
  let codes := if b = 255 then List.replicate h.blockLen 0
    else partCodes (s.blockCodes x a h blk) (es.map (·.1)) i0 real
  (s.putBlock x a h blk b codes).blockDone x a h blk b vals (sat && (decide (i0 = 0) || !live))
    (if i0 = 0 then sat else live || sat)

/-- A part of a frozen row: zeros, and scale 0x00 (04 R75; log 40). -/
def State.zeroPart (s : State) (x a : Nat) (blk i0 real n : Nat) : State :=
  let h := s.hdr x a
  let codes := partCodes (s.blockCodes x a h blk) (List.replicate n 0) i0 real
  (s.putBlock x a h blk 0 codes).blockDone x a h blk 0 (List.replicate n .zero) false
    (decide (i0 ≠ 0) && s.liveBit x h blk)

/-- An accumulate-write into a block of a tensor with header `h` at `a`: `adds` holds a contribution for some of its elements, and `real` counts the
elements that are not padding (03 R36). The raised scale is held to 254, R36's clamp for drains in parts (log 40). -/
def State.accumBlock (s : State) (x a : Nat) (h : Hdr) (blk real : Nat) (adds : List (Option Fp)) : State :=
  let bump := s.liveBit x h blk
  let old := s.blockScale x h blk
  let codes := s.blockCodes x a h blk
  let bad := decide (old = 255) || (codes.take real).any (fun c => (decodeElem h.fmt c).nonFinite)
    || adds.any (fun v => match v with
      | some v => v.nonFinite
      | none => false)
  if bad then
    (s.putBlock x a h blk 255 (List.replicate h.blockLen 0)).blockDone x a h blk 255 [.nan] false false
  else
    let b := min 254 (old + b2n bump)
    let es := codes.mapIdx (fun i c =>
      -- existing elements are first re-rounded to a raised scale
      let e := if b = old then (c, false) else rneSat h.fmt ((decodeElem h.fmt c).scale ((old : Int) - b))
      match adds.getD i none with
      | none => e
      | some v =>
        let (q, qs) := quotientSat v (f32Val h.t)
        let r := rneSat h.fmt ((decodeElem h.fmt e.1).add ((f32Val q).scale (127 - (b : Int))))
        if qs then satElem h.fmt q.msb else (r.1, r.2 || e.2))
    let sat := es.any (·.2)
    let vals := (es.take real).map (fun e => f32Val (((elemAt h.fmt b e.1).mul (f32Val h.t)).toF32))
    (s.putBlock x a h blk b (es.map (·.1))).blockDone x a h blk b vals sat sat

/-- Whole-block writes of consecutive blocks. -/
def State.writeBlocks (s : State) (x a : Nat) (blk : Nat) : List (List Fp) → State
  | [] => s
  | v :: vs => (s.writeBlock x a blk v).writeBlocks x a (blk + 1) vs

/-- A whole row of a narrow tensor written under 03 R35, rotated where the layer is (R44). -/
def State.writeRow (s : State) (x a : Nat) (row : Nat) (vals : List Fp) : State :=
  let h := s.hdr x a
  let rot := s.rotMode h.layer
  let re := rowElems vals.length h.blockLen rot
  let vals := if rot then
      ((chunks 128 (re + 1) vals).mapIdx (fun g v => rotate (s.seed h.layer) (128 * g) v)).flatten
    else vals
  s.writeBlocks x a (row * (re / h.blockLen)) (chunks h.blockLen (re + 1) vals)

/-- Rows of a narrow tensor written from row `row` on. -/
def State.writeRows (s : State) (x a : Nat) (row : Nat) : List (List Fp) → State
  | [] => s
  | v :: vs => (s.writeRow x a row v).writeRows x a (row + 1) vs

/-- Bytes of the element array of a tensor of `rows` rows of `re` stored elements. -/
def Hdr.elemBytes (h : Hdr) (rows re : Nat) : Nat := rows * re * fmtBits h.fmt / 8

/-- The context may reach a narrow tensor's header, elements, scales and map (06 R107). -/
def State.tensorOk (s : State) (x a : Nat) (h : Hdr) (rows re : Nat) : Bool :=
  let blocks := rows * re / h.blockLen
  s.mayAccess x a (64 + h.elemBytes rows re) && s.mayAccess x h.scales blocks
    && s.mayAccess x h.map (2 * ((blocks + 63) / 64 * 8))

/-- What a write of a narrow tensor reads of it: the header and the overflow map (03 R33, R39). -/
def Hdr.ownReads (h : Hdr) (a rows re : Nat) : List (Nat × Nat) :=
  [(a, 64), (h.map, 2 * ((rows * re / h.blockLen + 63) / 64 * 8))]

/-- Raw arrays: element `i` of a BF16 or FP32 array at `a`. -/
def State.rawElem (s : State) (x a fmt i : Nat) : Fp :=
  if fmt = 5 then decodeElem 5 (s.loadNat x (a + 2 * i) 2) else decodeElem 6 (s.loadNat x (a + 4 * i) 4)

/-- The bytes of an FP32 result in BF16 or FP32 (03 R28). -/
def rawBytes (fmt : Nat) (v : F32) : List Byte :=
  if fmt = 5 then natLe (bf16OfF32 v).toNat 2 else natLe v.toNat 4

end Sys2Proof.Machine
end

