-- ==== Sys2Proof/Machine/Faults.lean ====
section
/-! DEFINITION. What an uncorrectable word or access does (06 R112, R115, 07 R137), and the checks that share it. -/

namespace Sys2Proof.Machine

/-- The pseudo-channel of a stack offset (07 R120). -/
def pchOf (off : Nat) : Nat := bits off 12 8

/-- The report of an uncorrectable stack access (07 R137 step 2): counted, copied to MEM.ERR_ADDR, logged with its
requester, and sent on the towpath. -/
def State.reportStack (s : State) (a requester step : Nat) : State :=
  let n := a / 0x800000000
  let e := Off.memErrAddr n
  let s := s.countField (Off.memErrStat n) 62 48 1
  let s := if s.flag e 63 then s.setFlag e 62 true
    else s.setReg e (2 ^ 63 + (s.reg e / 2 ^ 62 % 2) * 2 ^ 62 + pchOf a * 2 ^ 57 + a / 32 * 32)
  s.note 4 true 0x20 0x0101 [a / 32 * 32, step, pchOf a, requester] none 0 n

/-- The DRAM row of a stack address, one of its stack and pseudo-channel, and the bank of its row (07 R120; log 12). -/
def rowKey (a : Nat) : Nat := 1024 * Config.rowOf (a / 256) + 32 * (a / 0x800000000) + pchOf a
def bankKey (a : Nat) : Nat := 1024 * Config.bankOf (Config.rowOf (a / 256)) + 32 * (a / 0x800000000) + pchOf a

/-- The row of an uncorrectable access is to be repaired at the step boundary (07 R137 step 3). -/
def State.wantRepair (s : State) (a step : Nat) : State :=
  s.modStk (a / 0x800000000) (fun k => if k.repairs.any (fun r => r.1 == a / 32 * 32) then k
    else { k with repairs := k.repairs ++ [(a / 32 * 32, step)] })

/-- The comb line of an uncorrectable word is to be spared at the step boundary (06 R115). -/
def State.wantSpareLine (s : State) (a : Nat) : State :=
  let c := (a - 0x10000000000) / 0x40000000
  { s with combs := smod {} s.combs c (fun k => if a / 64 * 64 ∈ k.due then k else { k with due := k.due ++ [a / 64 * 64] }) }

/-- Spare lines that a comb bank has left, after those its due lines will take (06 R115); bits [13:8] of the comb offset
select the bank (R113). -/
def State.spareLines (s : State) (a : Nat) : Nat :=
  let k := sget ({} : CombSt) s.combs ((a - 0x10000000000) / 0x40000000)
  let bank := fun (a : Nat) => bits a 13 8
  256 - sget 0 k.used (bank a) - (k.due.filter (fun d => bank d == bank a)).length

/-- The other rows of a stack address's bank that wait for a repair. -/
def StackSt.rowsDue (k : StackSt) (a : Nat) : Nat :=
  (((k.repairs.map (·.1)).filter (fun r => bankKey r == bankKey a && rowKey r != rowKey a)).map rowKey).eraseDups.length

/-- The bank of a stack address has a post-package repair left, beside those that its rows already wait for (07 R139). -/
def State.rowSpare (s : State) (a : Nat) : Bool :=
  let k := s.stk (a / 0x800000000)
  decide (sget 0 k.repairsUsed (bankKey a) + k.rowsDue a < Config.bankRepairs (bankKey a) + 1)

/-- Takeover is asked for on account of stacks with two failed lanes in a pseudo-channel, now that a step has ended
(07 R134). -/
def State.askWanted (s : State) : State :=
  (s.stks.filter (fun e => e.2.wantTakeover)).foldl (fun s e =>
    (s.modStk e.1 (fun k => { k with wantTakeover := false })).takeoverReq 0x32 e.1) s

/-- A context is at a step boundary: no step of it is open, or the one that failed has been abandoned and restored (12 R253). -/
def State.betweenSteps (s : State) (x : Nat) : Bool :=
  let c := s.ctx x
  !s.stepOpen x || ((c.replayReady || c.drain.isSome) && c.fault.isNone && c.abandon.isNone)

/-- A ring DMA of a context waits for a repair, with nothing else of its step at work (07 R137). -/
def CtxSt.waitsRepair (c : CtxSt) : Bool :=
  c.badDma.isSome && c.runs.isEmpty && c.sweep.isNone && c.fault.isNone && c.abandon.isNone

/-- A step boundary, at which a repair may be made: every context stands at one, or waits for the repair itself (06 R115, 07 R133,
R137). -/
def State.stepBoundary (s : State) : Bool := s.ctxs.all (fun e => s.betweenSteps e.1 || e.2.waitsRepair)

/-- The unit that a takeover request names for a stored address: the stack, or the sector of the comb die (log 46). -/
def unitOfAddr (a : Nat) : Nat := if a < 0x10000000000 then a / 0x800000000 else (a - 0x10000000000) / 0x40000000

/-- The line of a stored address: a 32-byte access of a stack, a 64-byte line of a comb die. -/
def lineOf (a : Nat) : Nat := if a < 0x10000000000 then a / 32 * 32 else a / 64 * 64

/-- A step that reads an uncorrectable line is replayed; a replay that reads one that an earlier attempt met, or a bank without a
spare line or repair, fails it, and takeover is asked for (06 R115, 07 R137). -/
def State.lineFault (s : State) (x a : Nat) (spare : Bool := true) : State :=
  let c := s.ctx x
  if spare && !c.badLines.any (fun l => l.1 == lineOf a && decide (l.2 < c.attempt)) then
    (s.modCtx x (fun c => { c with badLines := (lineOf a, c.attempt) :: c.badLines })).stepFault x .replay 0x30
  else (s.stepFault x .fail 0x32).takeoverReq 0x32 (unitOfAddr a)

/-- A die's self-test is abandoned: its code is Aborted and the spare is free (09 R190). -/
def State.abortDieTest (s : State) (d : Nat) : State :=
  if sget false s.hive.spareHeld d then
    { s with hive := { s.hive with
        spareHeld := sput false s.hive.spareHeld d false
        test := s.hive.test.map (fun t => { t with codes := sput 0 t.codes d 4 }) } }
  else s

/-- The steps under way of the contexts that own a logical hive are to be replayed (01 R14, 06 R112, 09 R165): a failure
between two runs of a step loses what the store held. A sweep in progress is not affected (08 Table 8-5). -/
def State.faultOwners (s : State) (l : Nat) : State :=
  ((List.range 64).filter (fun x => s.ctxEnabled x && s.ownsHive x l && s.stepOpen x
      && ((s.ctx x).sweep.isNone || !(s.ctx x).runs.isEmpty))).foldl
    (fun s x => s.stepFault x .replay 0x30) s

/-- A slot is out of use, and its die's self-test is abandoned. -/
def State.slotDown (s : State) (p : Nat) : State :=
  State.abortDieTest { s with hive := { s.hive with failed := sput false s.hive.failed p true } } (p / 5)

/-- A die that lost a hive's slot and has no spare, nor one in a move, runs its four hives in turn on three slots, and takeover is
asked for; no word of the failed slot is read any more (01 R16; log 32). -/
def State.onThree (s : State) (p : Nat) : State :=
  let d := p / 5
  let inSlot := fun (a : Nat) => decide (0x11000000000 + p * 0x2000000 ≤ a ∧ a < 0x11000000000 + (p + 1) * 0x2000000)
  if (s.spareSlot d).isSome || s.dieMoving d || sget false s.hive.three d then s
  else { s with hive := { s.hive with three := sput false s.hive.three d true }
                mem := { s.mem with bad := s.mem.bad.filter (fun e => !inSlot e.1) } }.takeoverReq 0x31 p

/-- A physical hive fails as a unit (06 R112): its slot is failed, and the step of the context that holds it is to be
replayed on the die's spare. -/
def State.hiveFail (s : State) (p : Nat) : State :=
  if s.slotFailed p then s
  else
    match s.hiveIn p with
    | none => s.slotDown p
    | some l => ((s.slotDown p).faultOwners l).onThree p

/-- A unit of a context meets an uncorrectable unit at a stored address: the step that reads it does not commit. -/
def State.uncorrectable (s : State) (x a requester : Nat) : State :=
  if a < 0x10000000000 then
    let step := (s.ctx x).step + 1
    ((s.reportStack a requester step).wantRepair a step).lineFault x a (s.rowSpare a)
  else if a < 0x10400000000 then
    let k := sget ({} : CombSt) s.combs ((a - 0x10000000000) / 0x40000000)
    (s.wantSpareLine a).lineFault x a (decide (0 < s.spareLines a) || decide (a / 64 * 64 ∈ k.due))
  else (s.hiveFail ((a - 0x11000000000) / 0x2000000)).stepFault x .replay 0x30

/-! ### What accesses are charged to (07 R121, R122) -/

/-- The partition that an offset is charged to; one outside every partition is partition 0's. -/
def StackSt.partitionOf (k : StackSt) (off : Nat) : Nat :=
  ((List.range 8).find? (fun i =>
    let (b, z) := k.parts.getD i (0, 0)
    decide (z ≠ 0 ∧ b * 0x10000000 ≤ off ∧ off < (b + z) * 0x10000000))).getD 0

/-- Accesses to 256 bytes of a stack: the bus time they take with the row activation and the turnaround they cause (07 R122; log
12). -/
def StackSt.touch (k : StackSt) (a m : Nat) (w : Bool) : Nat × StackSt :=
  let opens := sget none k.openRows (bankKey a) != some (rowKey a)
  let turns := sget false k.writing (pchOf a) != w
  (m + (if opens then Config.activationTime else 0) + (if turns then Config.turnaroundTime else 0),
    { k with openRows := sput none k.openRows (bankKey a) (some (rowKey a)), writing := sput false k.writing (pchOf a) w })

/-- The pieces of an extent that lie each in one aligned 256 bytes: address and 32-byte accesses. -/
def rowPieces (a n : Nat) : List (Nat × Nat) :=
  (List.range ((a % 256 + n + 255) / 256)).map (fun i =>
    let lo := max a (a / 256 * 256 + 256 * i)
    (lo, (min (a + n) (a / 256 * 256 + 256 * (i + 1)) + 31) / 32 - lo / 32))

/-- The accesses of an extent, charged to the partitions that hold them. -/
def StackSt.charge (k : StackSt) (a n : Nat) (w : Bool) : StackSt :=
  (rowPieces a n).foldl (fun k e =>
    let (t, k) := k.touch e.1 e.2 w
    let p := k.partitionOf (e.1 % 0x800000000)
    { k with charged := smod 0 k.charged p (· + t), served := p, waits := k.waits.filter (fun q => decide (q ≠ p))
             asked := k.asked.filter (fun q => decide (q ≠ p)) }) k

/-- The admitted fraction of a stack's time in 128ths: the smaller of its throttle step's and the power cap's (07 R131). -/
def State.admitted (s : State) (n : Nat) : Nat :=
  let step := [128, 96, 64, 32, 16].getD (s.field (Off.memTherm n) 2 0) 16
  min step (8 * s.field Off.pwrLimitStat 20 16)

/-- 32-byte accesses of a stack's data bus in a window of 64 frames at 1,228.8 GB/s. -/
def windowAccesses : Nat := 62914

/-- Admitted time of a stack's window: after throttling, less refresh and scrub (07 R122, R131). -/
def State.windowTime (s : State) (n : Nat) : Nat := windowAccesses * s.admitted n / 128 - (s.stk n).taken

/-- The minimum and the maximum share of a partition in a window, and what of the minimum is not yet charged. -/
def StackSt.minTime (k : StackSt) (time p : Nat) : Nat := (k.shares.getD p (0, 64)).1 * time / 64
def StackSt.maxTime (k : StackSt) (time p : Nat) : Nat := (k.shares.getD p (0, 64)).2 * time / 64
def StackSt.minLeft (k : StackSt) (time p : Nat) : Nat := k.minTime time p - sget 0 k.charged p

/-- One more access leaves a partition within its maximum. -/
def StackSt.belowMax (k : StackSt) (time p : Nat) : Bool := decide (sget 0 k.charged p < k.maxTime time p)

/-- A partition's place in the rotation, which starts after the one served last. -/
def StackSt.turn (k : StackSt) (p : Nat) : Nat := (p + 7 - k.served) % 8

/-- The sluice of an offset's partition admits another access in this window: within its minimum share; or below its maximum, in
time that no waiting partition's minimum claims, in the rotation's turn (07 R122). -/
def State.sluiceOpen (s : State) (n off : Nat) : Bool :=
  let k := s.stk n
  let p := k.partitionOf off
  let time := s.windowTime n
  let used := (k.charged.map (·.2)).sum
  let others := k.waits.filter (fun q => decide (q ≠ p))
  let kept := (others.map (k.minLeft time)).sum
  let first := (others.filter (k.belowMax time)).all (fun q => decide (k.turn p < k.turn q))
  decide (used < time) && k.belowMax time p && (decide (0 < k.minLeft time p) || (decide (used + kept < time) && first))

/-- The stack offsets of an extent that name each partition it meets: its first byte, and those at multiples of 256 MiB. -/
def partPoints (a n : Nat) : List Nat :=
  (List.range ((a % 0x10000000 + n + 0xFFFFFFF) / 0x10000000)).map (fun i => max a (a / 0x10000000 * 0x10000000 + 0x10000000 * i))

/-- The extents' accesses to stacks, by an address in each partition they meet. -/
def sluicePoints (es : List (Nat × Nat)) : List Nat :=
  es.flatMap (fun e => if e.1 < 0x10000000000 ∧ e.2 ≠ 0 then partPoints e.1 (min e.2 0x800000000) else [])

/-- Every sluice that the extents of an operation pass is open (07 R122; log 33). -/
def State.sluicesOpen (s : State) (es : List (Nat × Nat)) : Bool :=
  (sluicePoints es).all (fun a => s.sluiceOpen (a / 0x800000000) (a % 0x800000000))

/-- An access waits for its sluice. -/
def State.waitsFor (s : State) (n off : Nat) : State :=
  s.modStk n (fun k =>
    let p := k.partitionOf off
    { k with waits := if k.waits.contains p then k.waits else k.waits ++ [p]
             asked := if k.asked.contains p then k.asked else k.asked ++ [p] })

/-- An operation waits for the sluices of its extents that are shut. -/
def State.waitsAll (s : State) (es : List (Nat × Nat)) : State :=
  ((sluicePoints es).filter (fun a => !s.sluiceOpen (a / 0x800000000) (a % 0x800000000))).foldl
    (fun s a => s.waitsFor (a / 0x800000000) (a % 0x800000000)) s

/-- Accesses of a unit to device memory, reads or writes: those to stacks are charged. -/
def State.chargeAll (s : State) (es : List (Nat × Nat)) (w : Bool := false) : State :=
  es.foldl (fun s e => if e.1 < 0x10000000000 ∧ e.2 ≠ 0 then s.modStk (e.1 / 0x800000000) (fun k => k.charge e.1 e.2 w) else s) s

/-- The first uncorrectable unit that reads of extents meet. -/
def State.badAmong (s : State) (es : List (Nat × Nat)) : Option Nat := es.findSome? (fun e => s.badIn e.1 e.2)

/-- An instruction or transfer fails with a status, or leaves a state. -/
abbrev Res := Except Nat State

/-- OK, BAD_DESCRIPTOR, BAD_ADDRESS and the other status codes (13, 14). -/
def stOk : Nat := 0x00
def stDeferred : Nat := 0x01
def stSuspended : Nat := 0x02
def stCancelled : Nat := 0x03
def stBadDescriptor : Nat := 0x10
def stBadAddress : Nat := 0x11
def stNoResource : Nat := 0x12
def stBadContext : Nat := 0x13
def stNonfiniteNorm : Nat := 0x20
def stNormLimit : Nat := 0x21
def stStillWater : Nat := 0x22
def stStepReplayed : Nat := 0x30
def stUnitRemapped : Nat := 0x31
def stStepFailed : Nat := 0x32
def stAborted : Nat := 0x40
def stBusy : Nat := 0x41
def stVersionMismatch : Nat := 0x50
def stAuthFail : Nat := 0x60
def stInternal : Nat := 0x7F

end Sys2Proof.Machine
end

