-- ==== Sys2Proof/Machine/Port.lean ====
section
/-! DEFINITION. Link and canal ports: codes, tables, barges and the buffer in force (11 R220-R229, R239). -/

namespace Sys2Proof.Machine

/-- A port. -/
def State.port (s : State) (p : Nat) : PortSt := sget {} s.lnk.ports p

/-- The state with a port changed. -/
def State.modPort (s : State) (p : Nat) (f : PortSt → PortSt) : State :=
  { s with lnk := { s.lnk with ports := smod {} s.lnk.ports p f } }

/-- A port code is a canal port's. -/
def isCanal (p : Nat) : Bool := decide (0x40 ≤ p)

/-- The sector of a port code (R211, R239). -/
def sectorOf (p : Nat) : Nat := if isCanal p then (p - 0x40) / 4 else p

/-- The canal port at the other end of a canal port's edge, if the edge exists (R239). -/
def edgeEnd (p : Nat) : Option Nat :=
  let c := p - 0x40
  let n := c / 4
  if c % 4 = 0 ∧ n % 4 < 3 then some (0x40 + 4 * (n + 1) + 2)
  else if c % 4 = 1 ∧ n / 4 < 3 then some (0x40 + 4 * (n + 4) + 3)
  else if c % 4 = 2 ∧ 0 < n % 4 then some (0x40 + 4 * (n - 1))
  else if c % 4 = 3 ∧ 0 < n / 4 then some (0x40 + 4 * (n - 4) + 1)
  else none

/-- A port code that names a port (Table 11-4, R239). -/
def portExists (p : Nat) : Bool :=
  decide (p < 16) || (decide (0x40 ≤ p ∧ p < 0x80) && (edgeEnd p).isSome)

/-- Every port code. -/
def portCodes : List Nat := List.range 16 ++ (List.range 64).map (0x40 + ·)

/-- Bytes of a flit of a barge: a canal slot is a group of eight (R239). -/
def flitBytes (p : Nat) : Nat := if isCanal p then 1024 else 128

/-! ### The canal mesh (01 R7-R9, R12; 11 R232, R239, R240) -/

/-- The edge of a canal port exists and is not lost. -/
def State.edgeOpen (s : State) (c : Nat) : Bool := (edgeEnd c).any (fun e => !(s.port c).lost && !(s.port e).lost)

/-- The sectors within `n` hops of a sector over the open edges, nearest first. -/
def State.near (s : State) (b : Nat) : Nat → List Nat
  | 0 => [b]
  | n + 1 =>
    let near := s.near b n
    near ++ (List.range 16).filter (fun a => !near.contains a && (List.range 4).any (fun d =>
      s.edgeOpen (0x40 + 4 * a + d) && (edgeEnd (0x40 + 4 * a + d)).any (fun e => near.contains (sectorOf e))))

/-- The canal joins two sectors. -/
def State.joins (s : State) (a b : Nat) : Bool := decide (a = b) || (s.near b 15).contains a

/-- The canal port by which traffic leaves a sector toward another: on a shortest route over the open edges, along x first, as
in 11 Table 11-10; when an edge is lost, round it (11 R240; DEDUCED, log 44). -/
def State.canalHop (s : State) (a b : Nat) : Option Nat :=
  match (List.range 16).find? (fun n => (s.near b n).contains a) with
  | some (n + 1) => ([0, 2, 1, 3].map (fun d => 0x40 + 4 * a + d)).find? (fun c =>
      s.edgeOpen c && (edgeEnd c).any (fun e => (s.near b n).contains (sectorOf e)))
  | _ => none

/-- The sector in which a device address lies: host traffic enters and leaves the canal at sector 0 (01 R7, R9). -/
def sectorAt (a : Nat) : Nat :=
  match placeOf a with
  | .stack n _ => n / 2
  | .comb n _ => n
  | .slot p _ => p / 20
  | .hive l _ => l / 16
  | .host _ => 0
  | .unpopulated => 0

/-- The sector of a logical hive. -/
def sectorOfHive (l : Nat) : Nat := l / 16

/-- What lies outside a sector is reached through the canal alone: every address of a list can be reached from it. -/
def State.reachesAll (s : State) (a : Nat) (as : List Nat) : Bool := as.all (fun b => s.joins a (sectorAt b))

/-- The sector of the home of a counter or barrier slot (10 R192, R204). -/
def sectorOfObject (barrier : Bool) (o : Nat) : Nat :=
  if !barrier then o / 4096 else if o < 4096 then o / 256 else if o < 4352 then (o - 4096) / 16 else 0

/-- What is sent from a sector to an object of this module waits: its hive moves, or the canal does not join the two (10 R200,
01 R7). -/
def State.homeAway (s : State) (sector : Nat) (barrier : Bool) (o : Nat) : Bool :=
  s.homeMoving barrier o || !s.joins sector (sectorOfObject barrier o)

/-- The port carries traffic. -/
def PortSt.up (t : PortSt) : Bool := t.state == 3 || t.state == 5

/-- The port enters UP: 256 flits of credit in each class, nothing under way (Table 11-3, R231). -/
def PortSt.enterUp (t : PortSt) : PortSt :=
  { t with state := 3, badRun := 0, credit := [(0, 256), (1, 256), (2, 256), (3, 256), (4, 256)], returns := []
           sent := none, got := none, inPart := [], outSent := [], outRest := [] }

/-- A table buffer. -/
def PortSt.table (t : PortSt) (buf : Nat) : LockTable := if buf = 0 then t.table0 else t.table1

/-- The port with a table buffer replaced. -/
def PortSt.setTable (t : PortSt) (buf : Nat) (l : LockTable) : PortSt :=
  if buf = 0 then { t with table0 := l } else { t with table1 := l }

/-- The buffer in force for a frame, by its number (R229). -/
def PortSt.bufFor (t : PortSt) (frame : Nat) : Nat := if frame < t.since then 1 - t.active else t.active

/-- The barge that a buffer's transmit or receive field names. -/
def LockTable.txAt (l : LockTable) (frame slot : Nat) : Option Nat := sget none l.tx (40 * (frame % 1024) + slot)
def LockTable.rxAt (l : LockTable) (frame slot : Nat) : Option Nat := sget none l.rx (40 * (frame % 1024) + slot)

/-- A barge continues the same one of the other buffer (R229). -/
def PortSt.continues (t : PortSt) (buf i : Nat) : Bool :=
  match (t.table buf).barges[i]?, (t.table (1 - buf)).barges[i]? with
  | some b, some o => b.cont && b.kind == o.kind && b.addr == o.addr && b.length == o.length && b.counter == o.counter
  | _, _ => false

/-- The key under which a buffer's barge keeps its state: with a continued barge, the buffer in force. -/
def PortSt.key (t : PortSt) (buf i : Nat) : Nat :=
  4096 * (if t.continues t.active i then t.active else buf) + i

/-- The descriptor and the state at a key. -/
def PortSt.desc (t : PortSt) (key : Nat) : Option Barge := (t.table (key / 4096)).barges[key % 4096]?
def PortSt.barge (t : PortSt) (key : Nat) : BargeSt := sget {} t.barges key

/-- The port with a barge's state changed. -/
def PortSt.modBarge (t : PortSt) (key : Nat) (f : BargeSt → BargeSt) : PortSt := { t with barges := smod {} t.barges key f }

/-- A barge SEND with MSG that leads to a module, by its index. -/
def PortSt.msgBarge (t : PortSt) (dest : Nat) : Option (Nat × Barge) :=
  let bs := (t.table t.active).barges
  (List.range bs.length).findSome? (fun i => (bs[i]?).bind (fun b =>
    if b.kind = 1 ∧ b.msg ∧ b.dest = dest then some (i, b) else none))

/-- The barge states of a context are those of a new step; after an abandoned one nothing is expected or held
(DEDUCED from 10 R194: the counts that barges compare are those of the step). -/
def State.restartBarges (s : State) (x : Nat) (abandoned : Bool) : State :=
  let again := fun (t : PortSt) (key : Nat) (b : BargeSt) =>
    if !(t.desc key).any (fun d => d.ctx == x) then b
    else if abandoned then {} else { b with n := 0, cut := false }
  { s with lnk := { s.lnk with ports := smapAll {} s.lnk.ports (fun _ t => { t with barges := smapAll {} t.barges (again t) }) } }

end Sys2Proof.Machine
end

