-- ==== Sys2Proof/Machine/Counts.lean ====
section
/-! DEFINITION. Counters, barrier slots, watches and synchronisation messages (10 R192-R210, 11 R233). -/

namespace Sys2Proof.Machine

/-! ### Translation (10 R196) -/

/-- A SYN.XLATE entry. -/
structure Xl where
  valid : Bool
  kind : Nat
  dirty : Bool
  pending : Bool
  hold : Bool
  remote : Bool
  gen : BitVec 8
  module : Nat
  object : Nat
deriving DecidableEq, Repr

/-- The entry that a word holds. -/
def xlOf (v : Nat) : Xl :=
  { valid := v.testBit 63, kind := bits v 62 61, dirty := v.testBit 60, pending := v.testBit 59, hold := v.testBit 57,
    remote := v.testBit 56, gen := BitVec.ofNat 8 (bits v 55 48), module := bits v 29 16, object := bits v 15 0 }

/-- A context's entry for an identifier. -/
def State.xl (s : State) (x i : Nat) : Xl := xlOf (s.reg (Off.synXlate x i))

/-- The entry is in use, and its object exists if it is on this module. -/
def Xl.usable (e : Xl) : Bool :=
  e.valid && decide (e.kind ≤ 1) && (e.remote || e.kind == 0 || decide (e.object < 4368))

/-- This module's number. -/
def State.moduleNo (s : State) : Nat := s.field Off.lnkNodeCfg 29 16

/-! ### Counters -/

/-- A counter. -/
def State.counter (s : State) (p : Nat) : Counter := sget {} s.sync.counters p

/-- The state with a counter replaced. -/
def State.setCounter (s : State) (p : Nat) (c : Counter) : State :=
  { s with sync := { s.sync with counters := sput {} s.sync.counters p c } }

/-- A counter's step count (10 R194). -/
def State.stepCount (s : State) (p : Nat) : Nat := (s.counter p).value - (s.counter p).committed

/-! ### Barrier slots -/

/-- A barrier slot. -/
def State.bar (s : State) (n : Nat) : Barrier := sget {} s.sync.barriers n

/-- The state with a barrier slot replaced. -/
def State.setBar (s : State) (n : Nat) (b : Barrier) : State :=
  { s with sync := { s.sync with barriers := sput {} s.sync.barriers n b } }

/-- Participants of a slot in use (SYN.BAR_CFG.PARTS). -/
def State.barParts (s : State) (n : Nat) : Nat := s.field (Off.synBarCfg n) 54 48

/-- A participant entry (10 R204). -/
inductive Part where
  | queue (h q : Nat)
  | host (x : Nat)
  | child (n : Nat)
  | remote (m n : Nat)
deriving DecidableEq, Repr

/-- The participant that a word of SYN.BAR_PART names. -/
def partOf (v : Nat) : Part :=
  match bits v 31 30 with
  | 0 => .queue (bits v 7 0) (bits v 10 8)
  | 1 => .host (bits v 5 0)
  | 2 => .child (bits v 12 0)
  | _ => .remote (bits v 27 14) (bits v 12 0)

/-- Participant `j` of a slot. -/
def State.part (s : State) (n j : Nat) : Part := partOf (s.reg (Off.synBarPart n j))

/-- The index of a participant among those in use. -/
def State.partIndex (s : State) (n : Nat) (p : Part) : Option Nat :=
  (List.range (s.barParts n)).find? (fun j => decide (s.part n j = p))

/-- An arrival count. -/
def Barrier.a (b : Barrier) (p : Nat) : Nat := sget 0 b.arr p

/-- The smallest arrival count over the participants (10 R205). -/
def State.barMin (s : State) (n : Nat) : Nat :=
  match (List.range (s.barParts n)).map (fun j => (s.bar n).a j) with
  | [] => 0
  | v :: r => r.foldl min v

/-- Released rounds since the last commit. -/
def State.released (s : State) (n : Nat) : Nat := (s.bar n).w - (s.bar n).cw

/-- The slot has a parent. -/
def State.hasParent (s : State) (n : Nat) : Bool := s.flag (Off.synBarCfg n) 16

/-! ### Messages -/

/-- The barge that carries messages to a module behind the data ready so far, if a table has one (10 R201, 11 R223). -/
def State.msgPath (s : State) (dest : Nat) : Option (Nat × Nat × Nat) :=
  s.lnk.ports.findSome? (fun e => if e.2.up then
      (e.2.msgBarge dest).map (fun (i, b) => (e.1, i, (s.counter b.counter).value - (s.counter b.counter).committed))
    else none)

/-- A synchronisation message leaves for another module. -/
def State.sendSync (s : State) (type : BitVec 4) (gen : BitVec 8) (dest object x value tag : Nat) (sector : Nat := 0) : State :=
  let lc := s.lockCycle % 256
  { s with sync := { s.sync with outbox := s.sync.outbox ++
    [⟨⟨type, 0, gen, BitVec.ofNat 16 object, BitVec.ofNat 14 s.moduleNo, BitVec.ofNat 6 x, BitVec.ofNat 8 lc,
       BitVec.ofNat 48 value, BitVec.ofNat 16 tag⟩, dest, s.msgPath dest, sector⟩] } }

/-- A message fails a check at an object's home: dropped, counted for the owner, and the first in each millisecond
logged with its object, origin and both generations (10 R197). -/
def State.dropMsg (s : State) (owner : Option Nat) (object origin : Nat) (gen home : BitVec 8) : State :=
  let s := match owner with
    | some x => s.countField (Off.synCtxSync x) 15 0 1
    | none => s
  let ms := s.clk.now / 1000000000 + 1
  if s.sync.dropMs = ms then s
  else ({ s with sync := { s.sync with dropMs := ms } }).note 2 false 0x00 0x0301 [object, origin, gen.toNat, home.toNat] owner

/-- The mark in the TAG of a watch, and of its release, that its object is a barrier slot: OBJECT may be either, and Table 11-9
gives no field that says which (10 R196, R202; log 22). -/
def barrierTag : Nat := 0x4000

/-- The count that a wait on an object compares: the step count of a counter, the released count of a slot (10 R194, R196). -/
def State.waitCount (s : State) (barrier : Bool) (o : Nat) : Nat := if barrier then s.released o else s.stepCount o

/-- The watch's target is reached. -/
def State.watchMet (s : State) (w : Watch) : Bool := decide (w.target ≤ s.waitCount w.barrier w.object)

/-- Satisfied remote watches are released with a reply (10 R202). -/
def State.serveWatches (s : State) : State :=
  let t := { s with sync := { s.sync with watches := s.sync.watches.filter (fun w => !s.watchMet w) } }
  (s.sync.watches.filter s.watchMet).foldl (fun t w =>
    t.sendSync 3 w.gen w.origin w.object w.ctx (s.waitCount w.barrier w.object) w.tag
      (sectorOfObject w.barrier w.object)) t

/-- Something is held for an object of a moving hive (10 R200). -/
def State.hold (s : State) (h : HeldMsg) : State := { s with sync := { s.sync with held := s.sync.held ++ [h] } }

/-- The counter would pass 2^48 - 1 (10 R193). -/
def State.counterFull (s : State) (p inc : Nat) : Bool := decide (2 ^ 48 ≤ (s.counter p).value + inc)

/-- B of the channel that a fill counter declares (10 R203). -/
def State.channel (s : State) (p : Nat) : Option Nat :=
  if p % 2 = 0 ∧ s.flag (Off.synCntCfg p) 16 then some (s.field (Off.synCntCfg p) 15 0 + 1) else none

/-- The increment would put the fill counter of a channel more than B ahead (10 R203). -/
def State.overrun (s : State) (p inc : Nat) : Bool :=
  match s.channel p with
  | some b => decide (s.stepCount (p + 1) + b < s.stepCount p + inc)
  | none => false

/-- An accepted increment at a counter's home: refused past 2^48 - 1 or past a channel's lead, and logged; else added
(10 R192, R193, R203). `sender` is the A3 of log entry 0x0304. -/
def State.addCount (s : State) (p inc sender : Nat) : Nat × State :=
  if s.counterFull p inc then (stNoResource, s.note 4 false 0x00 0x0304 [p, inc, s.stepCount p, sender])
  else if s.overrun p inc then
    (stBadDescriptor, s.note 4 false 0x00 0x0305 [p, s.stepCount p, s.stepCount (p + 1), (s.channel p).getD 0])
  else
    (stOk, (s.setCounter p { s.counter p with value := (s.counter p).value + inc }).serveWatches)

/-- The sector a signal comes from: host traffic enters at sector 0 (01 R9). -/
def Sender.sector : Sender → Nat
  | .queue h _ _ => sectorOfHive h
  | .ring _ => 0
  | .barge p => sectorOf p

/-- A3 of log entry 0x0304: hive and queue, 0xFFFFFFFF for a ring, and a free value for a barge's flit (log 29). -/
def State.senderCode (s : State) : Sender → Nat
  | .queue h q _ => h + 256 * q
  | .ring _ => 0xFFFFFFFF
  | .barge _ => s.freeBelow (2 ^ 32)

/-- A signal of a context of this module reaches its counter, or is held for a moving hive or a cut canal (10 R200). -/
def State.addOrHold (s : State) (x p inc : Nat) (sender : Sender) : Nat × State :=
  if s.homeAway sender.sector false p then (stOk, s.hold (.signal x p inc sender))
  else
    let (st, t) := s.addCount p inc (s.senderCode sender)
    (st, match sender with
      | .barge _ => if st = stOk then t else t.drawn
      | _ => t)

/-- The child accepts a release from this parent: the parent's generation and the parent that its SYN.BAR_CFG names
(10 R206). -/
def State.acceptsRelease (s : State) (child m parent : Nat) (gen : BitVec 8) (isRemote : Bool) : Bool :=
  let c := Off.synBarCfg child
  decide (child < 4368) && s.flag c 16 && (s.flag c 17 == isRemote) && decide (s.field c 12 0 = parent)
    && decide (s.field c 47 40 = gen.toNat) && (!isRemote || decide (s.field c 31 18 = m))

/-- W of a slot from its local count and its parent's (10 R205). -/
def State.newW (s : State) (n : Nat) : Nat :=
  let b := s.bar n
  if s.hasParent n then b.cw + min (b.l - b.cl) b.pw else b.l

/-- A slot's released count follows, and goes on to its children (10 R205, R206). -/
def State.settle : Nat → State → Nat → State
  | 0, s, _ => s
  | k + 1, s, n =>
    let b := s.bar n
    let w := s.newW n
    if w ≤ b.w then s
    else
      let s := s.setBar n { b with w := w }
      (List.range (s.barParts n)).foldl (fun s j =>
        match s.part n j with
        | .child c =>
          if s.homeAway (sectorOfObject true n) true c then s.hold (.release c n b.gen (w - b.cw))
          else if s.acceptsRelease c 0 n b.gen false then
            State.settle k (s.setBar c { s.bar c with pw := w - b.cw }) c
          else s.dropMsg (s.ownerOf true c) c s.moduleNo b.gen (BitVec.ofNat 8 (s.field (Off.synBarCfg c) 47 40))
        | .remote m c => s.sendSync 5 b.gen m c ((s.ownerOf true n).getD 0) (w - b.cw) n (sectorOfObject true n)
        | _ => s) s

/-- arrive(slot, p) of 10 R205. -/
def State.arrive : Nat → State → Nat → Nat → State
  | 0, s, _, _ => s
  | k + 1, s, n, p =>
    let b := s.bar n
    let s := s.setBar n { b with arr := sput 0 b.arr p (b.a p + 1) }
    if s.barMin n ≤ b.l then s
    else
      let b := s.bar n
      let s := s.setBar n { b with l := b.l + 1 }
      let c := Off.synBarCfg n
      let gen := BitVec.ofNat 8 (s.field c 47 40)
      let up := s.field c 12 0
      let s :=
        if !s.flag c 16 then s
        else if s.flag c 17 then
          s.sendSync 4 gen (s.field c 31 18) up ((s.ownerOf true n).getD 0) (b.l + 1 - b.cl) n
            (sectorOfObject true n)
        else if s.homeAway (sectorOfObject true n) true up then s.hold (.arrival up n gen)
        else
          match s.partIndex up (.child n) with
          | some j =>
            if (s.bar up).gen = gen ∧ s.ownerOf true n = s.ownerOf true up then State.arrive k s up j
            else s.dropMsg (s.ownerOf true up) up s.moduleNo gen (s.bar up).gen
          | none => s.dropMsg (s.ownerOf true up) up s.moduleNo gen (s.bar up).gen
      s.settle (k + 1) n

/-- The depth allowed to a tree of slots: every slot once. -/
def barDepth : Nat := 4368

/-- A participant's arrival at a slot, with the watches it satisfies. -/
def State.arriveAt (s : State) (n p : Nat) : State := (State.arrive barDepth s n p).serveWatches

/-- The arrival of a child slot reaches a parent slot that was held for its move. -/
def State.childArrival (s : State) (up n : Nat) (gen : BitVec 8) : State :=
  match s.partIndex up (.child n) with
  | some j =>
    if (s.bar up).gen = gen ∧ s.ownerOf true n = s.ownerOf true up then s.arriveAt up j
    else s.dropMsg (s.ownerOf true up) up s.moduleNo gen (s.bar up).gen
  | none => s.dropMsg (s.ownerOf true up) up s.moduleNo gen (s.bar up).gen

/-- The released count of a parent slot reaches a child slot that was held for its move. -/
def State.childRelease (s : State) (c n : Nat) (gen : BitVec 8) (w : Nat) : State :=
  if s.acceptsRelease c 0 n gen false then
    (State.settle barDepth (s.setBar c { s.bar c with pw := max (s.bar c).pw w }) c).serveWatches
  else s.dropMsg (s.ownerOf true c) c s.moduleNo gen (BitVec.ofNat 8 (s.field (Off.synBarCfg c) 47 40))

/-- A participant more than two rounds ahead of the release is held (10 R205). -/
def State.mayArrive (s : State) (n p : Nat) : Bool := decide ((s.bar n).a p < (s.bar n).w + 2)

/-- The tag by which a release finds its watch: a queue of a hive, or a context. -/
def waitTag : Nat → Nat → Nat
  | h, q => 8 * h + q
def hostTag (x : Nat) : Nat := 4096 + x

/-- The sector of the waiter with a tag. -/
def sectorOfTag (tag : Nat) : Nat := if tag < 2048 then sectorOfHive (tag / 8) else 0

/-- The generation that the home of a local entry's object holds. -/
def State.homeGen (s : State) (e : Xl) : BitVec 8 := if e.kind = 1 then (s.bar e.object).gen else (s.counter e.object).gen

/-- What is sent through a local entry passes the home's checks: its generation and its owner (10 R197). -/
def State.accepted (s : State) (x : Nat) (e : Xl) : Bool :=
  e.gen == s.homeGen e && s.ownerOf (e.kind == 1) e.object == some x

/-- What is sent through a local entry and fails the home's checks is dropped (10 R197). -/
def State.dropLocal (s : State) (e : Xl) : State :=
  s.dropMsg (s.ownerOf (e.kind == 1) e.object) e.object s.moduleNo e.gen (s.homeGen e)

/-- An entry names an object that lies here: a remote entry may name this module itself. -/
def State.isLocal (s : State) (e : Xl) : Bool := !e.remote || decide (e.module = s.moduleNo)

/-- A signal through an entry: to another module as a message, to a local counter under the checks of its home
(10 R197, R201). The status is the one the sender's run or command takes. -/
def State.signalVia (s : State) (x id inc : Nat) (sender : Sender) : Nat × State :=
  let e := s.xl x id
  if !s.isLocal e then (stOk, s.sendSync 1 e.gen e.module e.object x inc 0 sender.sector)
  else
    if s.accepted x e then s.addOrHold x e.object inc sender else (stOk, s.dropLocal e)

/-- A wait's condition through an entry: the step count of a counter, W of a barrier slot, or the release of the watch
sent to another module (10 R194, R202, R205). -/
def State.waitMet (s : State) (x id target tag : Nat) : Bool :=
  let e := s.xl x id
  if e.remote then s.sync.released.any (fun r => r == (tag, id))
  else s.accepted x e && !s.homeAway (sectorOfTag tag) (e.kind == 1) e.object && decide (target ≤ s.waitCount (e.kind == 1) e.object)

/-- A wait that begins to hold sends its watch: a remote one as a message; a local one whose checks fail is dropped at
the home, and is never released (10 R197, R202). -/
def State.sendWatch (s : State) (x id target tag : Nat) : State :=
  let e := s.xl x id
  if e.remote then s.sendSync 2 e.gen e.module e.object x target (tag + if e.kind = 1 then barrierTag else 0) (sectorOfTag tag)
  else if s.accepted x e then s else s.dropLocal e

/-- A released remote wait forgets its release. -/
def State.clearRelease (s : State) (tag id : Nat) : State :=
  { s with sync := { s.sync with released := s.sync.released.erase (tag, id) } }

/-! ### Commit and restore of a context's objects (10 R194, R207-R209) -/

/-- The counters and slots that a context owns and that differ from reset. -/
def State.ownCounters (s : State) (x : Nat) : List Nat := (s.sync.counters.map (·.1)).filter (s.ownsCounter x)
def State.ownSlots (s : State) (x : Nat) : List Nat := (s.sync.barriers.map (·.1)).filter (s.ownsSlot x)

/-- Every counter and slot of the context takes its counts as committed (10 R194). -/
def State.rebase (s : State) (x : Nat) : State :=
  let s := (s.ownCounters x).foldl (fun s p => s.setCounter p { s.counter p with committed := (s.counter p).value }) s
  (s.ownSlots x).foldl (fun s n =>
    let b := s.bar n
    s.setBar n { b with cArr := b.arr, cl := b.l, cw := b.w, pw := 0, cpw := 0 }) (s.restartBarges x false)

/-- The object of a watch, or of its release, is a barrier slot. -/
def watchesBarrier (m : SyncMsg) : Bool := m.tag.toNat.testBit 14

/-- The context whose step sent a message of this module: a release is its object's owner's, and CTX names who waits (11 Table
11-9). -/
def State.senderCtx (s : State) (m : SyncMsg) : Option Nat :=
  if m.origin.toNat ≠ s.moduleNo then none
  else if m.type.toNat = 3 then s.ownerOf (watchesBarrier m) m.object.toNat
  else some m.ctx.toNat

/-- What is held is of a context of this module: its message or signal, or a count between its slots. -/
def State.heldOfCtx (s : State) (x : Nat) : HeldMsg → Bool
  | .message m _ => s.senderCtx m == some x
  | .signal y .. => decide (y = x)
  | .arrival n .. => s.ownsSlot x n
  | .release c .. => s.ownsSlot x c

/-- Every counter and slot of the context returns to its committed counts (10 R209). -/
def State.restoreCounts (s : State) (x : Nat) : State :=
  let s := (s.ownCounters x).foldl (fun s p => s.setCounter p { s.counter p with value := (s.counter p).committed }) s
  let s := (s.ownSlots x).foldl (fun s n =>
    let b := s.bar n
    s.setBar n { b with arr := b.cArr, l := b.cl, w := b.cw, pw := b.cpw }) (s.restartBarges x true)
  let mine := fun (t : Nat) => t == hostTag x || (decide (t < 2048) && s.ownsHive x (t / 8))
  { s with sync := { s.sync with
      watches := s.sync.watches.filter (fun w => !(if w.barrier then s.ownsSlot x w.object else s.ownsCounter x w.object))
      held := s.sync.held.filter (fun h => !s.heldOfCtx x h)
      outbox := s.sync.outbox.filter (fun m => s.senderCtx m.msg != some x)
      released := s.sync.released.filter (fun r => !mine r.1) } }

/-- A wait or barrier hold of the context on an identifier's object. -/
def State.heldOn (s : State) (x : Nat) (e : Xl) : Bool :=
  let same := fun (i : Nat) => let f := s.xl x i
    f.object == e.object && f.kind == e.kind && f.remote == e.remote && (!e.remote || f.module == e.module)
  s.hive.hives.any (fun h => (match h.2.run with
      | some (y, _) => y == x
      | none => false) && h.2.queues.any (fun q => q.any (fun it => match it.op with
        | .wait i _ => it.held && same i
        | .barrier i => it.held && same i
        | _ => false)))
    || (s.ctx x).cmds.any (fun c => decide (c.phase = .started) &&
      (let op := (c.desc.extractLsb' 0 8).toNat; op == 4 || op == 5) && same (c.desc.extractLsb' 64 12).toNat)

/-- An object is balanced (10 R207). -/
def State.balanced (s : State) (x : Nat) (e : Xl) : Bool :=
  !s.heldOn x e && (e.remote ||
    (if e.kind = 1 then
      (List.range (s.barParts e.object)).all (fun j => (s.bar e.object).a j == (s.bar e.object).l)
    else
      match s.channel (e.object / 2 * 2) with
      | some _ => s.stepCount (e.object / 2 * 2) == s.stepCount (e.object / 2 * 2 + 1)
      | none => true))

/-- Identifiers of a context with a valid entry. -/
def State.validIds (s : State) (x : Nat) : List Nat :=
  (s.regs.filterMap (fun r =>
    if Off.synXlate x 0 ≤ r.1 ∧ r.1 < Off.synXlate x 0 + 0x8000 ∧ r.2.getLsbD 63 then some ((r.1 - Off.synXlate x 0) / 8)
    else none))

/-- FIRST_ID and DIRTY_COUNT show the context's dirty identifiers (10, SYN.CTX_SYNC). -/
def State.showDirty (s : State) (x : Nat) : State :=
  let all := (s.validIds x).filter (fun i => (s.xl x i).dirty)
  (s.setField (Off.synCtxSync x) 43 32 (all.headD 0)).setField (Off.synCtxSync x) 31 16 all.length

/-- An object of this module, as an entry would name it. -/
def xlFor (barrier : Bool) (o : Nat) : Xl :=
  { valid := true, kind := b2n barrier, dirty := false, pending := false, hold := false, remote := false, gen := 0, module := 0,
    object := o }

/-- The objects that a context owns and that have counted anything (10 R207). -/
def State.ownObjects (s : State) (x : Nat) : List Xl :=
  (s.ownCounters x).map (xlFor false) ++ (s.ownSlots x).map (xlFor true)

/-- The counts of an object since the last commit, in groups of at most four, one for each log entry: of a counter its step count;
of a slot its local and released counts, then the arrival count of each participant (10 R208). -/
def State.countsOf (s : State) (e : Xl) : List (List Nat) :=
  if e.remote then []
  else if e.kind = 1 then
    let b := s.bar e.object
    let a := (List.range (s.barParts e.object)).map (fun j => b.a j - sget 0 b.cArr j)
    [b.l - b.cl, b.w - b.cw] :: chunks 4 a.length a
  else [[s.stepCount e.object]]

/-- The counts of a dirty identifier are logged: each entry has the identifier and, from bit 16 on, its place among those of the
object (log 15). -/
def State.noteCounts (s : State) (x i : Nat) : State :=
  ((s.countsOf (s.xl x i)).mapIdx (fun k c => (k, c))).foldl (fun s e =>
    s.noteFree 4 false 0x00 ((i + 65536 * e.1) :: e.2) (some x)) s

/-- The balance check of a commit (10 R207, R208): DIRTY in every entry of an unbalanced object, UNBALANCED with the lowest
identifier and the count, a log entry of up to 16 identifiers, and behind it their counts, for which that entry has no place
(log 15). An object that the context owns and no entry of it names is checked like the others. -/
def State.balanceCheck (s : State) (x : Nat) : State :=
  let dirty := (s.validIds x).filter (fun i => !s.balanced x (s.xl x i))
  let none := dirty.isEmpty && (s.ownObjects x).all (s.balanced x)
  let s := (dirty.foldl (fun s i => s.setFlag (Off.synXlate x i) 60 true) s).showDirty x
  let s := s.modCtx x (fun c => { c with dirtyAt := (s.validIds x).filter (fun i => (s.xl x i).dirty) })
  if none then s
  else
    let ids := fun k => leNat ((((dirty.drop (4 * k)).take 4).map (fun i => natLe i 2)).flatten)
    let s := (s.setFlag (Off.synCtxSync x) 63 true).note 4 false 0x00 0x0302
      [dirty.length, ids 0, ids 1, ids 2, ids 3] (some x)
    (dirty.take 16).foldl (fun s i => s.noteCounts x i) s

/-- DIRTY of every entry returns to what it was at the last commit (10 R209). -/
def State.restoreDirty (s : State) (x : Nat) : State :=
  let at_ := (s.ctx x).dirtyAt
  ((s.validIds x).foldl (fun s i => s.setFlag (Off.synXlate x i) 60 (at_.contains i)) s).showDirty x

end Sys2Proof.Machine
end

