-- ==== Sys2Proof/Machine/Packets.lean ====
section
/-! DEFINITION. The bytes of synchronisation messages, unscheduled packets and management reports, the routes that packets
take, and their queues (11 R231-R233; 10 R199; 13 R278). -/

namespace Sys2Proof.Machine

/-! ### Messages in flits (11 R233) -/

/-- The message of 16 bytes (Table 11-9). -/
def msgOf (bs : List Byte) : SyncMsg :=
  let v := leNat bs
  { type := BitVec.ofNat 4 v, reserved := BitVec.ofNat 4 (v / 16), gen := BitVec.ofNat 8 (bits v 15 8)
    object := BitVec.ofNat 16 (bits v 31 16), origin := BitVec.ofNat 14 (bits v 45 32), ctx := BitVec.ofNat 6 (bits v 53 48)
    sentLc := BitVec.ofNat 8 (bits v 63 56), value := BitVec.ofNat 48 (bits v 111 64), tag := BitVec.ofNat 16 (bits v 127 112) }

/-- The 16 bytes of a message. -/
def msgBytes (m : SyncMsg) : List Byte :=
  natLe (m.type.toNat + 16 * m.reserved.toNat) 1 ++ natLe m.gen.toNat 1 ++ natLe m.object.toNat 2 ++ natLe m.origin.toNat 2
    ++ natLe m.ctx.toNat 1 ++ natLe m.sentLc.toNat 1 ++ natLe m.value.toNat 6 ++ natLe m.tag.toNat 2

/-- Lists of at most `n` bytes, in order, with fuel. -/
def pieces (n : Nat) : Nat → List Byte → List (List Byte)
  | 0, _ => []
  | k + 1, bs => if bs.isEmpty then [] else bs.take n :: pieces n k (bs.drop n)

/-- The messages in bytes; TYPE 0 is an unused position. -/
def msgsIn (bs : List Byte) : List SyncMsg :=
  ((pieces 16 bs.length bs).filter (fun b => b.length == 16)).map msgOf |>.filter (fun m => m.type.toNat != 0)

/-- The messages of a list, as bytes. -/
def msgsBytes (ms : List SyncMsg) : List Byte := (ms.map msgBytes).flatten

/-- Bytes filled up with zeros to a length. -/
def padTo (n : Nat) (bs : List Byte) : List Byte := bs ++ List.replicate (n - bs.length) 0

/-! ### Packets (11 R231-R233) -/

/-- The 16 header bytes and the payload of a packet, in whole flits (Table 11-8). -/
def packetBytes (k : Packet) : List Byte :=
  padTo (128 * (k.flits.toNat + 1))
    (natLe (k.cls.toNat + 8 * k.reserved.toNat) 1 ++ natLe (k.flits.toNat + 16 * k.hops.toNat) 1 ++ natLe k.dest.toNat 2
      ++ natLe k.src.toNat 2 ++ natLe k.len.toNat 2 ++ natLe k.fields.toNat 8 ++ k.payload)

/-- The packet in bytes. -/
def packetOf (bs : List Byte) : Packet :=
  let v := leNat (bs.take 16)
  { cls := BitVec.ofNat 3 v, reserved := BitVec.ofNat 5 (v / 8), flits := BitVec.ofNat 4 (bits v 11 8)
    hops := BitVec.ofNat 4 (bits v 15 12), dest := BitVec.ofNat 14 (bits v 29 16), src := BitVec.ofNat 14 (bits v 45 32)
    len := BitVec.ofNat 16 (bits v 63 48), fields := BitVec.ofNat 64 (v / 2 ^ 64)
    payload := (bs.drop 16).take (bits v 63 48) }

/-- A packet of a class with 15 hops to go. -/
def State.newPacket (s : State) (cls dest fields : Nat) (payload : List Byte) : Packet :=
  { cls := BitVec.ofNat 3 cls, flits := BitVec.ofNat 4 ((16 + payload.length + 127) / 128 - 1), hops := 15
    dest := BitVec.ofNat 14 dest, src := BitVec.ofNat 14 s.moduleNo, len := BitVec.ofNat 16 payload.length
    fields := BitVec.ofNat 64 fields, payload := payload }

/-- The messages that a SYNC packet holds (11 R233). -/
def packetMsgs (k : Packet) : List SyncMsg :=
  if k.cls = 2 then msgsIn (k.payload.take (16 * bits k.fields.toNat 6 0)) else []

/-- A SYNC packet with other messages. -/
def withMsgs (k : Packet) (ms : List SyncMsg) : Packet :=
  { k with payload := msgsBytes ms, len := BitVec.ofNat 16 (16 * ms.length), fields := BitVec.ofNat 64 ms.length
           flits := BitVec.ofNat 4 ((16 + 16 * ms.length + 127) / 128 - 1) }

/-- The port on which LNK.ROUTE sends a module's packets, if the entry is valid: byte m mod 4 of entry m / 4, VALID in
bit 7 and PORT in bits 3 to 0. -/
def State.routeOf (s : State) (m : Nat) : Option Nat :=
  let e := s.field (Off.lnkRoute (m / 4)) (8 * (m % 4) + 7) (8 * (m % 4))
  if e.testBit 7 then some (e % 16) else none

/-- Packets wait at a port. -/
def State.enqueue (s : State) (p : Nat) (ks : List Packet) : State :=
  s.modPort p (fun t => { t with queue := t.queue ++ ks })

/-- The message flits that a barge holds. -/
def BargeSt.heldMsgs (b : BargeSt) : List SyncMsg :=
  ((b.line.filterMap (·.flit)).filterMap (fun f => if f.1 then some (msgsIn f.2) else none)).flatten
    ++ ((b.ready.filter (fun r => r.2.1)).map (fun r => msgsIn r.2.2)).flatten

/-- The messages in the slots of a frame. -/
def frameMsgs (f : Frame) : List SyncMsg :=
  ((List.range 40).filter (fun k => f.map.getD k 2 == 1)).flatMap (fun k => msgsIn (f.flits.getD k []))

/-- The messages that a LATE packet of a port carries, and the module they are for, by the store's copy of its flit. -/
def PortSt.lateMsgs (t : PortSt) (k : Packet) : Nat × List SyncMsg :=
  match t.store.find? (fun e => e.msg && decide (e.slot = bits k.fields.toNat 24 19
      ∧ e.frame % 2 ^ 39 = bits k.fields.toNat 63 25)) with
  | some e => (((t.table t.active).barges[e.barge]?).elim k.dest.toNat (·.dest), msgsIn k.payload)
  | none => (k.dest.toNat, [])

/-- The messages that a packet of a port's queue carries, and the module they are for. -/
def PortSt.queued (t : PortSt) (k : Packet) : Nat × List SyncMsg :=
  if k.cls = 0 then t.lateMsgs k else (k.dest.toNat, packetMsgs k)

/-- A packet under way out of a port, and the flits here of one under way in; none without its header. -/
def PortSt.outPkt (t : PortSt) : Option Packet := if t.outRest.isEmpty then none else some (packetOf (t.outSent ++ t.outRest))
def PortSt.inPkt (t : PortSt) : Option Packet := if t.inPart.length < 16 then none else some (packetOf t.inPart)

/-- The packets of a port: waiting, and under way out or in. -/
def PortSt.packets (t : PortSt) : List Packet := t.queue ++ t.outPkt.toList ++ t.inPkt.toList

/-- The messages that a port holds: in its packets, its barges' flits and the frames on its canal edge. -/
def PortSt.msgs (t : PortSt) : List SyncMsg :=
  t.packets.flatMap (fun k => (t.queued k).2) ++ t.barges.flatMap (fun b => b.2.heldMsgs) ++ t.wire.flatMap frameMsgs

/-- The messages that this module holds, and that are neither delivered nor discarded. -/
def State.msgsHeld (s : State) : List SyncMsg :=
  s.sync.outbox.map (·.msg) ++ s.sync.held.filterMap (fun h => match h with
    | .message m _ => some m
    | _ => none) ++ s.lnk.ports.flatMap (fun e => e.2.msgs)

/-- Every message that the context's runs and commands sent has been delivered or discarded (10 R195); one that has left for
another module is sure to have been 1 ms after (10 R199; log 28). -/
def State.messagesDone (s : State) (x : Nat) : Bool :=
  s.msgsHeld.all (fun m => s.senderCtx m != some x) && s.sync.held.all (fun h => !s.heldOfCtx x h)
    && s.sync.flying.all (fun f => f.1 != x || decide (f.2 ≤ s.clk.now))

/-- Messages leave the module (10 R195). -/
def State.depart (s : State) (ms : List SyncMsg) : State :=
  let still := s.sync.flying.filter (fun f => decide (s.clk.now < f.2))
  let gone := ms.filterMap (fun m => (s.senderCtx m).map (fun x => (x, s.clk.now + 1000000000)))
  { s with sync := { s.sync with flying := still ++ gone } }

/-- STRAY of a port. -/
def State.stray (s : State) (p n : Nat) : State :=
  if n = 0 then s else s.countField (if isCanal p then Off.canErrStat (p - 0x40) else Off.lnkErrStat p) 31 16 n

/-! ### Management reports (10 R199, 13 R278): the model's own bytes (log 8) -/

/-- An integer in the 80 bytes of the extended exact form. -/
def intLe (v : Int) : List Byte := natLe (v % 2 ^ 640).toNat 80
def intOf (bs : List Byte) : Int :=
  let n := leNat (bs.take 80)
  if n < 2 ^ 639 then n else (n : Int) - 2 ^ 640

/-- A report, with its length in front. -/
def Mgmt.bytes (m : Mgmt) : List Byte :=
  let body := match m with
    | .discard m => natLe 1 1 ++ msgBytes m
    | .norm job p =>
      let sums := fun (l : List (BitVec 10 × Int × BitVec 3)) =>
        natLe l.length 2 ++ (l.map (fun e => natLe e.1.toNat 2 ++ intLe e.2.1 ++ natLe e.2.2.toNat 1)).flatten
      natLe 2 1 ++ natLe job 2 ++ natLe p.step.toNat 6 ++ natLe p.rank.toNat 2 ++ natLe (b2n p.result + 2 * p.flags.toNat) 1
        ++ intLe p.sum ++ sums p.layers ++ sums p.outputs
        ++ natLe p.trips.length 2 ++ (p.trips.map (fun e => natLe e.1.toNat 2 ++ natLe e.2.toNat 1)).flatten
        ++ natLe p.stillScale.length 2 ++ (p.stillScale.map (fun n => natLe n.toNat 2)).flatten
  natLe (4 + body.length) 4 ++ body

/-- `n` items of `w` bytes each. -/
def items (w n : Nat) (bs : List Byte) : List (List Byte) := (List.range n).map (fun i => (bs.drop (w * i)).take w)

/-- The layer sums at the front of bytes, and what follows them. -/
def sumsOf (bs : List Byte) : List (BitVec 10 × Int × BitVec 3) × List Byte :=
  let n := leNat (bs.take 2)
  ((items 83 n (bs.drop 2)).map (fun b => (BitVec.ofNat 10 (leNat (b.take 2)), intOf (b.drop 2), BitVec.ofNat 3 (leNat (b.drop 82)))),
   bs.drop (2 + 83 * n))

/-- The report in bytes. -/
def mgmtOf (bs : List Byte) : Option Mgmt :=
  match leNat ((bs.drop 4).take 1) with
  | 1 => some (.discard (msgOf ((bs.drop 5).take 16)))
  | 2 =>
    let at_ := fun o n => leNat ((bs.drop (5 + o)).take n)
    let (layers, r) := sumsOf (bs.drop 96)
    let (outputs, r) := sumsOf r
    let n := leNat (r.take 2)
    let trips := (items 3 n (r.drop 2)).map (fun b => (BitVec.ofNat 10 (leNat (b.take 2)), BitVec.ofNat 2 (leNat (b.drop 2))))
    let r := r.drop (2 + 3 * n)
    let still := (items 2 (leNat (r.take 2)) (r.drop 2)).map (fun b => BitVec.ofNat 10 (leNat b))
    some (.norm (at_ 0 2) { step := BitVec.ofNat 48 (at_ 2 6), rank := BitVec.ofNat 14 (at_ 8 2), result := (at_ 10 1).testBit 0
                            flags := BitVec.ofNat 3 (at_ 10 1 / 2), sum := intOf (bs.drop 16), layers := layers
                            outputs := outputs, trips := trips, stillScale := still })
  | _ => none

/-- A report leaves for a module as MGMT packets by its route. -/
def State.sendMgmt (s : State) (dest : Nat) (m : Mgmt) : State :=
  match if dest = s.moduleNo then none else s.routeOf dest with
  | some p => s.enqueue p ((pieces 2032 m.bytes.length m.bytes).map (s.newPacket 3 dest 0))
  | none => s.send (.mgmt dest m)

/-- A discard is reported to the sending module and to the home module (10 R199). -/
def State.reportDiscard (s : State) (m : SyncMsg) (home : Nat) : State :=
  (s.sendMgmt m.origin.toNat (.discard m)).sendMgmt home (.discard m)

/-- The joined context whose CTX.JOB_ID names a job. -/
def State.jobCtx (s : State) (job : Nat) : Option Nat :=
  (List.range 64).find? (fun x => s.joined x && decide (s.field (Off.ctxJobId x) 15 0 = job))

end Sys2Proof.Machine
end

