-- ==== Sys2Proof/Machine/Access.lean ====
section
/-! DEFINITION. Who may write a register, and what a write stores (00 R2, 12 R245, 18 R364-R367). -/

namespace Sys2Proof.Machine

/-- The function owns an object that belongs to a context. -/
def State.funcOwns (s : State) (f : Nat) (o : Option Nat) : Bool :=
  match o with
  | some x => s.ctxEnabled x && s.funcOf x == f
  | none => false

/-- The context whose layers include a layer (SEC.CTX_LAYERS: COUNT in [26:16], BASE in [9:0]). -/
def State.layerOwner (s : State) (n : Nat) : Option Nat :=
  (List.range 64).find? (fun x => let o := Off.secCtxLayers x
    s.ctxEnabled x && decide (s.field o 9 0 ≤ n ∧ n < s.field o 9 0 + s.field o 26 16))

/-- A function may write a register: the physical function may write every one, a VF those of its contexts' objects and
those open to every function (12 R245). -/
def State.mayWrite (s : State) (f : Nat) (w : RegWriter) (i j : Nat) : Bool :=
  f == 0 || match w with
    | .any => true
    | .pf => false
    | .ctx => s.funcOwns f (some i)
    | .ctx2 => s.funcOwns f (some j)
    | .slot => s.funcOwns f (s.ownerOf true i)
    | .cnt => s.funcOwns f (s.ownerOf false i)
    | .layer => s.funcOwns f (s.layerOwner i)
    | .none => true

/-- The memory BARs answer: the link is up and step 6 of boot is done (18 R370). -/
def State.barOpen (s : State) : Bool := s.flag Off.hifLinkStat 1 && decide (6 ≤ s.field Off.hifModuleStat 3 0)

/-- A run program of the context is in progress. -/
def State.running (s : State) (x : Nat) : Bool := !(s.ctx x).runs.isEmpty

/-- A write of a synchronisation register that 10 R196 turns away: ignored, logged, and shown in XLATE_ERR. -/
def State.syncIgnored (s : State) (o : Option Nat) (f off v : Nat) : State :=
  (match o with
    | some x => s.setFlag (Off.synCtxSync x) 62 true
    | none => s).ignored f off v

/-! ### SYN.XLATE and rebinds (10 R196, R198) -/

/-- The rebind of an object: its generation advances, its counts are zero, DIRTY clears, and every entry of the context
that names it takes the new generation (10 R198). -/
def State.rebindNow (s : State) (x : Nat) (barrier : Bool) (o : Nat) : State :=
  let gen := (if barrier then (s.bar o).gen else (s.counter o).gen) + 1
  let t := if barrier then s.setBar o { gen := gen, rebound := some s.clk.now }
    else s.setCounter o { gen := gen, rebound := some s.clk.now }
  let names := fun i => let e := t.xl x i
    !e.remote && e.object == o && (e.kind == 1) == barrier && decide (e.kind ≤ 1)
  (((t.validIds x).filter names).foldl (fun t i =>
    (t.setField (Off.synXlate x i) 55 48 gen.toNat).setFlag (Off.synXlate x i) 60 false) t).showDirty x

/-- When the object was last rebound. -/
def State.reboundAt (s : State) (barrier : Bool) (o : Nat) : Option Nat :=
  if barrier then (s.bar o).rebound else (s.counter o).rebound

/-- 1 ms has passed since the previous rebind of the object. -/
def State.rebindDue (s : State) (barrier : Bool) (o : Nat) : Bool :=
  match s.reboundAt barrier o with
  | some t => decide (t + 1000000000 ≤ s.clk.now)
  | none => true

/-- The action of REBIND in an accepted write: at once, or after the spacing with PENDING set. A remote object is
rebound at its own home only; its entries here lose DIRTY. -/
def State.rebindEntry (s : State) (x i : Nat) : State :=
  let e := s.xl x i
  if !e.valid || decide (1 < e.kind) || e.pending then s
  else if e.remote then (s.setFlag (Off.synXlate x i) 60 false).showDirty x
  else if s.rebindDue (e.kind == 1) e.object then s.rebindNow x (e.kind == 1) e.object
  else State.setFlag { s with sync := { s.sync with rebinds := s.sync.rebinds ++ [⟨x, i, e.kind == 1, e.object⟩] } }
    (Off.synXlate x i) 59 true

/-- A write of SYN.XLATE[x][i] through function `f` (10 R196, R198): GEN takes the written value in a remote entry only. A
REBIND written while one is pending is ignored and logged (18 R367). -/
def State.writeXlate (s : State) (f x i v : Nat) : State :=
  let off := Off.synXlate x i
  let e := xlOf v
  let names := e.valid && !e.remote && decide (e.kind ≤ 1)
  let ok := if e.kind = 1 then s.ownsSlot x e.object else s.ownsCounter x e.object
  if !s.mayWrite f .ctx x i then s.ignored f off v
  else if s.running x || (names && !ok) then s.syncIgnored (some x) f off v
  else
    let old := s.reg off
    let new := maskedWrite 0xE3FF00003FFFFFFF 0 old v
    let s := (s.setReg off (if e.remote then new else setBits new 55 48 (bits old 55 48))).noteReserved f off v
    if !v.testBit 58 then s else if (s.xl x i).pending then s.ignored f off v else s.rebindEntry x i

/-! ### Barrier configuration (10 R204, R206) -/

/-- A participant lies within the limits of a slot's unit. -/
def partOk (n v : Nat) : Bool :=
  let id := bits v 12 0
  match bits v 31 30 with
  | 0 =>
    decide (bits id 10 8 ≤ 5 ∧ bits id 12 11 = 0)
      && (decide (4352 ≤ n) || (if n < 4096 then bits id 7 0 == n / 16 else bits id 7 0 / 16 == (n - 4096) / 16))
  | 1 => decide (id < 64)
  | 2 =>
    decide (4096 ≤ n ∧ id < 4368) && (decide (4352 ≤ n)
      || (if id < 4096 then id / 256 == (n - 4096) / 16 else decide (id < 4352) && (id - 4096) / 16 == (n - 4096) / 16))
  | _ => decide (4352 ≤ n)

/-- A written SYN.BAR_CFG is within the limits of 10 R204 and R206. -/
def State.barCfgOk (s : State) (n v : Nat) : Bool :=
  decide (bits v 54 48 ≤ 64)
    && !(v.testBit 16 && !v.testBit 17 && (decide (4368 ≤ bits v 12 0) || bits v 12 0 == n))
    && (List.range (bits v 54 48)).all (fun j => decide (j < s.barParts n) || partOk n (s.reg (Off.synBarPart n j)))

/-- The owner of a slot runs a program. -/
def State.ownerRuns (s : State) (o : Option Nat) : Bool :=
  match o with
  | some x => s.running x
  | none => false

/-- A write of SYN.BAR_CFG[n]. -/
def State.writeBarCfg (s : State) (f n v : Nat) : State :=
  let off := Off.synBarCfg n
  let o := s.ownerOf true n
  if !s.mayWrite f .slot n 0 then s.ignored f off v
  else if s.ownerRuns o || !s.barCfgOk n v then s.syncIgnored o f off v
  else s.putReg f off 0xFFFF00FFFF1FFF 0 v

/-- A write of SYN.BAR_PART[n][j]. -/
def State.writeBarPart (s : State) (f n j v : Nat) : State :=
  let off := Off.synBarPart n j
  let o := s.ownerOf true n
  if !s.mayWrite f .slot n j then s.ignored f off v
  else if s.ownerRuns o || (decide (j < s.barParts n) && !partOk n v) then s.syncIgnored o f off v
  else s.putReg f off 0xCFFFDFFF 0 v

/-- A write of SYN.CNT_CFG[p] (10 R203): CHAN and LEAD_M1 belong to even counters. -/
def State.writeCntCfg (s : State) (f p v : Nat) : State :=
  let off := Off.synCntCfg p
  let o := s.ownerOf false p
  if !s.mayWrite f .cnt p 0 then s.ignored f off v
  else if s.ownerRuns o then s.syncIgnored o f off v
  else s.putReg f off (if p % 2 = 0 then 0x8001FFFF else 0x80000000) 0 v

end Sys2Proof.Machine
end

