-- ==== Sys2Proof/Machine/Engine.lean ====
section
/-! DEFINITION. The matrix engines: TILE and DRAIN as they execute in their queue (04 R55-R78, R392; 05 R81-R92,
R97-R100). -/

namespace Sys2Proof.Machine

/-- An operand of a product: its header where it is narrow (04 R60). -/
structure Operand where
  addr : Nat
  fmt : Nat
  hdr : Option Hdr
deriving DecidableEq, Repr

/-- The operand at an address in the hive store. -/
def State.operand (s : State) (x a fmt : Nat) : Operand := ⟨a, fmt, if isNarrow fmt then some (s.hdr x a) else none⟩

/-- Stored elements in a row of an operand with K elements. -/
def Operand.re (o : Operand) (k : Nat) : Nat :=
  match o.hdr with
  | some h => rowElems k h.blockLen h.rotated
  | none => k

/-- The extents an operand of `rows` by `k` occupies (04 R60). -/
def Operand.extents (o : Operand) (rows k : Nat) : List (Nat × Nat) :=
  match o.hdr with
  | some h => [(o.addr, 64 + h.elemBytes rows (o.re k)), (h.scales, rows * o.re k / h.blockLen)]
  | none => [(o.addr, 2 * rows * k)]

/-- The checks of 03 R32 and 04 R67 on an operand's header. -/
def Operand.ok (o : Operand) : Bool :=
  match o.hdr with
  | some h => h.ok o.addr && decide (h.fmt = o.fmt)
  | none => decide (o.fmt = 5)

/-- The tensor scale, ROTATED and layer of an operand. -/
def Operand.t (o : Operand) : F32 :=
  match o.hdr with
  | some h => h.t
  | none => 0x3F800000
def Operand.rot (o : Operand) : Bool :=
  match o.hdr with
  | some h => h.rotated
  | none => false
def Operand.layer (o : Operand) : Nat :=
  match o.hdr with
  | some h => h.layer
  | none => 0xFFFF

/-- The block length of an operand; BF16 has none. -/
def Operand.blockLen (o : Operand) : Nat :=
  match o.hdr with
  | some h => h.blockLen
  | none => 128

/-- Run length of a format pair (05 R81). -/
def runLen (fmt : Nat) (la lb : Nat) : Nat :=
  min (if fmt = 5 then 8 else if fmt = 3 ∨ fmt = 4 then 16 else 32) (min la lb)

/-- One row of an operand: element values without scales, and each element's block-scale byte. -/
def State.operandRow (s : State) (x : Nat) (o : Operand) (row k : Nat) : List (Fp × Nat) :=
  match o.hdr with
  | some h =>
    let bpr := o.re k / h.blockLen
    (((List.range bpr).map (fun j =>
      let b := s.blockScale x h (row * bpr + j)
      (s.blockCodes x o.addr h (row * bpr + j)).map (fun c =>
        (if b = 255 then .nan else decodeElem h.fmt c, b)))).flatten).take k
  | none => (List.range k).map (fun i => (decodeElem 5 (s.loadNat x (o.addr + 2 * (row * k + i)) 2), 127))

/-- The exact value of a run before promotion (05 R82). -/
def runValue (as bs : List (Fp × Nat)) : Fp :=
  let sum := Fp.sum (List.zipWith (fun a b => a.1.mul b.1) as bs)
  match as, bs with
  | a :: _, b :: _ => sum.scale ((a.2 : Int) - 127 + ((b.2 : Int) - 127))
  | _, _ => .zero

/-- The runs of a dot product, in K order (05 R81). -/
def runsOf (len : Nat) (as bs : List (Fp × Nat)) : List Fp :=
  List.zipWith runValue (chunks len as.length as) (chunks len bs.length bs)

/-- One level of the pairwise tree (05 R83). -/
def treeLevel : List F32 → List F32
  | a :: b :: r => f32Add a b :: treeLevel r
  | [a] => [f32Add a 0]
  | [] => []

/-- `k` levels of the pairwise tree. -/
def treeLevels : Nat → List F32 → List F32
  | 0, vs => vs
  | k + 1, vs => treeLevels k (treeLevel vs)

/-- The height of the tree over `n` runs. -/
def treeHeight (n : Nat) : Nat := if n ≤ 1 then 0 else Nat.log2 (n - 1) + 1

/-- tile_sum of 05 R83: zero runs pad to a power of two. -/
def tileSum (vs : List F32) : F32 :=
  let h := treeHeight vs.length
  (treeLevels h (vs ++ List.replicate (2 ^ h - vs.length) 0)).headD 0

/-- feed of 05 R87: the entry joins the stack, and equal heights merge. -/
def feedMerge : Nat → List (Nat × List F32) → List (Nat × List F32)
  | 0, st => st
  | k + 1, st =>
    match st with
    | (hb, b) :: (ha, a) :: r =>
      if ha = hb then feedMerge k ((ha + 1, List.zipWith f32Add a b) :: r) else st
    | _ => st

/-- Heights alone, as the fetch-time account keeps them (05 R89). -/
def mergeHeights : Nat → List Nat → List Nat
  | 0, st => st
  | k + 1, st =>
    match st with
    | b :: a :: r => if a = b then mergeHeights k ((a + 1) :: r) else st
    | _ => st

/-- drain_value of 05 R87: the stack folds from the newest entry. -/
def drainFold : List (Nat × List F32) → List F32
  | [] => []
  | (_, v) :: r => r.foldl (fun t e => List.zipWith f32Add e.2 t) v

/-- An exact value cut toward zero to a 26-bit significand with FP32's exponent range (05 R100); a value past the
largest magnitude stays at it. -/
def cut26 : Fp → Fp
  | .fin s m e =>
    if m = 0 then .fin s 0 0
    else
      let q := max (e + (Nat.log2 m : Nat) - 25) (-151)
      let r := if q ≤ e then m * 2 ^ (e - q).toNat else m / 2 ^ (q - e).toNat
      if Fp.lt (.fin false (2 ^ 26 - 1) 102) (.fin false r q) then .fin s (2 ^ 26 - 1) 102 else .fin s r q
  | v => v

/-- The state of an engine's group. -/
def HiveState.group (v : HiveState) (e g : Nat) : Group := sget {} v.groups (128 * e + g)

/-- The hive with a group replaced. -/
def HiveState.setGroup (v : HiveState) (e g : Nat) (u : Group) : HiveState :=
  { v with groups := sput {} v.groups (128 * e + g) u }

/-- A group emptied: it keeps its shape (05 R86). -/
def Group.emptied (g : Group) : Group := { m := g.m, n := g.n }

/-- The exact form of 05 Table 5-5: a value as N * 2^-300 in 80 bytes. Beside a flag, where N is ignored, N is zero (log 45). -/
def exactBytes (v : Fp) : List Byte :=
  let n : Int := match v with
    | .fin s m e => if e ≥ -300 then Fp.signed s (m * 2 ^ (e + 300).toNat) else Fp.signed s (m / 2 ^ (-300 - e).toNat)
    | _ => 0
  let flags := match v with
    | .nan => 1
    | .inf false => 2
    | .inf true => 4
    | _ => 0
  natLe (n % 2 ^ 624).toNat 78 ++ natLe flags 2

/-- The value of an exact form. -/
def exactVal (bs : List Byte) : Fp :=
  let n := leNat (bs.take 78)
  let f := leNat (bs.drop 78)
  if f % 2 = 1 ∨ f / 2 % 4 = 3 then .nan
  else if f / 2 % 2 = 1 then .inf false
  else if f / 4 % 2 = 1 then .inf true
  else if n ≥ 2 ^ 623 then .fin true (2 ^ 624 - n) (-300) else .fin false n (-300)

/-- The result of a TILE's products joins its group, by the accumulation mode (05 R87, R97, R100). -/
def Group.feed (g : Group) (mode : Nat) (rows cols : List (List (Fp × Nat))) (len k : Nat) : Group :=
  let cells := (rows.map (fun a => cols.map (fun b => (a, b)))).flatten
  if mode = 0 then
    let t := cells.map (fun (a, b) => tileSum ((runsOf len a b).map Fp.toF32))
    let st := (treeHeight ((k + len - 1) / len), t) :: g.entries
    { g with live := true, entries := feedMerge st.length st }
  else if mode = 1 then
    let old := if g.exact.isEmpty then List.replicate cells.length Fp.zero else g.exact
    { g with live := true, exact := List.zipWith (fun (u : Fp) (c : List (Fp × Nat) × List (Fp × Nat)) => u.add (Fp.sum (runsOf len c.1 c.2))) old cells }
  else
    let old := if g.exact.isEmpty then List.replicate cells.length Fp.zero else g.exact
    { g with live := true, exact := List.zipWith (fun (u : Fp) (c : List (Fp × Nat) × List (Fp × Nat)) =>
        (List.zip c.1 c.2).foldl (fun acc p =>
          cut26 (acc.add ((p.1.1.mul p.2.1).scale ((p.1.2 : Int) - 127 + ((p.2.2 : Int) - 127))))) u) old cells }

/-- The bit of the row mask at `off` in the hive store for an index: 1 is frozen (04 R392). -/
def State.maskBit (s : State) (x h off i : Nat) : Bool := (s.load x (hiveAddr h (off + i / 8))).getLsbD (i % 8)

/-- An extent meets the exact group area of one of some hives (05 R99). -/
def inExactArea (hs : List Nat) (es : List (Nat × Nat)) : Bool :=
  es.any (fun e => hs.any (fun h => decide (e.1 < hiveAddr h 0x1800000 ∧ hiveAddr h 0x1080000 < e.1 + e.2)))

/-- The hives of the run that hive `h` belongs to: in exact mode the stores of all of them hold an exact group area (05 R99). -/
def State.runHives (s : State) (h : Nat) : List Nat :=
  match (s.hiveSt h).run with
  | some (x, idx) =>
    match (s.ctx x).runs.find? (fun r => r.idx == idx) with
    | some r => r.hives
    | none => [h]
  | none => [h]

/-- The bytes of a row mask that a product of 128 rows reads (04 R392). -/
def maskExtent (h off rowBlk : Nat) (byBlock : Bool) : Nat × Nat :=
  if byBlock then (hiveAddr h (off + rowBlk / 8), 1) else (hiveAddr h (off + 16 * rowBlk), 16)

/-- The masked rows a product shows to 04 R78: counted for the layer its A header names. -/
def State.countMask (s : State) (x h layer off rowBlk : Nat) (byBlock : Bool) : State :=
  if layer < 1024 then
    let n := if byBlock then (if s.maskBit x h off rowBlk then 128 else 0)
      else ((List.range 128).filter (fun i => s.maskBit x h off (128 * rowBlk + i))).length
    s.modLayer layer (fun l => { l with seen := l.seen + 128, frozen := l.frozen + n })
  else s

/-! The fall-back path of masked products (04 R76). -/

/-- Masked products whose A header names the layer take the fall-back path. -/
def State.onFallback (s : State) (layer : Nat) : Bool := decide (layer < 1024) && (s.layer layer).path

/-- The rows of the product that a row mask belongs to: those of its masked TRANSPOSE, else all up to the block's (log 41). -/
def State.maskTotal (s : State) (h off rowBlk : Nat) : Nat :=
  max (sget 0 (s.hiveSt h).maskRows off) (128 * (rowBlk + 1))

/-- The unfrozen rows of a product, in order. -/
def State.unfrozenRows (s : State) (x h off total : Nat) : List Nat :=
  (List.range total).filter (fun i => !s.maskBit x h off i)

/-- A tile of the fall-back path is dropped: its block is frozen, or it lies past the packed rows. -/
def State.tileDropped (s : State) (x h off rowBlk : Nat) (byBlock : Bool) : Bool :=
  if byBlock then s.maskBit x h off rowBlk
  else decide ((s.unfrozenRows x h off (s.maskTotal h off rowBlk)).length ≤ 128 * rowBlk)

/-- The mask bytes that a masked tile or drain reads on its path. -/
def State.maskReads (s : State) (h layer off rowBlk : Nat) (byBlock : Bool) : Nat × Nat :=
  if s.onFallback layer && !byBlock then (hiveAddr h off, (s.maskTotal h off rowBlk + 7) / 8)
  else maskExtent h off rowBlk byBlock

/-- A group that a dropped tile adds zero to (04 R76). -/
def Group.feedZero (g : Group) (mode len k : Nat) : Group :=
  if mode = 0 then
    let st := (treeHeight ((k + len - 1) / len), List.replicate (g.m * g.n) 0) :: g.entries
    { g with live := true, entries := feedMerge st.length st }
  else { g with live := true, exact := if g.exact.isEmpty then List.replicate (g.m * g.n) .zero else g.exact }

/-- The bytes an engine's groups may hold (05 R88). -/
def storeLimit (mode : Nat) : Nat := if mode = 1 then 0x280000 else 0x80000

/-- What some pieces of an area (offset, bytes) leave free of one piece of it. -/
def cutOut (free : List (Nat × Nat)) (p : Nat × Nat) : List (Nat × Nat) :=
  free.flatMap (fun q =>
    ([(q.1, min q.2 (p.1 - q.1)), (max q.1 (p.1 + p.2), q.1 + q.2 - max q.1 (p.1 + p.2))]).filter (fun r => r.2 ≠ 0))

/-- The first `n` bytes of some pieces. -/
def takePieces : Nat → List (Nat × Nat) → List (Nat × Nat)
  | _, [] => []
  | n, p :: ps => if n = 0 then [] else (p.1, min n p.2) :: takePieces (n - p.2) ps

/-- Where in an engine's exact group area a group's entry stands: the lowest bytes that no other live group holds (05 R88, R99;
log 42). -/
def HiveState.exactSlot (v : HiveState) (e g size : Nat) : List (Nat × Nat) :=
  let others := v.groups.filter (fun u => u.1 / 128 == e && u.1 != 128 * e + g && u.2.live)
  takePieces size (others.foldl (fun free u => u.2.slot.foldl cutOut free) [(0, storeLimit 1)])

/-- Bytes written over pieces of a hive store. -/
def State.storePieces (s : State) (x base : Nat) : List (Nat × Nat) → List Byte → State
  | [], _ => s
  | p :: ps, bs => (s.stores x (base + p.1) (bs.take p.2)).storePieces x base ps (bs.drop p.2)

/-- The exact entry of a group goes to the exact group area of its hive (05 R88, R99). -/
def State.keepExact (s : State) (x h mode e : Nat) (g : Group) : State :=
  if mode = 1 then s.storePieces x (hiveAddr h (0x1080000 + e * 0x280000)) g.slot ((g.exact.map exactBytes).flatten) else s

/-- The tensor of a narrow operand is known to hold its blocks. -/
def State.sizeOperand (s : State) (x : Nat) (o : Operand) (rows k : Nat) : State :=
  match o.hdr with
  | some h => s.sizeMap x h.map (rows * o.re k / h.blockLen)
  | none => s

/-- What a TILE reads: its operands, with scales and maps, and its mask. -/
def State.tileReads (s : State) (x h : Nat) (t : TileOp) : List (Nat × Nat) :=
  let a := s.operand x (hiveAddr h t.aOff) t.fmtA
  let b := s.operand x (hiveAddr h t.bOff) t.fmtB
  a.extents t.m t.k ++ b.extents t.n t.k ++ (if t.masked then [s.maskReads h a.layer t.maskOff t.rowBlk t.byBlock] else [])

/-- TILE at its start (04 R46, R55, R67, R68, R76; 05 R86): the checks on headers and extents, then the product into its
group, or nothing where the fall-back path drops the tile, whose A shard may hold the ROTATED of an earlier step. -/
def State.runTile (s : State) (x h mode : Nat) (t : TileOp) : Res :=
  let a := s.operand x (hiveAddr h t.aOff) t.fmtA
  let b := s.operand x (hiveAddr h t.bOff) t.fmtB
  let ms := if t.masked then [s.maskReads h a.layer t.maskOff t.rowBlk t.byBlock] else []
  let es := s.tileReads x h t
  let v := s.hiveSt h
  let g := v.group t.eng t.group
  let g := if t.opens then g.emptied else g
  let f := ((f32Val a.t).mul (f32Val b.t)).toF32
  let drop := t.masked && s.onFallback a.layer && ms.all (fun e => s.mayAccess x e.1 e.2) && (s.badAmong ms).isNone
    && s.tileDropped x h t.maskOff t.rowBlk t.byBlock
  if !a.ok || !b.ok then .error stBadDescriptor
  else if !drop && (a.rot != b.rot || (a.rot && s.seed a.layer != s.seed b.layer)) then .error stBadDescriptor
  else if !es.all (fun e => s.mayAccess x e.1 e.2) || (mode = 1 && inExactArea (s.runHives h) es) then .error stBadAddress
  else if !drop && g.live && (g.f != f || g.rotA != a.rot || g.rotB != b.rot) then .error stBadDescriptor
  else
    match s.badAmong (if drop then ms else es) with
    | some k => .ok (s.uncorrectable x k (0x10 + h))
    | none =>
      let len := runLen t.fmtA a.blockLen b.blockLen
      let g := if g.live then g else
        { g with m := t.m, n := t.n, f := f, rotA := a.rot, rotB := b.rot, layer := a.layer, masked := t.masked,
                 byBlock := t.byBlock, maskOff := t.maskOff, rowBlk := t.rowBlk,
                 slot := if mode = 1 then v.exactSlot t.eng t.group (80 * (t.m * t.n)) else [] }
      let g := if drop then g.feedZero mode len t.k
        else g.feed mode ((List.range t.m).map (fun i => s.operandRow x a i t.k))
          ((List.range t.n).map (fun j => s.operandRow x b j t.k)) len t.k
      let s := if t.masked then s.countMask x h a.layer t.maskOff t.rowBlk t.byBlock else s
      let s := (s.sizeOperand x a t.m t.k).sizeOperand x b t.n t.k
      .ok ((s.keepExact x h mode t.eng g).setHive h (v.setGroup t.eng t.group g))

/-- The value v of a drain before scaling, per element (05 R91 step 1; R100). -/
def Group.values (g : Group) (mode : Nat) : List Fp :=
  if !g.live then List.replicate (g.m * g.n) .zero
  else if mode = 0 then (drainFold g.entries).map f32Val
  else if mode = 1 then g.exact
  else g.exact.map (fun v => f32Val v.toF32)

/-- The drain's scale factor (05 R91 step 2). -/
def Group.factor (g : Group) : F32 :=
  if !g.live then 0x3F800000
  else if g.rotA && g.rotB then ((f32Val g.f).scale (-7)).toF32 else g.f

/-- The sum of squares of the layer whose output activations are written at an address, if there is one, is changed. -/
def State.modOutput (s : State) (dst : Nat) (f : Fp → Fp) : State :=
  let l := Config.outputLayer dst
  { s with layers := if 0 < l ∧ l ≤ 1024 then smod {} s.layers (l - 1) (fun l => { l with outSq := f l.outSq }) else s.layers }

/-- The squares of values written to a layer's output activations join its exact sum (03 R49). -/
def State.noteOutput (s : State) (dst : Nat) (vals : List Fp) : State :=
  s.modOutput dst (fun q => vals.foldl (fun a v => a.add (v.mul v)) q)

/-- Values that an accumulating write replaces in a layer's output activations: their squares leave the sum and those of the new
ones join it (log 38). -/
def State.noteAdded (s : State) (dst : Nat) (old new : List Fp) : State :=
  s.modOutput dst (fun q => new.foldl (fun a v => a.add (v.mul v)) (old.foldl (fun a v => a.sub (v.mul v)) q))

/-- A row that a drain writes: its destination row, its values before scaling, and whether it is frozen (04 R75, R76). -/
structure DrainRow where
  row : Nat
  vals : List Fp
  frozen : Bool

/-- The rows that a drain writes, on the path of its group's layer (04 R75, R76, R392). -/
def State.drainRows (s : State) (x h mode : Nat) (d : DrainOp) (g : Group) : List DrainRow :=
  let vals := g.values mode
  let row := fun i => (vals.drop (i * g.n)).take g.n
  let zero := List.replicate g.n Fp.zero
  let first := 128 * g.rowBlk
  if g.masked && s.onFallback g.layer then
    if g.byBlock then
      let frozen := s.maskBit x h g.maskOff g.rowBlk
      (List.range g.m).map (fun i => ⟨d.row0 + i, if frozen then zero else row i, frozen⟩)
    else
      let here := ((s.unfrozenRows x h g.maskOff (s.maskTotal h g.maskOff g.rowBlk)).drop first).take 128
      here.mapIdx (fun i q => ⟨d.row0 + (q - first), row i, false⟩)
        ++ ((List.range g.m).filter (fun i => s.maskBit x h g.maskOff (first + i))).map (fun i => ⟨d.row0 + i, zero, true⟩)
  else
    (List.range g.m).map (fun i =>
      let frozen := d.discard && s.maskBit x h d.maskOff (if d.byBlock then g.rowBlk else first + i)
      ⟨d.row0 + i, if frozen then zero else row i, frozen⟩)

/-- A drained row into a raw array of BF16 or FP32 (05 R91 step 4). -/
def State.drainRaw (s : State) (x a fmt : Nat) (accum : Bool) : Nat → List F32 → State
  | _, [] => s
  | i, v :: vs =>
    let w := if fmt = 5 then 2 else 4
    let v := if accum then ((s.rawElem x a fmt i).add (f32Val v)).toF32 else v
    (s.stores x (a + w * i) (rawBytes fmt v)).drainRaw x a fmt accum (i + 1) vs

/-- A drained row into the exact form (05 R98). -/
def State.drainExact (s : State) (x a : Nat) (accum : Bool) : Nat → List Fp → State
  | _, [] => s
  | i, v :: vs =>
    let v := if accum then (exactVal (s.loads x (a + 80 * i) 80)).add v else v
    (s.stores x (a + 80 * i) (exactBytes v)).drainExact x a accum (i + 1) vs

/-- One block of a drained row of a narrow destination: zeros for a frozen row, an accumulate-write, a whole block, or a part
(03 R35, R36; 04 R75). -/
def State.drainBlock (s : State) (x a : Nat) (accum frozen empty : Bool) (row pitch bpr col0 : Nat) (vals : List Fp)
    (j : Nat) : State :=
  let l := (s.hdr x a).blockLen
  let first := j * l
  let real := min l (pitch - first)
  let lo := max first col0
  let hi := min (first + real) (col0 + vals.length)
  let piece := (vals.drop (lo - col0)).take (hi - lo)
  let whole := decide (lo = first ∧ hi = first + real)
  if hi ≤ lo then s
  else if accum && !frozen then
    s.accumBlock x a (s.hdr x a) (row * bpr + j) real (List.replicate (lo - first) none ++ piece.map some)
  else if whole then s.writeBlock x a (row * bpr + j) piece
  else if frozen then s.zeroPart x a (row * bpr + j) (lo - first) real (hi - lo)
  else s.writePart x a (row * bpr + j) (lo - first) real piece empty

/-- A drained row of a narrow destination. -/
def State.drainNarrow (s : State) (x a : Nat) (accum rot frozen empty : Bool) (row pitch col0 : Nat) (vals : List Fp) :
    State :=
  let h := s.hdr x a
  let re := rowElems pitch h.blockLen rot
  let vals := if rot then rotate (s.seed h.layer) col0 vals else vals
  let pitch := if rot then re else pitch
  (List.range (re / h.blockLen)).foldl
    (fun s j => s.drainBlock x a accum frozen empty row pitch (re / h.blockLen) col0 vals j) s

/-- What the destination of a drain's row holds before. -/
def State.drainOld (s : State) (x a : Nat) (d : DrainOp) (h : Hdr) (r : DrainRow) : List Fp :=
  if isNarrow d.fmt then ((s.rowVals x a h r.row d.pitch).drop d.col0).take r.vals.length
  else (List.range r.vals.length).map (fun i =>
    let k := r.row * d.pitch + d.col0 + i
    if d.fmt = 15 then exactVal (s.loads x (a + 80 * k) 80) else s.rawElem x a d.fmt k)

/-- The mask that a DRAIN reads: that of DISCARD, or of its group's layer on the fall-back path. -/
def State.drainMask (s : State) (_x h : Nat) (d : DrainOp) (g : Group) : List (Nat × Nat) :=
  if d.discard || (g.masked && s.onFallback g.layer) then
    [s.maskReads h (if g.masked then g.layer else 0xFFFF) (if d.discard then d.maskOff else g.maskOff) g.rowBlk
      (if d.discard then d.byBlock else g.byBlock)]
  else []

/-- One past the last destination row of a DRAIN. -/
def drainTop (d : DrainOp) (rows : List DrainRow) : Nat := rows.foldl (fun m r => max m (r.row + 1)) d.row0

/-- What a DRAIN writes: elements, scales and map, or raw elements. -/
def State.drainWrites (s : State) (x h : Nat) (d : DrainOp) (g : Group) (rows : List DrainRow) : List (Nat × Nat) :=
  let a := hiveAddr h d.dstOff
  let top := drainTop d rows
  if rows.isEmpty then []
  else if isNarrow d.fmt then
    let hd := s.hdr x a
    let re := rowElems d.pitch hd.blockLen (s.rotMode hd.layer)
    [(a, 64 + hd.elemBytes top re), (hd.scales, top * re / hd.blockLen), (hd.map, 2 * ((top * re / hd.blockLen + 63) / 64 * 8))]
  else
    let w := if d.fmt = 5 then 2 else if d.fmt = 6 then 4 else 80
    [(a + w * (d.row0 * d.pitch + d.col0), w * ((top - 1 - d.row0) * d.pitch + g.n))]

/-- What a DRAIN reads: its mask, and of its destination what it adds to, or a narrow header and map. -/
def State.drainReads (s : State) (x h mode : Nat) (d : DrainOp) : List (Nat × Nat) :=
  let g := (s.hiveSt h).group d.eng d.group
  let rows := s.drainRows x h mode d g
  let a := hiveAddr h d.dstOff
  let hd := s.hdr x a
  s.drainMask x h d g ++
    (if d.accum then s.drainWrites x h d g rows
      else if isNarrow d.fmt then hd.ownReads a (drainTop d rows) (rowElems d.pitch hd.blockLen (s.rotMode hd.layer)) else [])

/-- DRAIN at its start (04 R67, R75, R76, R392; 05 R86, R90, R91, R98): the group's tile goes to its destination and the
group is emptied. A frozen row is written as zeros, whatever the factor and ACCUM (R75). -/
def State.runDrain (s : State) (x h mode : Nat) (d : DrainOp) : Res :=
  let a := hiveAddr h d.dstOff
  let v := s.hiveSt h
  let g := v.group d.eng d.group
  let hd := s.hdr x a
  let narrow := isNarrow d.fmt
  let rot := narrow && s.rotMode hd.layer
  let re := rowElems d.pitch hd.blockLen rot
  let ms := s.drainMask x h d g
  let rows := s.drainRows x h mode d g
  let top := drainTop d rows
  let es := s.drainWrites x h d g rows
  if narrow && (!hd.ok a || hd.fmt != d.fmt) then .error stBadDescriptor
  else if rot && (d.accum || d.col0 % 128 != 0 || g.n != 128) then .error stBadDescriptor
  else if !(es ++ ms).all (fun e => s.mayAccess x e.1 e.2) || es.any (fun e => s.isProtected e.1 e.2)
      || (mode = 1 && inExactArea (s.runHives h) (es ++ ms)) then .error stBadAddress
  else
    match s.badAmong (s.drainReads x h mode d) with
    | some k => .ok (s.uncorrectable x k (0x10 + h))
    | none =>
      let f := f32Val g.factor
      let scaled := fun (r : DrainRow) => if r.frozen then r.vals.map (fun _ => (0 : F32)) else r.vals.map (fun v => (v.mul f).toF32)
      let s := s.setHive h (v.setGroup d.eng d.group g.emptied)
      let held := fun (r : DrainRow) => s.drainOld x a d hd r
      let s := if d.accum then
          rows.foldl (fun s r => if r.frozen then s.noteAdded a (held r) []
            else s.noteAdded a (held r) (List.zipWith (fun o v => f32Val (o.add v).toF32) (held r)
              (if d.fmt = 15 then r.vals else (scaled r).map f32Val))) s
        else s.noteOutput a (rows.flatMap (fun r => (scaled r).map f32Val))
      if d.fmt = 15 then
        .ok (rows.foldl (fun s r => s.drainExact x a (d.accum && !r.frozen) (r.row * d.pitch + d.col0) r.vals) s)
      else if narrow then
        let s := (s.sizeMap x hd.map (top * re / hd.blockLen)).beginWrite x a d.accum rot
        .ok (rows.foldl (fun s r => s.drainNarrow x a d.accum rot r.frozen (!g.live) r.row d.pitch d.col0
          ((scaled r).map f32Val)) s)
      else
        .ok (rows.foldl (fun s r => s.drainRaw x a d.fmt (d.accum && !r.frozen) (r.row * d.pitch + d.col0) (scaled r)) s)

end Sys2Proof.Machine
end

