-- ==== Sys2Proof/Machine/Wide.lean ====
section
/-! DEFINITION. The wide unit: WOP as it executes (04 R79, R80, R391, Table 4-7; 05 R98, R102, R103). Array layouts the
spec leaves open are those of log 13. -/

namespace Sys2Proof.Machine

/-- The wide-unit functions of 04 Table 4-7. -/
def wopFuncs : List Nat :=
  [1, 2, 3, 4, 8, 0x10, 0x11, 0x12, 0x13, 0x14, 0x15, 0x20, 0x21, 0x22, 0x23, 0x24, 0x28, 0x29, 0x2A, 0x2B, 0x2C, 0x2D,
   0x40, 0x41, 0x42, 0x43, 0x48, 0x49, 0x4A, 0x4B, 0x50, 0x51]

/-- Functions that may emit exact partials (04 R80), or pairs read as pairs (05 R102). -/
def wopPartial (func : Nat) : Bool := func ∈ [0x10, 0x11, 0x12, 0x4A, 0x40, 0x41, 0x13, 0x14, 0x15]

/-- Extents of a packed array of rows at an address. -/
def State.rowsExtents (s : State) (x a fmt rows len : Nat) : List (Nat × Nat) :=
  if isNarrow fmt then
    let h := s.hdr x a
    let re := rowElems len h.blockLen h.rotated
    [(a, 64 + h.elemBytes rows re), (h.scales, rows * re / h.blockLen)]
  else if fmt = 15 then [(a, 80 * rows * len)]
  else [(a, (if fmt = 5 then 2 else 4) * rows * len)]

/-- A packed array of rows, decoded exactly (04 R391). -/
def State.readRows (s : State) (x a fmt rows len : Nat) : List (List Fp) :=
  (List.range rows).map (fun r =>
    if isNarrow fmt then s.rowVals x a (s.hdr x a) r len
    else if fmt = 15 then (List.range len).map (fun i => exactVal (s.loads x (a + 80 * (r * len + i)) 80))
    else (List.range len).map (fun i => s.rawElem x a fmt (r * len + i)))

/-- A header named by a format code is sound, and equals the code. -/
def State.fmtOk (s : State) (x a fmt : Nat) : Bool :=
  if isNarrow fmt then (s.hdr x a).ok a && decide ((s.hdr x a).fmt = fmt) else true

/-- FP32 rows written packed in a format (04 R391). -/
def State.writeRowsAs (s : State) (x a fmt : Nat) (rows : List (List F32)) : State :=
  if isNarrow fmt then
    let h := s.hdr x a
    let rot := s.rotMode h.layer
    let s := s.sizeMap x h.map (rows.length * rowElems (rows.headD []).length h.blockLen rot / h.blockLen)
    (s.beginWrite x a false rot).writeRows x a 0 (rows.map (fun r => r.map f32Val))
  else s.stores x a ((rows.flatten.map (rawBytes fmt)).flatten)

/-- An elementwise unary function, one rounding (04 Table 4-7): the free result within the table's bound where the
table gives one. GELU and SILU at -infinity give their limit, -0 (log 45). -/
def unaryFn (func : Nat) (v : Fp) : F32 :=
  let free := Config.wideFn func 0 [v.toF32]
  match func with
  | 0x20 => f32Div .one v
  | 0x21 => f32Rsqrt v
  | 0x22 => f32Sqrt v
  | 0x23 => f32Exp2 v
  | 0x24 => f32Log2 v
  | 0x08 => v.toF32
  | _ =>
    match v with
    | .nan => f32Nan
    | .inf s =>
      match func with
      | 0x28 => if s then 0 else f32Inf false
      | 0x29 => if s then f32Nan else f32Inf false
      | 0x2A => if s then 0xBF800000 else 0x3F800000
      | 0x2B => if s then 0 else 0x3F800000
      | _ => if s then 0x80000000 else f32Inf false
    | .fin s m _ =>
      match func with
      | 0x28 => withinUlp 2 v.expHp free
      | 0x29 => if m = 0 then f32Inf true else if s then f32Nan else withinUlp 2 v.lnHp free
      | 0x2A => withinUlp 2 v.tanhHp free
      | 0x2B => withinUlp 2 v.sigmoidHp free
      | 0x2C => withinUlp 2 v.geluHp free
      | _ => withinUlp 2 ((v.mul v.sigmoidHp).trim) free

/-- The exact statistic that a partial emits, per row (04 R80). LAYERNORM emits the sum of the row, or with the row's mean in
AUX the sum of squares about it (log 45). -/
def rowExact (func : Nat) (src aux : List Fp) (m : Option Fp) : Fp :=
  match func, m with
  | 0x11, _ => Fp.sum (List.zipWith Fp.mul src aux)
  | 0x12, _ => Fp.sum (src.map (fun v => v.mul v))
  | 0x40, _ => Fp.sum (src.map (fun v => v.mul v))
  | 0x41, some m => Fp.sum (src.map (fun v => (v.sub m).mul (v.sub m)))
  | 0x4A, some m => Fp.sum (src.map (fun v => f32Val (unaryFn 0x28 (f32Val (v.sub m).toF32))))
  | _, _ => Fp.sum src

/-- The maximum of a row, a NaN if it holds one. -/
def rowMax (xs : List Fp) : Fp :=
  match xs with
  | [] => .nan
  | v :: r => r.foldl (fun a b => if a.isNan || b.isNan then .nan else if Fp.lt a b then b else a) v

/-- The parameters of a norm: g, β and ε (04 Table 4-7). -/
structure NormParams where
  g : List Fp
  be : List Fp
  eps : Fp

/-- A reduction: the exact sum rounded once to FP32 (03 R43). -/
def reduced (xs : List Fp) : Fp := f32Val (Fp.sum xs).toF32

/-- The statistics of a row: for LAYERNORM its mean, EXSUM ÷ n in FP32, and the sum of squares about it (04 Table 4-7). -/
def normStats (ln : Bool) (src : List Fp) : Fp × Fp :=
  let mean := if ln then f32Val (f32Div (reduced src) (.ofNat src.length)) else .zero
  (mean, reduced (src.map (fun v => (v.sub mean).mul (v.sub mean))))

/-- 1 / sqrt(q ÷ n + ε). -/
def normFactor (q eps : Fp) (n : Nat) : Fp := ((q.mean n).add eps).trim.rsqrtHp

/-- One row of RMSNORM or LAYERNORM: within 3 ULP of the value from the statistics. The free result of an element rests on the
element, its parameters and the statistics alone (04 R80; log 13). -/
def normRow (func : Nat) (src : List Fp) (p : NormParams) : List F32 :=
  let (mean, q) := normStats (func = 0x41) src
  let r := normFactor q p.eps src.length
  src.mapIdx (fun i v =>
    let g := p.g.getD i .one
    let be := if func = 0x41 then p.be.getD i .zero else .zero
    withinUlp 3 ((((v.sub mean).mul r).mul g).add be).trim
      (Config.wideFn func src.length ([v, g, be, p.eps, mean, q].map Fp.toF32)))

/-- One row of RMSNORM_BWD or LAYERNORM_BWD: the gradient of the norm's input, its row terms exact sums
rounded once to FP32 (03 R43), within 4 ULP. -/
def normBwdRow (func : Nat) (src dy : List Fp) (p : NormParams) : List F32 :=
  let ln := decide (func = 0x43)
  let n := src.length
  let (mean, q) := normStats ln src
  let r := normFactor q p.eps n
  let a := List.zipWith Fp.mul dy p.g
  let d := src.map (fun v => v.sub mean)
  let ma := if ln then (reduced a).mean n else .zero
  let mb := ((reduced (List.zipWith Fp.mul a d)).mean n).mul (r.mul r)
  let inputs := (src ++ dy ++ p.g ++ [p.eps]).map Fp.toF32
  src.mapIdx (fun i _ =>
    let y := r.mul (((a.getD i .zero).sub ma).sub ((d.getD i .zero).mul mb).trim)
    withinUlp 4 y.trim (Config.wideFn func i inputs))

/-- eᵢ for a row with maximum m (04 Table 4-7, SOFTMAX). -/
def expRow (src : List Fp) (m : Fp) : List F32 := src.map (fun v => unaryFn 0x28 (f32Val (v.sub m).toF32))

/-- s = EXSUM(e) of a row with maximum m. -/
def expSum (src : List Fp) (m : Fp) : Fp := reduced ((expRow src m).map f32Val)

/-- A soft-max quotient of an element, from the row's m and s: the free result within the table's relative error of
exp(x - m) / s. SOFTMAX, SM_FINISH and XENT share it, so that a split row gives the bits of the whole one (R80, log 13). -/
def softQuot (x m s : Fp) : F32 :=
  let d := x.sub m
  if d.nonFinite || s.nonFinite || s.isZero then f32Div (f32Val (unaryFn 0x28 (f32Val d.toF32))) s
  else
    let q := (Fp.divHp d.expHp s).trim
    withinAbs (((d.abs.add (.ofNat 3)).mul q.abs).scale (-23)).trim q (Config.wideFn 0x48 0 [x.toF32, m.toF32, s.toF32])

/-- One row of SOFTMAX under a mask of the elements kept; the others give +0. -/
def softRow (src : List Fp) (keep : List Bool) : List F32 :=
  let kept := ((List.zip src keep).filter (·.2)).map (·.1)
  let m := rowMax kept
  let s := expSum kept m
  List.zipWith (fun v k => if k then softQuot v m s else 0) src keep

/-- The bytes of a value and position pair (05, Positions). -/
def pairBytes (v : F32) (p : Nat) : List Byte := natLe v.toNat 4 ++ natLe p 4

/-- The order of 05 R102: `a` ranks strictly before `b` for MAXPOS and TOPK (`top`), or for MINPOS. -/
def ranksBefore (top : Bool) (a b : Fp) : Bool :=
  match a, b with
  | .nan, .nan => false
  | .nan, _ => true
  | _, .nan => false
  | a, b => if top then Fp.lt b a else Fp.lt a b

/-- The best element of a list of (value, position), ties to the lower position. -/
def bestPos (top : Bool) : List (Fp × Nat) → Option (Fp × Nat)
  | [] => none
  | p :: r =>
    match bestPos top r with
    | none => some p
    | some q =>
      if ranksBefore top p.1 q.1 || (!ranksBefore top q.1 p.1 && decide (p.2 ≤ q.2)) then some p else some q

/-- The k best, in order; a short row is completed with -infinity at position 0xFFFF_FFFF (05 R103),
which MAXPOS and MINPOS give for an empty row too (log 45). -/
def topK (top : Bool) : Nat → List (Fp × Nat) → List (F32 × Nat)
  | 0, _ => []
  | k + 1, ps =>
    match bestPos top ps with
    | none => (f32Inf true, 0xFFFFFFFF) :: topK top k ps
    | some p => (p.1.toF32, p.2) :: topK top k (ps.erase p)

/-- The (value, position) elements of row `r` of a position function's source, each value as the FP32 word that is reported, so
that parts rank as the whole row does (05 R102, R104). -/
def State.posRow (s : State) (x : Nat) (w : WopOp) (src r : Nat) : List (Fp × Nat) :=
  if w.part then
    (List.range w.len).map (fun i => (decodeElem 6 (s.loadNat x (src + 8 * (r * w.len + i)) 4),
      s.loadNat x (src + 8 * (r * w.len + i) + 4) 4))
  else ((s.readRows x src w.srcFmt w.rows w.len).getD r []).mapIdx (fun i v =>
    (f32Val v.toF32, (i + w.x7) % 2 ^ 32))

/-- Functions whose AUX is an array in the format of SRC: FMA, EXDOT and the backward passes. -/
def wopAuxArray (func : Nat) : Bool := func ∈ [3, 0x11, 0x42, 0x43, 0x49]

/-- The address of the AUX array: behind the parameters of a norm, at the next multiple of 64 bytes (log 13). -/
def WopOp.auxArray (w : WopOp) (aux : Nat) : Nat :=
  match w.func with
  | 0x42 => aux + (4 * w.len + 4 + 63) / 64 * 64
  | 0x43 => aux + (8 * w.len + 4 + 63) / 64 * 64
  | _ => aux

/-- A row split over hives, whose m and s AUX gives with the target (04 R80; log 13). -/
def WopOp.combined (w : WopOp) : Bool := w.part && decide (w.func = 0x50)

/-- An exact partial takes the place of a rounded result. -/
def WopOp.exactOut (w : WopOp) : Bool := w.part && !(decide (w.func ∈ [0x13, 0x14, 0x15, 0x50]))

/-- Bytes of AUX that a function reads: arrays in the source format, FP32 parameters, targets or a mask (log 13). -/
def State.wopAuxExtents (s : State) (x : Nat) (w : WopOp) (aux : Nat) : List (Nat × Nat) :=
  (if wopAuxArray w.func then s.rowsExtents x (w.auxArray aux) w.srcFmt w.rows w.len else [])
    ++ match w.func with
      | 4 => [(aux, 4)]
      | 0x40 => if w.part then [] else [(aux, 4 * w.len + 4)]
      | 0x41 => if w.part then (if w.auxOff = 0 then [] else [(aux, 4 * w.rows)]) else [(aux, 8 * w.len + 4)]
      | 0x42 => [(aux, 4 * w.len + 4)]
      | 0x43 => [(aux, 8 * w.len + 4)]
      | 0x4A => [(aux, 4 * w.rows)]
      | 0x4B => [(aux, 8 * w.rows)]
      | 0x50 => [(aux, (if w.combined then 12 else 4) * w.rows)]
      | 0x10 => if w.srcFmt = 15 ∧ !w.part then [(aux, 4)] else []
      | 0x48 => if w.auxOff = 0 then [] else [(aux, w.rows * ((w.len + 7) / 8))]
      | _ => []

/-- Elements of each destination row. -/
def WopOp.outLen (w : WopOp) : Nat := if w.func ∈ [0x10, 0x11, 0x12, 0x4A, 0x51] then 1 else w.len

/-- The FP32 word at an index of AUX. -/
def State.auxVal (s : State) (x aux i : Nat) : Fp := decodeElem 6 (s.loadNat x (aux + 4 * i) 4)

/-- The parameters of a norm at AUX: g, β for LAYERNORM, then ε (log 13). -/
def State.normParams (s : State) (x aux len : Nat) (ln : Bool) : NormParams :=
  { g := (List.range len).map (s.auxVal x aux)
    be := if ln then (List.range len).map (fun i => s.auxVal x aux (len + i)) else []
    eps := s.auxVal x aux (if ln then 2 * len else len) }

/-- The mask of a row at AUX: bit k of byte n is of element 8n + k, rows in whole bytes; no mask keeps all (log 13). -/
def State.softMask (s : State) (x : Nat) (w : WopOp) (aux row : Nat) : List Bool :=
  (List.range w.len).map (fun i => decide (w.auxOff = 0)
    || (s.load x (aux + row * ((w.len + 7) / 8) + i / 8)).getLsbD (i % 8) == Config.maskKeeps)

/-- The target, m and s of a row of XENT (log 13). -/
def State.xentRow (s : State) (x : Nat) (w : WopOp) (aux row : Nat) (src : List Fp) : Nat × Fp × Fp :=
  if w.combined then (s.loadNat x (aux + 12 * row) 4, s.auxVal x aux (3 * row + 1), s.auxVal x aux (3 * row + 2))
  else (s.loadNat x (aux + 4 * row) 4, rowMax src, expSum src (rowMax src))

/-- The gradients of a row of XENT: eᵢ / s - [i = target]. -/
def xentGrad (src : List Fp) (t : Nat) (m s : Fp) : List F32 :=
  src.mapIdx (fun i v => if i = t then f32Add (softQuot v m s) 0xBF800000 else softQuot v m s)

/-- The loss of a row of XENT: LSE - x_target within the table's absolute error; a free value where the target is no element of
the row (log 13). -/
def xentLoss (src : List Fp) (t : Nat) (m s : Fp) : F32 :=
  match src[t]? with
  | none => Config.wideFn 0x52 t (src.map Fp.toF32)
  | some v =>
    let free := Config.wideFn 0x50 0 [v.toF32, m.toF32, s.toF32]
    let lse := if s.nonFinite || s.isZero then m.add (f32Val (unaryFn 0x29 s)) else (m.add s.lnHp).trim
    if lse.nonFinite || v.nonFinite then (lse.sub v).toF32
    else withinAbs ((lse.abs.add (.ofNat 4)).scale (-22)) (lse.sub v).trim free

/-- The raw words of a row of CONVERT: a BF16 word is the high half of an FP32 word, so that a NaN keeps its bits (03 R28). -/
def State.rawWord (s : State) (x a fmt i : Nat) : F32 :=
  if fmt = 5 then BitVec.ofNat 32 (s.loadNat x (a + 2 * i) 2 * 65536) else BitVec.ofNat 32 (s.loadNat x (a + 4 * i) 4)

/-- The FP32 rows a WOP writes in DST_FMT. -/
def State.wopRows (s : State) (x : Nat) (w : WopOp) (src dst aux : Nat) : List (List F32) :=
  let rows := s.readRows x src w.srcFmt w.rows w.len
  let auxRows := fun (_ : Unit) => s.readRows x (w.auxArray aux) w.srcFmt w.rows w.len
  match w.func with
  | 1 => List.zipWith (List.zipWith (fun (a b : Fp) => (a.add b).toF32)) rows (s.readRows x dst w.dstFmt w.rows w.len)
  | 2 => List.zipWith (List.zipWith (fun (a b : Fp) => (a.mul b).toF32)) rows (s.readRows x dst w.dstFmt w.rows w.len)
  | 3 => List.zipWith (List.zipWith (fun (a b : Fp) => (a.add b).toF32))
      (List.zipWith (List.zipWith Fp.mul) rows (auxRows ())) (s.readRows x dst w.dstFmt w.rows w.len)
  | 4 => rows.map (fun r => r.map (fun v => (v.mul (s.auxVal x aux 0)).toF32))
  | 8 =>
    if isNarrow w.srcFmt then rows.map (fun r => r.map Fp.toF32)
    else (List.range w.rows).map (fun r => (List.range w.len).map (fun i => s.rawWord x src w.srcFmt (r * w.len + i)))
  | 0x10 => rows.map (fun r => [((Fp.sum r).mul (if w.srcFmt = 15 then s.auxVal x aux 0 else .one)).toF32])
  | 0x11 => List.zipWith (fun r a => [(rowExact 0x11 r a none).toF32]) rows (auxRows ())
  | 0x12 => rows.map (fun r => [(rowExact 0x12 r [] none).toF32])
  | 0x4A => rows.mapIdx (fun i r => [(rowExact 0x4A r [] (some (s.auxVal x aux i))).toF32])
  | 0x40 => rows.map (fun r => normRow 0x40 r (s.normParams x aux w.len false))
  | 0x41 => rows.map (fun r => normRow 0x41 r (s.normParams x aux w.len true))
  | 0x42 => List.zipWith (fun r a => normBwdRow 0x42 r a (s.normParams x aux w.len false)) rows (auxRows ())
  | 0x43 => List.zipWith (fun r a => normBwdRow 0x43 r a (s.normParams x aux w.len true)) rows (auxRows ())
  | 0x48 => rows.mapIdx (fun k r => softRow r (s.softMask x w aux k))
  | 0x49 => List.zipWith (fun y dy =>
      let d := reduced (List.zipWith Fp.mul y dy)
      (List.zip y dy).mapIdx (fun i p => withinUlp 3 ((p.1.mul (p.2.sub d)).trim)
        (Config.wideFn 0x49 i ((y ++ dy).map Fp.toF32)))) rows (auxRows ())
  | 0x4B => rows.mapIdx (fun i r => r.map (fun v => softQuot v (s.auxVal x aux (2 * i)) (s.auxVal x aux (2 * i + 1))))
  | 0x50 => rows.mapIdx (fun k r => let (t, m, z) := s.xentRow x w aux k r; xentGrad r t m z)
  | 0x51 => [[(Fp.sum rows.flatten).toF32]]
  | _ => rows.map (fun r => r.map (unaryFn w.func))

/-- The per-row losses of XENT, after the gradient array (log 13). -/
def State.xentLosses (s : State) (x : Nat) (w : WopOp) (src aux : Nat) : List F32 :=
  (s.readRows x src w.srcFmt w.rows w.len).mapIdx (fun k r => let (t, m, z) := s.xentRow x w aux k r; xentLoss r t m z)

/-- What a WOP reads of SRC and AUX. -/
def State.wopIns (s : State) (x h : Nat) (w : WopOp) : List (Nat × Nat) :=
  let src := hiveAddr h w.srcOff
  (if w.func ∈ [0x13, 0x14, 0x15] && w.part then [(src, 8 * w.rows * w.len)] else s.rowsExtents x src w.srcFmt w.rows w.len)
    ++ s.wopAuxExtents x w (hiveAddr h w.auxOff)

/-- Elements in a stored row of a narrow destination of a WOP. -/
def State.wopRowElems (s : State) (x dst : Nat) (w : WopOp) : Nat :=
  let hd := s.hdr x dst
  rowElems w.outLen hd.blockLen (s.rotMode hd.layer)

/-- Rows that a WOP writes. -/
def WopOp.outRows (w : WopOp) : Nat := if w.func = 0x51 then 1 else w.rows

/-- What a WOP writes. -/
def State.wopOuts (s : State) (x h : Nat) (w : WopOp) : List (Nat × Nat) :=
  let dst := hiveAddr h w.dstOff
  (if w.func ∈ [0x13, 0x14, 0x15] then [(dst, 8 * w.rows * (if w.func = 0x15 then w.auxOff / 64 else 1))]
    else if w.exactOut then [(dst, 80 * w.rows)]
    else if isNarrow w.dstFmt then
      let hd := s.hdr x dst
      let re := s.wopRowElems x dst w
      [(dst, 64 + hd.elemBytes w.outRows re), (hd.scales, w.outRows * re / hd.blockLen),
       (hd.map, 2 * ((w.outRows * re / hd.blockLen + 63) / 64 * 8))]
    else [(dst, (if w.dstFmt = 5 then 2 else 4) * w.outRows * w.outLen)])
  ++ (if w.func = 0x50 then [(dst + (if w.dstFmt = 5 then 2 else 4) * w.rows * w.len, 4 * w.rows)] else [])

/-- What a WOP reads of its destination: what it adds to or multiplies, or a narrow header and map. -/
def State.wopOwn (s : State) (x h : Nat) (w : WopOp) : List (Nat × Nat) :=
  let dst := hiveAddr h w.dstOff
  if w.func ∈ [0x13, 0x14, 0x15] || w.exactOut then []
  else if isNarrow w.dstFmt then (s.hdr x dst).ownReads dst w.outRows (s.wopRowElems x dst w)
  else if w.func ∈ [1, 2, 3] then s.wopOuts x h w
  else []

/-- WOP at its start. -/
def State.runWop (s : State) (x h mode : Nat) (w : WopOp) : Res :=
  let src := hiveAddr h w.srcOff
  let dst := hiveAddr h w.dstOff
  let aux := hiveAddr h w.auxOff
  let pos := w.func ∈ [0x13, 0x14, 0x15]
  let k := if w.func = 0x15 then w.auxOff / 64 else 1
  let exact := w.exactOut
  let outEs := s.wopOuts x h w
  let es := s.wopIns x h w ++ outEs
  if !s.fmtOk x src w.srcFmt || (wopAuxArray w.func && !s.fmtOk x (w.auxArray aux) w.srcFmt)
      || (!exact && !pos && !s.fmtOk x dst w.dstFmt) then .error stBadDescriptor
  else if !es.all (fun e => s.mayAccess x e.1 e.2) || outEs.any (fun e => s.isProtected e.1 e.2)
      || (mode = 1 && inExactArea (s.runHives h) es) then .error stBadAddress
  else
    match s.badAmong (s.wopIns x h w ++ s.wopOwn x h w) with
    | some b => .ok (s.uncorrectable x b (0x40 + h))
    | none =>
      if pos then
        .ok (s.stores x dst (((List.range w.rows).map (fun r =>
          ((topK (w.func != 0x14) k (s.posRow x w src r)).map (fun p => pairBytes p.1 p.2)).flatten)).flatten))
      else if exact then
        let rows := s.readRows x src w.srcFmt w.rows w.len
        let auxs := if w.func = 0x11 then s.readRows x aux w.srcFmt w.rows w.len else []
        .ok (s.stores x dst ((rows.mapIdx (fun i r => exactBytes (rowExact w.func r (auxs.getD i [])
          (if w.auxOff = 0 ∧ w.func = 0x41 then none else some (s.auxVal x aux i))))).flatten))
      else
        let out := s.wopRows x w src dst aux
        let loss := s.xentLosses x w src aux
        let s := (s.writeRowsAs x dst w.dstFmt out).noteOutput dst (out.flatten.map f32Val)
        .ok (if w.func = 0x50 then
            s.stores x (dst + (if w.dstFmt = 5 then 2 else 4) * w.rows * w.len) ((loss.map (rawBytes 6)).flatten)
          else s)

end Sys2Proof.Machine
end

