-- ==== Sys2Proof/Machine/Transfer.lean ====
section
/-! DEFINITION. The DMA modes of 04 Table 4-6 as they execute, for a hive's D queue and for a ring DMA: COPY, CONVERT,
TRANSPOSE, ADD_WRITE (04 R70-R73, R390), GATHER and SCATTER_ADD (07 R125-R129). -/

namespace Sys2Proof.Machine

/-- What a transfer leaves: the state, its status and its RESULT (13 Table 13-4), or the uncorrectable unit it met, with its
requester's code, before anything moved. -/
structure XferOut where
  s : State
  status : Nat
  result : Nat := 0
  bad : Option (Nat × Nat) := none

/-- Bytes between the source rows of a raw array (04 R390). -/
def DmaOp.srcPitch (d : DmaOp) : Nat :=
  if d.pitch = 0 then (if d.srcFmt = 5 then 2 else 4) * d.cols else d.pitch

/-- Bytes of a side of a transfer that is a raw array of `rows` by `cols`, rows `pitch` bytes apart. -/
def rawSpan (fmt rows cols pitch : Nat) : Nat :=
  if rows = 0 then 0 else (rows - 1) * pitch + (if fmt = 5 then 2 else 4) * cols

/-- Rows and columns of a transfer's destination. -/
def DmaOp.outRows (d : DmaOp) : Nat := if d.mode = 2 then d.cols else d.count
def DmaOp.outCols (d : DmaOp) : Nat := if d.mode = 2 then d.count else d.cols

/-- The extents of a transfer that no header in memory fixes, checked where the descriptor is read or the instruction fetched; a
side that a header names gives its header's 32 bytes (06 R107). -/
def DmaOp.plainExtents (d : DmaOp) : List (Nat × Nat) :=
  match d.mode with
  | 0 => [(d.src, d.count), (d.dst, d.count)]
  | 3 => [(d.src, if isNarrow d.srcFmt then 32 else d.count), (d.dst, 4 * (d.count * 8 / fmtBits d.srcFmt))]
  | 4 => [(d.src, 64 + 4 * d.count), (d.dst, d.count * d.cols)]
  | 5 => [(d.src, 64 + 4 * d.count), (d.dst, 1)]
  | _ =>
    [(d.src, if isNarrow d.srcFmt then 32 else rawSpan d.srcFmt d.count d.cols d.srcPitch),
     (d.dst, if isNarrow d.dstFmt then 32 else rawSpan d.dstFmt d.outRows d.outCols ((if d.dstFmt = 5 then 2 else 4) * d.outCols))]

/-- The extents a transfer reads, once headers fix them (06 R107). -/
def State.dmaReads (s : State) (x : Nat) (d : DmaOp) : List (Nat × Nat) :=
  match d.mode with
  | 0 => [(d.src, d.count)]
  | 3 =>
    if isNarrow d.srcFmt then
      let h := s.hdr x d.src
      [(d.src, 64 + d.count), (h.scales, d.count * 8 / fmtBits h.fmt / h.blockLen)]
    else [(d.src, d.count)]
  | _ =>
    if isNarrow d.srcFmt then s.rowsExtents x d.src d.srcFmt d.count d.cols
    else [(d.src, rawSpan d.srcFmt d.count d.cols d.srcPitch)]

/-- A narrow tensor that a transfer writes: its header's address and its rows. A masked TRANSPOSE stages its result in shards of
128 rows, one behind the other, each under a header of its own (04, Partly trained layers; log 41). -/
structure Shard where
  addr : Nat
  rows : Nat

/-- Stored elements of a row of a narrow destination at an address. -/
def State.dstElems (s : State) (x a cols : Nat) : Nat :=
  let h := s.hdr x a
  rowElems cols h.blockLen (s.rotMode h.layer)

/-- The narrow tensors that a transfer writes. -/
def State.shards (s : State) (x : Nat) (d : DmaOp) : List Shard :=
  if d.masked then
    let step := 64 + (s.hdr x d.dst).elemBytes 128 (s.dstElems x d.dst d.outCols)
    (List.range ((d.outRows + 127) / 128)).map (fun j => ⟨d.dst + j * step, min 128 (d.outRows - 128 * j)⟩)
  else [⟨d.dst, d.outRows⟩]

/-- The extents of a narrow tensor that is written: elements, scales and map. -/
def State.shardExtents (s : State) (x cols : Nat) (t : Shard) : List (Nat × Nat) :=
  let h := s.hdr x t.addr
  let re := s.dstElems x t.addr cols
  [(t.addr, 64 + h.elemBytes t.rows re), (h.scales, t.rows * re / h.blockLen),
   (h.map, 2 * ((t.rows * re / h.blockLen + 63) / 64 * 8))]

/-- The extents a transfer writes. -/
def State.dmaWrites (s : State) (x : Nat) (d : DmaOp) : List (Nat × Nat) :=
  match d.mode with
  | 0 => [(d.dst, d.count)]
  | 3 => [(d.dst, 4 * (d.count * 8 / fmtBits d.srcFmt))]
  | _ =>
    if isNarrow d.dstFmt then ((s.shards x d).map (s.shardExtents x d.outCols)).flatten
    else [(d.dst, (if d.dstFmt = 5 then 2 else 4) * d.outRows * d.outCols)]

/-- What a transfer reads of its destination: all of it to add to, a narrow tensor's header and map (03 R33, R39). -/
def State.dmaOwnReads (s : State) (x : Nat) (d : DmaOp) : List (Nat × Nat) :=
  if d.mode = 3 then s.dmaWrites x d
  else if d.mode ≠ 0 ∧ isNarrow d.dstFmt then
    ((s.shards x d).map (fun t => (s.hdr x t.addr).ownReads t.addr t.rows (s.dstElems x t.addr d.outCols))).flatten
  else []

/-- Row `r` of the source of CONVERT and TRANSPOSE, its values exact but for the rounding of a FIXED scale (04 R71). -/
def State.dmaVals (s : State) (x : Nat) (d : DmaOp) (r : Nat) : List Fp :=
  if isNarrow d.srcFmt then s.rowVals x d.src (s.hdr x d.src) r d.cols true
  else (List.range d.cols).map (fun c => s.rawElem x (d.src + r * d.srcPitch) d.srcFmt c)

/-- The same row as FP32 words: raw elements keep their bits, a BF16 word as the high half of an FP32 word. -/
def State.dmaWords (s : State) (x : Nat) (d : DmaOp) (r : Nat) : List F32 :=
  if isNarrow d.srcFmt then (s.dmaVals x d r).map Fp.toF32
  else (List.range d.cols).map (fun c => s.rawWord x (d.src + r * d.srcPitch) d.srcFmt c)

/-- Rows and columns exchanged. -/
def transposeRows {α : Type} (d : α) (rows : List (List α)) (cols : Nat) : List (List α) :=
  (List.range cols).map (fun c => rows.map (fun r => r.getD c d))

/-- The bytes of a row in a raw format; a BF16 to BF16 move keeps its bits. -/
def rawRow (srcFmt dstFmt : Nat) (r : List F32) : List Byte :=
  (r.map (fun v => if dstFmt = 5 ∧ srcFmt = 5 then natLe (v.toNat / 65536) 2 else rawBytes dstFmt v)).flatten

/-- The rows of a transfer's result. -/
def DmaOp.result {α : Type} (d : DmaOp) (zero : α) (row : Nat → List α) : List (List α) :=
  let rows := (List.range d.count).map row
  if d.mode = 2 then transposeRows zero rows d.cols else rows

/-- Rows written from the first of a narrow tensor. -/
def State.putShard (s : State) (x cols : Nat) (t : Shard) (rows : List (List Fp)) : State :=
  let h := s.hdr x t.addr
  let s := s.sizeMap x h.map (t.rows * s.dstElems x t.addr cols / h.blockLen)
  (s.beginWrite x t.addr false (s.rotMode h.layer)).writeRows x t.addr 0 rows

/-- The rows of each shard of a masked TRANSPOSE on the path of its destination's layer: all of them on the main path (04 R75);
on the fall-back path frozen blocks are skipped, or the unfrozen rows packed, with zeros to the end of the last shard used
(R76). -/
def State.maskedRows (s : State) (x h : Nat) (d : DmaOp) (rows : List (List Fp)) : List (Shard × List (List Fp)) :=
  let ts := s.shards x d
  let cut := chunks 128 (rows.length + 1) rows
  if s.onFallback (s.hdr x d.dst).layer then
    if d.byBlock then
      ((List.zip ts cut).mapIdx (fun m p => (m, p))).filterMap (fun p => if s.maskBit x h d.maskOff p.1 then none else some p.2)
    else
      let packed := (s.unfrozenRows x h d.maskOff rows.length).map (fun i => rows.getD i [])
      let zero := List.replicate d.outCols Fp.zero
      List.zipWith (fun t r => (t, r ++ List.replicate (t.rows - r.length) zero)) ts (chunks 128 (packed.length + 1) packed)
  else List.zip ts cut

/-- The result of CONVERT or TRANSPOSE in its destination; `h` is the hive whose mask a masked one reads. -/
def State.dmaPut (s : State) (x h : Nat) (d : DmaOp) : State :=
  if isNarrow d.dstFmt then
    let rows := d.result Fp.zero (s.dmaVals x d)
    if d.masked then
      let ps := s.maskedRows x h d rows
      let v := s.hiveSt h
      let s := s.setHive h { v with maskRows := sput 0 v.maskRows d.maskOff d.outRows }
      ps.foldl (fun s p => (s.putShard x d.outCols p.1 p.2).noteOutput p.1.addr (p.2.flatMap (·.map (fun v => f32Val v.toF32)))) s
    else (s.putShard x d.outCols ⟨d.dst, d.outRows⟩ rows).noteOutput d.dst (rows.flatMap (·.map (fun v => f32Val v.toF32)))
  else
    let rows := d.result 0 (s.dmaWords x d)
    (s.stores x d.dst ((rows.map (rawRow d.srcFmt d.dstFmt)).flatten)).noteOutput d.dst (rows.flatMap (·.map f32Val))

/-- The source elements of ADD_WRITE in storage order (04 R390). A rotated source is inverted by segments of 128 elements, each
numbered by its place in storage order, since no field gives the length of its rows (log 45). -/
def State.addSource (s : State) (x : Nat) (d : DmaOp) : List Fp :=
  let n := d.count * 8 / fmtBits d.srcFmt
  if isNarrow d.srcFmt then
    let h := s.hdr x d.src
    let vs := (((List.range (n / h.blockLen)).map (fun b => s.blockVals x d.src h b)).flatten).map (decodeFixed h)
    let vs := if h.rotated then ((chunks 128 vs.length vs).mapIdx (fun g ys => unrotate (s.seed h.layer) (128 * g) ys)).flatten
      else vs
    vs.take n
  else (List.range n).map (s.rawElem x d.src d.srcFmt)

/-- ADD_WRITE: each FP32 destination element takes one rounded sum (05 R85). -/
def State.addWrite (s : State) (x a : Nat) : Nat → List Fp → State
  | _, [] => s
  | i, v :: vs =>
    let old := s.rawElem x a 6 i
    let new := (old.add v).toF32
    ((s.storeNat x (a + 4 * i) 4 new.toNat).noteAdded a [old] [f32Val new]).addWrite x a (i + 1) vs

/-- The start-time checks of a transfer's shapes against headers (04 R71-R73, R390; 03 R32, R44). -/
def State.dmaShapeOk (s : State) (x : Nat) (d : DmaOp) : Bool :=
  let hs := s.hdr x d.src
  let hd := s.hdr x d.dst
  let srcOk := !isNarrow d.srcFmt || (hs.ok d.src && decide (hs.fmt = d.srcFmt))
  let dstOk := !isNarrow d.dstFmt || (s.shards x d).all (fun t =>
    let h := s.hdr x t.addr
    h.ok t.addr && decide (h.fmt = d.dstFmt) && decide (h.blockLen = hd.blockLen))
  match d.mode with
  | 0 => true
  | 1 => srcOk && dstOk
  | 2 =>
    srcOk && dstOk
      && !(isNarrow d.srcFmt && hs.rotated && (d.count % 128 != 0 || d.cols % 128 != 0))
      && (!isNarrow d.srcFmt || d.cols % hs.blockLen == 0) && (!isNarrow d.dstFmt || d.count % hd.blockLen == 0)
  | _ => srcOk && (!isNarrow d.srcFmt || d.count % (hs.blockLen * fmtBits hs.fmt / 8) == 0)

/-- The hive on whose D queue a transfer runs and its run's mode; none for a ring DMA. -/
abbrev DmaSite := Option (Nat × Nat)

/-- The extents meet the exact group area of a run in exact mode (05 R99). -/
def State.siteClash (s : State) (site : DmaSite) (es : List (Nat × Nat)) : Bool :=
  match site with
  | some (h, mode) => decide (mode = 1) && inExactArea (s.runHives h) es
  | none => false

/-- The bytes of the row mask that a masked TRANSPOSE reads. -/
def DmaOp.maskReads (d : DmaOp) (h : Nat) : List (Nat × Nat) :=
  if d.masked then
    [(hiveAddr h d.maskOff, if d.byBlock then ((d.outRows + 127) / 128 + 7) / 8 else (d.outRows + 7) / 8)]
  else []

/-- The requester that a log entry of an uncorrectable access names for a DMA engine, and for a forager (log 46). -/
def reqDma : Nat := 0x80
def reqForager : Nat := 0x81

/-- COPY, CONVERT, TRANSPOSE and ADD_WRITE at their start. -/
def State.runMove (s : State) (x : Nat) (d : DmaOp) (site : DmaSite) : XferOut :=
  let h := (site.map (·.1)).getD 0
  let rd := s.dmaReads x d ++ d.maskReads h
  let wr := s.dmaWrites x d
  if !s.dmaShapeOk x d then { s := s, status := stBadDescriptor }
  else if !(rd ++ wr).all (fun e => s.mayAccess x e.1 e.2) || wr.any (fun e => s.isProtected e.1 e.2)
      || s.siteClash site (rd ++ wr) then { s := s, status := stBadAddress }
  else
    match s.badAmong (rd ++ s.dmaOwnReads x d) with
    | some k => { s := s, status := stStepFailed, bad := some (k, reqDma) }
    | none =>
      let s := (s.chargeAll (rd ++ s.dmaOwnReads x d)).chargeAll wr true
      match d.mode with
      | 0 => { s := s.stores x d.dst (s.loads x d.src d.count), status := stOk }
      | 1 => { s := s.dmaPut x h d, status := stOk }
      | 2 => { s := s.dmaPut x h d, status := stOk }
      | _ => { s := s.addWrite x d.dst 0 (s.addSource x d), status := stOk }

/-! ### The forager path (07) -/

/-- A forager header (07 Table 7-3). -/
structure FjHdr where
  base : Nat
  rows : Nat
  stride : Nat
  code : Nat
  fmt : Nat
  reserved : Nat
  alpha : F32
  narrow : Nat
deriving DecidableEq, Repr

/-- The forager header at an address. -/
def State.fjHdr (s : State) (x a : Nat) : FjHdr :=
  { base := s.loadNat x a 8, rows := s.loadNat x (a + 8) 4, stride := s.loadNat x (a + 12) 4,
    code := s.loadNat x (a + 16) 1, fmt := s.loadNat x (a + 17) 1,
    reserved := s.loadNat x (a + 18) 2 + s.loadNat x (a + 32) 32,
    alpha := BitVec.ofNat 32 (s.loadNat x (a + 20) 4), narrow := s.loadNat x (a + 24) 8 }

/-- Bytes of a table row. -/
def FjHdr.rowBytes (h : FjHdr) : Nat := 32 * 2 ^ (h.code % 4)

/-- The checks of 07 R125 and, for a narrow table, of 03 R32 and R44. -/
def State.fjOk (s : State) (x : Nat) (d : DmaOp) (h : FjHdr) : Bool :=
  let n := s.hdr x h.narrow
  decide (d.src % 64 = 0) && decide (h.base < 2 ^ 48) && decide (h.narrow < 2 ^ 48) && decide (h.reserved = 0)
    && decide (h.code < 4) && decide (h.fmt < 16) && decide (h.rowBytes = d.cols)
    && (decide (h.fmt = 5) || decide (h.fmt = 6) || isNarrow h.fmt)
    && decide (h.base % h.rowBytes = 0) && decide (h.stride ≠ 0) && decide (h.stride % h.rowBytes = 0)
    && (if d.mode = 4 then decide (h.alpha = 0) else !(f32Val h.alpha).nonFinite)
    && (if isNarrow h.fmt then
        n.ok h.narrow && decide (n.fmt = h.fmt) && decide (h.base = h.narrow + 64)
          && decide (n.blockLen * fmtBits n.fmt = 8 * h.rowBytes) && !(d.mode = 5 && s.rotMode n.layer)
      else decide (h.narrow = 0))

/-- Elements in a table row. -/
def FjHdr.elems (h : FjHdr) : Nat := h.rowBytes * 8 / fmtBits h.fmt

/-- The address of a table row. -/
def FjHdr.rowAddr (h : FjHdr) (r : Nat) : Nat := h.base + r * h.stride

/-- Index `i` of a forager command's list. -/
def State.fjIndex (s : State) (x : Nat) (d : DmaOp) (i : Nat) : Nat := s.loadNat x (d.src + 64 + 4 * i) 4

/-- The first list position whose index is at or above TABLE_ROWS (07 R129). -/
def State.fjStop (s : State) (x : Nat) (d : DmaOp) (h : FjHdr) : Option Nat :=
  (List.range d.count).find? (fun i => decide (h.rows ≤ s.fjIndex x d i))

/-- One gathered row, with its scale byte for a narrow table (07 R126). -/
def State.gatherRow (s : State) (x : Nat) (d : DmaOp) (h : FjHdr) (i : Nat) : State :=
  let r := s.fjIndex x d i
  let t := s.stores x (d.dst + i * h.rowBytes) (s.loads x (h.rowAddr r) h.rowBytes)
  if isNarrow h.fmt then t.stores x (d.dst + d.count * h.rowBytes + i) [s.load x ((s.hdr x h.narrow).scales + r)] else t

/-- A row's old contents and scale byte go to the context's journal before it is written (07 R128; log 30). -/
def State.journalRow (s : State) (x : Nat) (h : FjHdr) (r : Nat) : State :=
  let st := h.base / 0x800000000
  let u := Off.memFjUsed st x
  let cfg := Off.memFjCfg st x
  let old := s.loads x (h.rowAddr r) h.rowBytes
  let sc := (s.hdr x h.narrow).scales + r
  let at_ := st * 0x800000000 + s.field cfg 14 0 * 0x100000 + s.reg u
  let scale := if isNarrow h.fmt then s.load x sc else 0
  -- the scale byte stands behind the row; what fills the other seven bytes is not given
  let free := natLe (Config.freeValue s.clk.free) 7
  let s := (s.stores x at_ (old ++ scale :: free)).drawn
  let s := (s.setReg u (s.reg u + h.rowBytes + 8)).chargeAll [(at_, h.rowBytes + 8)] true
  s.modCtx x (fun c => { c with journal :=
    ⟨h.rowAddr r, h.fmt, old, if isNarrow h.fmt then some sc else none, scale, at_⟩ :: c.journal })

/-- One contribution of a scatter-accumulate (07 R127). -/
def State.scatterRow (s : State) (x : Nat) (d : DmaOp) (h : FjHdr) (i : Nat) : State :=
  let r := s.fjIndex x d i
  let n := h.elems
  let cs := (List.range n).map (fun j =>
    f32Mul h.alpha (BitVec.ofNat 32 (s.loadNat x (d.dst + 4 * (i * n + j)) 4)))
  let s := s.journalRow x h r
  if isNarrow h.fmt then
    s.accumBlock x h.narrow { s.hdr x h.narrow with step := h.stride } r n (cs.map (fun c => some (f32Val c)))
  else
    let a := h.rowAddr r
    s.stores x a ((cs.mapIdx (fun j c =>
      if h.fmt = 5 then natLe (bf16OfF32 (
          -- one rounding of the exact sum to BF16
          match (s.rawElem x a 5 j).add (f32Val c) with
          | .fin g m e => let (q, z) := roundGrid 8 (-133) m e false; f32Round g q z false
          | v => v.toF32)).toNat 2
      else natLe (f32Add (BitVec.ofNat 32 (s.loadNat x (a + 4 * j) 4)) c).toNat 4)).flatten)

/-- The extents a forager command covers (07 R129). -/
def State.fjExtents (s : State) (x : Nat) (d : DmaOp) (h : FjHdr) : List (Nat × Nat) :=
  let n := s.hdr x h.narrow
  [(d.src, 64 + 4 * d.count), (h.base, h.rows * h.stride)]
    ++ (if d.mode = 4 then [(d.dst, d.count * h.rowBytes + (if isNarrow h.fmt then d.count else 0))]
        else [(d.dst, 4 * d.count * h.elems)])
    ++ (if isNarrow h.fmt then [(n.scales, h.rows), (n.map, 2 * ((h.rows + 63) / 64 * 8))] else [])

/-- The extents a forager command writes. -/
def State.fjWrites (s : State) (x : Nat) (d : DmaOp) (h : FjHdr) : List (Nat × Nat) :=
  let n := s.hdr x h.narrow
  if d.mode = 4 then [(d.dst, d.count * h.rowBytes + (if isNarrow h.fmt then d.count else 0))]
  else (h.base, h.rows * h.stride) :: (if isNarrow h.fmt then [(n.scales, h.rows), (n.map, 2 * ((h.rows + 63) / 64 * 8))]
    else [])

/-- What a forager command reads beside its list and rows: the contributions, and a narrow table's header and map. -/
def State.fjOwnReads (s : State) (x : Nat) (d : DmaOp) (h : FjHdr) : List (Nat × Nat) :=
  let n := s.hdr x h.narrow
  (if d.mode = 5 then [(d.dst, 4 * d.count * h.elems)] else [])
    ++ (if !isNarrow h.fmt then [] else if d.mode = 5 then n.ownReads h.narrow h.rows n.blockLen else [(h.narrow, 64)])

/-- The journal has room for a scatter-accumulate (07 R129). -/
def State.fjRoom (s : State) (x : Nat) (d : DmaOp) (h : FjHdr) : Bool :=
  let st := h.base / 0x800000000
  let need := (d.count * (h.rowBytes + 8) + 2047) / 2048 * 2048
  decide (s.reg (Off.memFjUsed st x) + need ≤ s.field (Off.memFjCfg st x) 46 32 * 0x100000)

/-- The journal space that a scatter-accumulate takes, which the extent check covers (07 R129). -/
def State.fjJournal (s : State) (x : Nat) (d : DmaOp) (h : FjHdr) : Nat × Nat :=
  let st := h.base / 0x800000000
  (st * 0x800000000 + s.field (Off.memFjCfg st x) 14 0 * 0x100000 + s.reg (Off.memFjUsed st x),
   d.count * (h.rowBytes + 8))

/-- GATHER and SCATTER_ADD at their start (07 R125-R129). -/
def State.runForager (s : State) (x : Nat) (d : DmaOp) (site : DmaSite) : XferOut :=
  if !s.mayAccess x d.src (64 + 4 * d.count) then { s := s, status := stBadAddress }
  else
    let h := s.fjHdr x d.src
    if !s.fjOk x d h then { s := s, status := stBadDescriptor }
    else if !(s.fjExtents x d h).all (fun e => s.mayAccess x e.1 e.2) || decide (h.base ≥ 0x10000000000)
        || (s.fjWrites x d h).any (fun e => s.isProtected e.1 e.2)
        || s.siteClash site (s.fjExtents x d h) then
      { s := s, status := stBadAddress }
    else if d.mode = 5 && !s.fjRoom x d h then { s := s, status := stNoResource }
    else if d.mode = 5 && (!s.mayAccess x (s.fjJournal x d h).1 (s.fjJournal x d h).2
        || s.isProtected (s.fjJournal x d h).1 (s.fjJournal x d h).2) then { s := s, status := stBadAddress }
    else
      let stop := s.fjStop x d h
      let n := stop.getD d.count
      match s.badAmong ((d.src, 64 + 4 * d.count) :: (s.fjOwnReads x d h ++ (List.range n).flatMap (fun i =>
          let r := s.fjIndex x d i
          (h.rowAddr r, h.rowBytes) :: if isNarrow h.fmt then [((s.hdr x h.narrow).scales + r, 1)] else []))) with
      | some k => { s := s, status := stStepFailed, bad := some (k, reqForager) }
      | none =>
        let s := if d.mode = 5 && isNarrow h.fmt then
            (s.sizeMap x (s.hdr x h.narrow).map h.rows).beginWrite x h.narrow true false
          else s
        let rows := (List.range n).map (fun i => (h.rowAddr (s.fjIndex x d i), h.rowBytes))
        let scales := if isNarrow h.fmt then (List.range n).map (fun i => ((s.hdr x h.narrow).scales + s.fjIndex x d i, 1)) else []
        let s := s.chargeAll ((d.src, 64 + 4 * d.count) :: s.fjOwnReads x d h ++ rows ++ scales)
        let s := s.chargeAll (if d.mode = 4 then s.fjWrites x d h else rows ++ scales) true
        let t := (List.range n).foldl (fun s i =>
          if d.mode = 4 then s.gatherRow x d h i else s.scatterRow x d h i) s
        match stop with
        | some i => { s := t, status := stBadAddress, result := i }
        | none => { s := t, status := stOk }

/-- What a transfer reads and writes, whose sluices it passes (07 R121, R122). -/
def State.dmaExtents (s : State) (x : Nat) (d : DmaOp) : List (Nat × Nat) :=
  if d.mode ≤ 3 then s.dmaReads x d ++ s.dmaOwnReads x d ++ s.dmaWrites x d
  else s.fjExtents x d (s.fjHdr x d.src)

/-- A transfer at its start. -/
def State.runDma (s : State) (x : Nat) (d : DmaOp) (site : DmaSite) : XferOut :=
  if d.mode ≤ 3 then s.runMove x d site else s.runForager x d site

/-- A transfer that reads or writes host memory (06 R117). -/
def DmaOp.hostEnds (d : DmaOp) : List Nat := [d.src, d.dst].filter isHostAddr

end Sys2Proof.Machine
end

