-- ==== Sys2Proof/Machine/Operands.lean ====
section
/-! DEFINITION. Every instruction form of a hive program (04 Table 4-4): its fields, with index-select fields resolved,
and the refusal of reserved encodings and non-zero reserved fields (04 R65). -/

namespace Sys2Proof.Machine

/-- An instruction as fetched, by its row of the opcode table. -/
inductive Insn where
  | tile (t : TileOp)
  | drain (d : DrainOp)
  | wop (w : WopOp)
  | dma (d : DmaOp)
  | signal (q : Nat) (atRead : Bool) (id inc : Nat)
  | wait (q id target : Nat)
  | barrier (q id : Nat)
  | setx (r : Nat) (v : BitVec 32)
  | addx (r : Nat) (v : BitVec 32)
  | blt (r : Nat) (limit : BitVec 32) (target : Nat)
  | nop
  | endStream
deriving DecidableEq, Repr

/-- An index register: 0 selects nothing (04 R66). -/
def xVal (xs : List (BitVec 32)) (sel : Nat) : Nat := if sel = 0 then 0 else (xs.getD (sel - 1) 0).toNat

/-- A tile dimension code. -/
def shapeOf (c : Nat) : Nat := if c = 0 then 128 else if c = 1 then 64 else 32

/-- Width class of a product format: FP4, FP6, FP8 or BF16 (04 R55). -/
def widthClass (fmt : Nat) : Nat := fmtBits fmt

/-- Opcodes that take two slots. -/
def twoSlots (opcode : Nat) : Bool := opcode = 0x11 || opcode = 0x30

/-- TILE (04 Table 4-4, R55, R68, R100). -/
def decodeTile (w : Nat) (xs : List (BitVec 32)) (mode : Nat) : Option Insn :=
  let t : TileOp :=
    { eng := bits w 9 8, m := shapeOf (bits w 11 10), n := shapeOf (bits w 13 12), opens := w.testBit 14,
      masked := w.testBit 15, group := bits w 22 16, byBlock := w.testBit 23, k := bits w 39 24, fmtA := bits w 43 40,
      fmtB := bits w 47 44, aOff := 64 * (bits w 66 48 + xVal xs (bits w 107 105)),
      bOff := 64 * (bits w 85 67 + xVal xs (bits w 110 108)),
      maskOff := 64 * (bits w 104 86 + xVal xs (bits w 113 111)), rowBlk := bits w 127 114 }
  if t.eng ≤ 2 ∧ bits w 11 10 ≤ 2 ∧ bits w 13 12 ≤ 2 ∧ 1 ≤ t.k ∧ t.fmtA ≤ 5 ∧ t.fmtB ≤ 5
      ∧ widthClass t.fmtA = widthClass t.fmtB
      ∧ (t.masked → t.eng = 2 ∧ t.m = 128 ∧ isNarrow t.fmtA)
      ∧ (mode = 2 → 3 ≤ t.fmtA) then some (.tile t) else none

/-- DRAIN (04 Table 4-4, R68; 05 R98). -/
def decodeDrain (w w2 : Nat) (xs : List (BitVec 32)) (mode : Nat) : Option Insn :=
  let d : DrainOp :=
    { eng := bits w 9 8, accum := w.testBit 14, discard := w.testBit 15, group := bits w 22 16,
      byBlock := w.testBit 23, fmt := bits w 27 24, dstOff := 64 * (bits w 58 40 + xVal xs (bits w 80 78)),
      maskOff := 64 * (bits w 77 59 + xVal xs (bits w 83 81)), row0 := bits w2 31 0, col0 := bits w2 63 32,
      pitch := bits w2 95 64 }
  if d.eng ≤ 2 ∧ bits w 13 10 = 0 ∧ bits w 39 28 = 0 ∧ bits w 127 84 = 0 ∧ bits w2 127 96 = 0
      ∧ (d.fmt ≤ 6 ∨ (d.fmt = 15 ∧ mode = 1)) ∧ (d.discard → d.eng = 2) then some (.drain d) else none

/-- Functions whose AUX_OFF must be zero (04 R391: unused fields must be zero). -/
def wopNoAux (func srcFmt : Nat) (part : Bool) : Bool :=
  func ∈ [1, 2, 8, 0x12, 0x13, 0x14, 0x20, 0x21, 0x22, 0x23, 0x24, 0x28, 0x29, 0x2A, 0x2B, 0x2C, 0x2D, 0x51]
    || (func = 0x10 && !(srcFmt = 15 && !part)) || (part && func = 0x40)

/-- WOP (04 Table 4-4, Table 4-7; 05 R98, R102, R103). Only EXSUM takes a source in the exact form; a position function that
reads pairs has SRC_FMT FP32; XENT with PARTIAL = 1 is the combined form (log 13, 45). -/
def decodeWop (w : Nat) (xs : List (BitVec 32)) : Option Insn :=
  let o : WopOp :=
    { func := bits w 15 8, srcFmt := bits w 19 16, dstFmt := bits w 23 20, part := w.testBit 24,
      srcOff := 64 * (bits w 50 32 + xVal xs (bits w 27 25)), dstOff := 64 * (bits w 69 51 + xVal xs (bits w 30 28)),
      auxOff := 64 * bits w 88 70, rows := bits w 104 89, len := bits w 120 105, x7 := xVal xs 7 }
  let pos := o.func ∈ [0x13, 0x14, 0x15]
  if o.func ∈ wopFuncs ∧ bits w 31 31 = 0 ∧ bits w 127 121 = 0
      ∧ (o.srcFmt ≤ 6 ∨ (o.srcFmt = 15 ∧ o.func = 0x10))
      ∧ (if o.exactOut then o.dstFmt = 15 else o.dstFmt ≤ 6)
      ∧ (o.part → wopPartial o.func || o.combined) ∧ (pos → o.dstFmt = 6 ∧ (o.part → o.srcFmt = 6))
      ∧ (o.func = 0x15 → 1 ≤ bits w 88 70 ∧ bits w 88 70 ≤ 64)
      ∧ (wopNoAux o.func o.srcFmt o.part → o.auxOff = 0) then some (.wop o) else none

/-- The field rules of a transfer that need no header (04 Table 4-6, R390, R392). -/
def DmaOp.fieldsOk (d : DmaOp) : Bool :=
  match d.mode with
  | 0 => decide (d.srcFmt = 0 ∧ d.dstFmt = 0 ∧ d.count % 64 = 0)
  | 1 => decide (d.srcFmt ≤ 6 ∧ d.dstFmt ≤ 6)
  | 2 => decide (d.srcFmt ≤ 6 ∧ d.dstFmt ≤ 6)
  | 3 => decide (d.srcFmt ≤ 6 ∧ d.dstFmt = 6 ∧ d.count % 64 = 0)
  | 4 => decide (d.srcFmt = 0 ∧ d.dstFmt = 0)
  | 5 => decide (d.srcFmt = 0 ∧ d.dstFmt = 0)
  | _ => false

/-- DMA (04 Table 4-4, Table 4-6, R390, R392). -/
def decodeDma (w w2 : Nat) (xs : List (BitVec 32)) : Option Insn :=
  let d : DmaOp :=
    { mode := bits w 11 8, masked := w.testBit 18, byBlock := w.testBit 19,
      src := 64 * (bits w 63 22 + xVal xs (bits w 14 12)), dst := 64 * (bits w 105 64 + xVal xs (bits w 17 15)),
      count := bits w2 31 0, cols := bits w2 63 32, maskOff := 64 * bits w2 82 64, srcFmt := bits w2 86 83,
      dstFmt := bits w2 90 87, pitch := bits w2 127 96 }
  if d.fieldsOk ∧ bits w 21 20 = 0 ∧ bits w 127 106 = 0 ∧ bits w2 95 91 = 0
      ∧ (d.masked → d.mode = 2 ∧ isNarrow d.dstFmt) then some (.dma d) else none

/-- The instruction in the slots at the fetch position (04 Table 4-4); `none` is a reserved opcode, encoding or field. -/
def decodeInsn (w w2 : Nat) (xs : List (BitVec 32)) (mode : Nat) : Option Insn :=
  match bits w 7 0 with
  | 0x00 => if bits w 127 8 = 0 then some .nop else none
  | 0x10 => decodeTile w xs mode
  | 0x11 => decodeDrain w w2 xs mode
  | 0x20 => decodeWop w xs
  | 0x30 => decodeDma w w2 xs
  | 0x40 =>
    if bits w 10 8 ≤ 5 ∧ 1 ≤ bits w 39 24 ∧ bits w 127 40 = 0 ∧ (!w.testBit 11 → bits w 10 8 ≤ 2) then
      some (.signal (bits w 10 8) (!w.testBit 11) (bits w 23 12) (bits w 39 24))
    else none
  | 0x41 =>
    if bits w 10 8 ≤ 5 ∧ bits w 11 11 = 0 ∧ bits w 31 24 = 0 ∧ bits w 127 83 = 0 then
      some (.wait (bits w 10 8) (bits w 23 12) (bits w 79 32 + xVal xs (bits w 82 80)))
    else none
  | 0x42 =>
    if bits w 10 8 ≤ 5 ∧ bits w 11 11 = 0 ∧ bits w 127 24 = 0 then some (.barrier (bits w 10 8) (bits w 23 12)) else none
  | 0x50 =>
    if 1 ≤ bits w 10 8 ∧ bits w 31 11 = 0 ∧ bits w 127 64 = 0 then
      some (.setx (bits w 10 8) (BitVec.ofNat 32 (bits w 63 32)))
    else none
  | 0x51 =>
    if 1 ≤ bits w 10 8 ∧ bits w 31 11 = 0 ∧ bits w 127 64 = 0 then
      some (.addx (bits w 10 8) (BitVec.ofNat 32 (bits w 63 32)))
    else none
  | 0x52 =>
    if 1 ≤ bits w 10 8 ∧ bits w 31 11 = 0 ∧ bits w 127 96 = 0 then
      some (.blt (bits w 10 8) (BitVec.ofNat 32 (bits w 63 32)) (bits w 95 64))
    else none
  | 0x5F => if bits w 127 8 = 0 then some .endStream else none
  | _ => none

/-- The mnemonic of spec/opcode_table.json that an opcode and DMA mode belong to: the row that runs it. -/
inductive HiveRow where
  | tile
  | drain
  | wop
  | signal
  | wait
  | barrier
  | setx
  | addx
  | blt
  | nop
  | endStream
  | copy
  | convert
  | transpose
  | addWrite
  | gather
  | scatterAdd
deriving DecidableEq, Repr

/-- The row of the instruction in a slot. A reserved opcode or mode is not any row's: its failure is found by whichever
row is commanded (04 R65). -/
def rowOf (w : Nat) : Option HiveRow :=
  match bits w 7 0 with
  | 0x00 => some .nop
  | 0x10 => some .tile
  | 0x11 => some .drain
  | 0x20 => some .wop
  | 0x30 =>
    match bits w 11 8 with
    | 0 => some .copy
    | 1 => some .convert
    | 2 => some .transpose
    | 3 => some .addWrite
    | 4 => some .gather
    | 5 => some .scatterAdd
    | _ => none
  | 0x40 => some .signal
  | 0x41 => some .wait
  | 0x42 => some .barrier
  | 0x50 => some .setx
  | 0x51 => some .addx
  | 0x52 => some .blt
  | 0x5F => some .endStream
  | _ => none

/-- The queue an instruction takes an entry of (04 Table 4-4). -/
def Insn.queue : Insn → Option Nat
  | .tile t => some t.eng
  | .drain d => some d.eng
  | .wop _ => some 3
  | .dma _ => some 4
  | .signal q .. => some q
  | .wait q .. => some q
  | .barrier q _ => some q
  | _ => none

/-- The queue entry of an instruction. -/
def Insn.op : Insn → Option Op
  | .tile t => some (.tile t)
  | .drain d => some (.drain d)
  | .wop w => some (.wop w)
  | .dma d => some (.dma d)
  | .signal _ a i n => some (.signal a i n)
  | .wait _ i t => some (.wait i t)
  | .barrier _ i => some (.barrier i)
  | _ => none

/-- A hive-store offset lies in the store, and outside the exact group area in exact mode (04 R65, 05 R99). -/
def offOk (mode off : Nat) : Bool := decide (off < 0x1800000) && !(mode = 1 && decide (0x1080000 ≤ off))

/-- A device address that a hive instruction carries may be reached, and avoids the exact group area in exact mode. -/
def State.addrOk (s : State) (x h mode a n : Nat) : Bool :=
  s.mayAccess x a (max n 1) && !(mode = 1 && inExactArea (s.runHives h) [(a, max n 1)])

/-- The addresses that an instruction carries pass their checks at fetch (04 R65, 06 R107). -/
def State.insnAddrsOk (s : State) (x h mode : Nat) : Insn → Bool
  | .tile t => offOk mode t.aOff && offOk mode t.bOff && (!t.masked || offOk mode t.maskOff)
  | .drain d => offOk mode d.dstOff && (!d.discard || offOk mode d.maskOff)
  | .wop w => offOk mode w.srcOff && offOk mode w.dstOff && (w.func = 0x15 || offOk mode w.auxOff)
  | .dma d =>
    d.plainExtents.all (fun e => s.addrOk x h mode e.1 e.2) && (!d.masked || offOk mode d.maskOff)
  | _ => true

/-- The identifiers that an instruction uses pass their checks at fetch (10 R196, R206, R208). -/
def State.insnIdsOk (s : State) (x h : Nat) : Insn → Bool
  | .signal _ _ id _ => let e := s.xl x id; e.usable && !e.dirty && e.kind == 0
  | .wait _ id _ => let e := s.xl x id; e.usable && !e.dirty
  | .barrier q id =>
    let e := s.xl x id
    e.usable && !e.dirty && e.kind == 1 && !e.remote && (s.partIndex e.object (.queue h q)).isSome
  | _ => true

/-- The permission an opcode needs of its function (17 R359). -/
def permBit (w : Nat) : Option Nat :=
  match rowOf w with
  | some .tile => some 0
  | some .drain => some 0
  | some .wop => some 1
  | some .copy => some 2
  | some .convert => some 2
  | some .transpose => some 2
  | some .addWrite => some 2
  | some .gather => some 3
  | some .scatterAdd => some 3
  | _ => none

end Sys2Proof.Machine
end

