-- ==== Sys2Proof/Machine/Crc.lean ====
section
/-! DEFINITION. The cyclic redundancy checks: CRC-32C (11, 12 R257, 09) and the 64-bit CRC of 08 R163. -/

namespace Sys2Proof.Machine

/-- `k` bits of a reflected CRC of any width. -/
def crcBits (poly : Nat) : Nat → Nat → Nat
  | 0, c => c
  | k + 1, c => crcBits poly k (if c % 2 = 1 then (c / 2) ^^^ poly else c / 2)

/-- CRC-32C (reflected, polynomial 0x1EDC6F41) from a running value. -/
def crc32cFrom (c : Nat) : List Byte → Nat
  | [] => c
  | b :: bs => crc32cFrom (crcBits 0x82F63B78 8 (c ^^^ b.toNat)) bs

/-- CRC-32C of a byte string. -/
def crc32c (bs : List Byte) : BitVec 32 := BitVec.ofNat 32 (crc32cFrom 0xFFFFFFFF bs ^^^ 0xFFFFFFFF)

/-- `k` bits of a non-reflected 64-bit CRC. -/
def crc64Bits : Nat → Nat → Nat
  | 0, c => c
  | k + 1, c => crc64Bits k (if c / 2 ^ 63 % 2 = 1 then (2 * c % 2 ^ 64) ^^^ 0x42F0E1EBA9EA3693 else 2 * c % 2 ^ 64)

/-- The CRC-64 of 08 R163 over a byte string: initial value zero, no reflection, no final exclusive or. -/
def crc64 (bs : List Byte) : Nat := bs.foldl (fun c b => crc64Bits 8 (c ^^^ (b.toNat * 2 ^ 56))) 0

end Sys2Proof.Machine
end

