-- ==== Sys2Proof/Machine/Ring.lean ====
section
/-! DEFINITION. Commands on a context's ring: descriptor fields, what may start, completion and release
(12 R248-R260, 13 R267-R272). -/

namespace Sys2Proof.Machine

/-- FENCE, INTR and TAG (13 Table 13-1). -/
def Cmd.fence (c : Cmd) : Bool := c.f 8 8 == 1
def Cmd.intr (c : Cmd) : Bool := c.f 9 9 == 1
def Cmd.tag (c : Cmd) : BitVec 32 := BitVec.ofNat 32 (c.f 63 32)

/-- SUSPEND, RESUME and CANCEL act as soon as fetched (12 R254). -/
def Cmd.isControl (c : Cmd) : Bool := decide (0x18 ≤ c.opcode ∧ c.opcode ≤ 0x1A)

/-- OP of EXPORT and MANAGEMENT. -/
def Cmd.sub (c : Cmd) : Nat := c.f 67 64

/-- Not yet completed. -/
def Cmd.live (c : Cmd) : Bool := decide (c.phase ≠ .done)

/-- The descriptor bytes of a command. -/
def Cmd.bytes (c : Cmd) : List Byte := natLe c.desc.toNat 64

/-- CRC-32C over the step's descriptors in ring order (12 R257). -/
def CtxSt.stepCrc (c : CtxSt) : BitVec 32 := crc32c ((c.stepCmds.map Cmd.bytes).flatten)

/-- The command with a submission index. -/
def CtxSt.cmd (c : CtxSt) (idx : Nat) : Option Cmd := c.cmds.find? (fun d => d.idx == idx)

/-- The state with one command changed. -/
def State.modCmd (s : State) (x idx : Nat) (f : Cmd → Cmd) : State :=
  s.modCtx x (fun c => { c with cmds := c.cmds.map (fun d => if d.idx = idx then f d else d) })

/-- The completion ring is full (12 R251). -/
def CtxSt.cqFull (c : CtxSt) : Bool := decide ((c.cqTail - c.cqHead).toNat ≥ 2 ^ c.cqLog)

/-- The leading commands whose slots may be reused leave the list, and RELEASED passes them (12 R255). -/
def releaseCmds : List Cmd → BitVec 32 → List Cmd × BitVec 32
  | [], r => ([], r)
  | c :: cs, r => if c.phase = .done ∧ c.final then releaseCmds cs (r + 1) else (c :: cs, r)

/-- RELEASED advances as far as it may. -/
def CtxSt.release (c : CtxSt) : CtxSt :=
  let (cs, r) := releaseCmds c.cmds c.released
  { c with cmds := cs, released := r }

/-- Statuses that fail a step (13 R269). -/
def failsStep (status : Nat) : Bool := status ∈ [0x10, 0x11, 0x12, 0x13, 0x41, 0x50, 0x32, 0x7F]

/-- A command is of the step under way. -/
def CtxSt.inStep (c : CtxSt) (d : Cmd) : Bool := c.stepCmds.any (fun e => e.idx == d.idx)

/-- The entry a command completes with (13 R271): the attempt counts for the step under way. -/
def CtxSt.entryOf (c : CtxSt) (d : Cmd) (status result : Nat) : Entry :=
  { idx := d.idx, status := status, replay := if c.inStep d then min c.attempt 15 else 0, opcode := d.opcode,
    tag := d.tag, result := BitVec.ofNat 32 result, intr := d.intr }

/-- The step is already being abandoned, or what is left of it ends with one status. -/
def CtxSt.ending (c : CtxSt) : Bool := c.abandon.isSome || c.drain.isSome || c.replayReady

/-- One command completes: its entry waits to be written, a service slot may be reused, and a status of 13 R269 fails the
step of a step command, at once where that is under way. A completed command does not complete again; one that meets a fault of
the module's own is logged (13 R270). -/
def State.complete1 (s : State) (x idx status result : Nat) : State :=
  match (s.ctx x).cmd idx with
  | none => s
  | some d =>
    if !d.live then s
    else
      let fails := d.isStep && failsStep status
      let now := (s.ctx x).inStep d
      let s := s.modCtx x (fun c => { c with entries := c.entries ++ [c.entryOf d status result] })
      let s := s.modCmd x idx (fun d => { d with phase := .done, final := d.final || !d.isStep, failed := fails })
      let s := s.modCtx x CtxSt.release
      let s := if status = 0x7F then s.noteFree 4 false 0x00 [idx] (some x) status else s
      if fails && now && !(s.ctx x).ending then s.stepFault x .fail 0x32 else s

/-- The SUSPENDs that have acted on a command and wait for its queues (12 R259). -/
def CtxSt.suspends (c : CtxSt) (idx : Nat) : List Cmd :=
  c.cmds.filter (fun d => d.opcode == 0x18 && d.acted && d.live && decide (d.f 95 64 = idx))

/-- A command completes, and with it the SUSPENDs that wait for its queues (12 R259). -/
def State.complete (s : State) (x idx status result : Nat) : State :=
  let s := s.complete1 x idx status result
  ((s.ctx x).suspends idx).foldl (fun s d => s.complete1 x d.idx 0x00 0) s

/-- A started command writes an entry without ending (SUSPENDED, 12 Table 12-5). -/
def State.interim (s : State) (x idx status : Nat) (result : Nat := 0) : State :=
  match (s.ctx x).cmd idx with
  | none => s
  | some d => s.modCtx x (fun c => { c with entries := c.entries ++ [c.entryOf d status result] })

/-- The module may issue host requests for a context (12 R262). -/
def State.hostOk (s : State) (x : Nat) : Bool :=
  s.hostUp (s.funcOf x) && (let st := (s.ctx x).state; st == 1 || st == 5 || st == 6)

/-- A function's configuration changes. -/
def State.modCfg (s : State) (f : Nat) (g : FuncCfg → FuncCfg) : State := { s with io := { s.io with cfg := smod {} s.io.cfg f g } }

/-- A function receives Unsupported Request or Completer Abort: counted, and reported by AER as an advisory non-fatal error
(06 R117; 12 Table 12-1). -/
def State.hostError (s : State) (f : Nat) : State :=
  (s.countField (Off.hifFuncStat f) 31 16 1).modCfg f (fun g => { g with advisory := true })

/-- A host-window access of a context at a device address may be issued now: by its first byte (17 R363). -/
def State.hostReady (s : State) (x a : Nat) : Bool := s.hostOk x && !s.ideHolds (s.funcOf x) (s.busAddr x a)

/-- Commands already fetched may run; each unit holds at its own host access (12 R250, R263). -/
def CtxSt.mayRun (c : CtxSt) : Bool := decide (1 ≤ c.state ∧ c.state ≤ 6)

/-- The step's work is stopped: it has failed or is being abandoned (12 R256, R258). -/
def CtxSt.stopped (c : CtxSt) : Bool := c.fault.isSome || c.abandon.isSome || c.drain.isSome || c.replayReady

/-- The next command of the ring that has not started, and those before it. -/
def splitWaiting : List Cmd → List Cmd → Option (List Cmd × Cmd)
  | _, [] => none
  | pre, c :: cs => if c.phase = .waiting ∧ !c.isControl then some (pre, c) else splitWaiting (pre ++ [c]) cs

/-- An earlier command that holds the ring: a WAIT, or a BARRIER with HOLD, not yet satisfied (12 R254). -/
def State.holdsRing (s : State) (x : Nat) (c : Cmd) : Bool :=
  c.live && (c.opcode == 4 || (c.opcode == 5 && (s.xl x (c.f 75 64)).hold))

/-- A self-test of module scope runs (09 R191). -/
def State.moduleTest (s : State) : Bool := s.hive.test.any (fun t => decide (4 ≤ t.items))

/-- The command that may start now, under the order of 12 R251 and R254. -/
def State.startable (s : State) (x : Nat) : Option Cmd :=
  let c := s.ctx x
  match splitWaiting [] c.cmds with
  | none => none
  | some (pre, d) =>
    let steps := pre.filter Cmd.isStep
    if c.mayRun && !s.fail.moved && !c.cqFull && !d.suspended && !d.cancel
        && !(d.isStep && c.stopped)
        && !(c.state == 5 && d.isStep) && !(c.state == 4 && d.opcode == 6)
        && !d.stale && !(s.moduleTest && d.opcode != 0x13) && !(d.isStep && c.owesTargets)
        && (!d.fence || pre.all (fun e => !e.live))
        && !pre.any (s.holdsRing x)
        && (!(d.opcode == 3 || d.opcode == 6) || steps.all (fun e => !e.live)) then some d
    else none

/-- The startable command, if it has an opcode and, for EXPORT and MANAGEMENT, an operation. -/
def State.startableOp (s : State) (x opcode : Nat) (sub : Option Nat := none) : Option Cmd :=
  match s.startable x with
  | some d =>
    if d.opcode = opcode && sub.all (fun o => o == d.sub) then some d else none
  | none => none

/-- The state with a command started. -/
def State.start (s : State) (x idx : Nat) : State :=
  s.modCmd x idx (fun d => { d with phase := .started, since := s.clk.now })

/-- A command of the step under way that is to be cancelled stops the step (12 R260); one that failed before its step was the
oldest fails it (13 R269). -/
def State.raiseCancels (s : State) (x : Nat) : State :=
  if (s.ctx x).stepCmds.any (fun d => d.cancel && d.live) then s.stepFault x .cancel 0x03
  else if (s.ctx x).stepCmds.any (fun d => d.failed) then s.stepFault x .fail 0x32
  else s

/-- The CANCELs whose targets have completed are complete (12 R259). -/
def State.settleCancels (s : State) (x : Nat) : State :=
  let c := s.ctx x
  (c.cmds.filter (fun d => d.opcode == 0x1A && d.acted && d.live
      && c.cmds.all (fun e => e.idx != (d.desc.extractLsb' 64 32).toNat || !e.live))).foldl
    (fun s d => s.complete x d.idx 0x00 0) s

/-- The module reports the step of a joined context (12 R258, R264). -/
def State.reportHeld (s : State) (x cause : Nat) : State :=
  s.send (.towpath 0x0023 (natLe x 1 ++ natLe (s.field (Off.ctxJobId x) 15 0) 2 ++ natLe ((s.ctx x).step + 1) 6
    ++ natLe cause 1))

end Sys2Proof.Machine
end

