-- ==== Sys2Proof/Machine/Descriptor.lean ====
section
/-! DEFINITION. Every command form of a ring and its checks at descriptor read (13 R267-R287). -/

namespace Sys2Proof.Machine

/-- The address in a 48-bit field that starts at bit `lo`. -/
def Cmd.addr (c : Cmd) (lo : Nat) : Nat := c.f (lo + 47) lo

/-- The bits between `hi` and `lo` are zero. -/
def Cmd.z (c : Cmd) (hi lo : Nat) : Bool := c.f hi lo == 0

/-- A 48-bit address in an 8-byte field whose upper 16 bits are reserved, and one aligned to 64 bytes. -/
def Cmd.wideField (c : Cmd) (lo : Nat) : Bool := c.z (lo + 63) (lo + 48)
def Cmd.addrField (c : Cmd) (lo : Nat) : Bool := c.wideField lo && c.addr lo % 64 == 0

/-- The transfer that a DMA command names (13 Table 13-6). -/
def Cmd.dma (c : Cmd) : DmaOp :=
  { mode := c.f 67 64, masked := false, byBlock := false, src := c.addr 128, dst := c.addr 192, count := c.f 127 96,
    cols := c.f 287 256, maskOff := 0, srcFmt := c.f 91 88, dstFmt := c.f 95 92, pitch := c.f 319 288 }

/-- HIVE of a DMA command. -/
def Cmd.dmaHive (c : Cmd) : Nat := c.f 87 80

/-- EXPORT fields. -/
def Cmd.buf (c : Cmd) : Nat := c.addr 128
def Cmd.tailAddr (c : Cmd) : Nat := c.addr 192
def Cmd.sweepTable (c : Cmd) : Nat := if c.opcode = 6 then c.addr 64 else c.addr 256
def Cmd.list (c : Cmd) : Nat := c.addr 320
def Cmd.size (c : Cmd) : Nat := c.f 415 384

/-- SELF_TEST fields. -/
def Cmd.items (c : Cmd) : Nat := c.f 70 64
def Cmd.dieMask (c : Cmd) : Nat := c.f 191 128
def Cmd.testAt (c : Cmd) : Nat := c.f 237 192
def Cmd.resultAddr (c : Cmd) : Nat := c.addr 256

/-- MANAGEMENT fields. -/
def Cmd.mgmtAddr (c : Cmd) : Nat := c.addr 128
def Cmd.mgmtLen (c : Cmd) : Nat := c.addr 192
def Cmd.value (c : Cmd) : Nat := c.f 319 256

/-- LOAD_LOCK_TABLE fields. -/
def Cmd.arm (c : Cmd) : Bool := c.f 128 128 == 1
def Cmd.armAt (c : Cmd) : Nat := c.f 237 192

/-- TARGET of SUSPEND, RESUME and CANCEL. -/
def Cmd.target (c : Cmd) : Nat := c.f 95 64

/-- The number is a power of two between two bounds. -/
def pow2Between (lo hi v : Nat) : Bool := decide (lo ≤ v ∧ v ≤ hi ∧ v = 2 ^ Nat.log2 v)

/-- The body of an EXPORT command is well formed (13 Table 13-10). -/
def Cmd.exportOk (c : Cmd) : Bool :=
  c.z 127 68 && c.addrField 128 && c.addrField 192 && c.addrField 256 && c.addrField 320 && c.z 511 416
    && match c.sub with
      | 0 => c.z 383 256 && pow2Between 1024 (2 ^ 26) c.size
      | 1 => c.z 511 128
      | 2 => c.z 255 192 && c.z 383 320
      | 3 => c.z 255 192 && c.z 383 320
      | 4 => c.z 319 128 && decide (c.size ≤ 65535)
      | _ => false

/-- The body of a MANAGEMENT command is well formed (13 R286). -/
def Cmd.managementOk (c : Cmd) : Bool :=
  c.z 71 68 && c.z 79 73 && c.z 127 84 && c.z 191 176 && c.z 255 240 && c.z 511 320
    && match c.sub with
      | 1 => c.z 127 72 && c.z 319 192
      | 2 => c.z 127 72 && c.z 319 256
      | 3 => c.z 255 72
      | 4 => c.z 255 72 && c.z 319 289 && decide (c.f 287 272 = 0 ∨ c.f 271 256 + c.f 287 272 ≤ 1536)
      | 5 => c.z 319 128
      | _ => false

/-- The body of a descriptor has no non-zero reserved field, reserved encoding or value outside a stated range
(00 R3, 13 R268 check 2, Tables 13-5 to 13-11). `modules` is CTX.JOB.MODULES. -/
def Cmd.bodyOk (c : Cmd) (modules : Nat) : Bool :=
  match c.opcode with
  | 0x01 => c.addrField 64 && c.z 511 128
  | 0x02 =>
    c.dma.fieldsOk && c.z 79 68 && c.wideField 128 && c.wideField 192 && c.z 511 320
      && (if c.dma.mode ≤ 3 then c.addrField 128 && c.addrField 192 else c.dmaHive == 0)
  | 0x03 => c.z 79 76 && decide (1 ≤ c.f 95 80) && c.z 511 96
  | 0x04 => c.z 127 76 && c.z 511 176
  | 0x05 => c.z 511 76
  | 0x06 =>
    c.addrField 64 && c.z 191 129 && c.z 255 240 && c.z 511 256
      && (if c.f 128 128 = 1 then decide (2 ≤ modules) else c.z 239 192)
  | 0x10 => c.exportOk
  | 0x11 => c.wideField 64 && c.z 191 129 && c.z 511 238 && (c.arm || c.armAt == 0)
  | 0x12 =>
    decide (c.f 65 64 ≠ 3) && c.z 71 66 && decide (c.f 76 72 ≤ 16) && c.z 95 77 && decide (c.f 127 96 ≤ 1000000)
      && decide (1 ≤ c.f 159 128) && c.z 511 160
  | 0x13 =>
    c.z 71 71 && c.z 127 76 && c.z 255 238 && c.addrField 256 && c.z 511 320 && decide (c.items ≠ 0)
      && !(decide (bits c.items 1 0 ≠ 0) && decide (bits c.items 6 2 ≠ 0))
      && (c.items.testBit 5 || (c.z 75 72 && c.testAt == 0))
  | 0x18 => c.z 511 96
  | 0x19 => c.z 511 96
  | 0x1A => c.z 511 96
  | 0x20 => c.managementOk
  | _ => false

/-- A command or operation reserved to the physical function (13 Table 13-2, R280, Table 13-11). -/
def Cmd.pfOnly (c : Cmd) : Bool :=
  match c.opcode with
  | 0x10 => c.sub ≤ 1
  | 0x11 => true
  | 0x13 => true
  | 0x20 => c.sub == 2 || c.sub == 4 || c.sub == 5
  | _ => false

/-- The unit or mode whose permission a command needs (17 R359, SEC.FUNC_PERM). -/
def Cmd.unit (c : Cmd) : Option Nat :=
  match c.opcode with
  | 0x02 => some (if c.dma.mode ≤ 3 then 2 else 3)
  | 0x06 => some 4
  | 0x10 => if 2 ≤ c.sub then some 5 else none
  | 0x13 => some 7
  | _ => none

/-- The range of a SCRUB lies in one stack, in whole 4 KiB pages. -/
def Cmd.scrubOk (c : Cmd) : Bool :=
  let a := c.mgmtAddr
  decide (a < 0x10000000000 ∧ a % 4096 = 0 ∧ c.mgmtLen % 4096 = 0 ∧ a % 0x800000000 + c.mgmtLen ≤ 0x600000000)

/-- The extents and objects that a descriptor names pass their checks (13 R268 check 4, 06 R107). -/
def State.descObjects (s : State) (x : Nat) (c : Cmd) : Nat :=
  let addr := fun (ok : Bool) => if ok then stOk else stBadAddress
  match c.opcode with
  | 0x01 => addr (!isHostAddr (c.addr 64) && s.mayAccess x (c.addr 64) 64)
  | 0x02 =>
    let d := c.dma
    if d.mode ≤ 3 ∧ !s.ownsHive x c.dmaHive then stBadContext
    else addr (d.plainExtents.all (fun e => s.mayAccess x e.1 e.2))
  | 0x06 => addr (s.mayAccess x (c.addr 64) 64
      && (c.f 128 128 == 0 || s.mayAccess x (c.addr 192) (2 * s.field (Off.ctxJob x) 13 0)))
  | 0x10 =>
    match c.sub with
    | 0 => addr (isHostAddr c.buf && isHostAddr c.tailAddr && s.mayAccess x c.buf (64 * c.size) && s.mayAccess x c.tailAddr 4)
    | 2 => addr (s.mayAccess x c.buf (64 * c.size) && s.mayAccess x c.sweepTable 64)
    | 3 => addr (s.mayAccess x c.buf (64 * c.size) && s.mayAccess x c.sweepTable 64)
    | 4 => addr (s.mayAccess x c.list (8 * c.size))
    | _ => stOk
  | 0x11 => addr (s.mayAccess x (c.addr 64) 64)
  | 0x13 => addr (s.mayAccess x c.resultAddr 128 (test := true))
  | 0x20 =>
    match c.sub with
    | 1 => addr (s.mayAccess x c.mgmtAddr 4096)
    | 2 => addr (c.scrubOk && s.mayAccess x c.mgmtAddr c.mgmtLen)
    | _ => stOk
  | _ => stOk

/-- The status that a descriptor's checks give, in the order of 13 R268; 0 where it passes. -/
def State.descCheck (s : State) (x : Nat) (c : Cmd) : Nat :=
  if c.f 23 16 ≠ 1 then stVersionMismatch
  else if !c.z 15 10 || !c.z 31 24 || !c.bodyOk (s.field (Off.ctxJob x) 13 0) then stBadDescriptor
  else if c.pfOnly && !s.onPf x then stBadContext
  else if !(c.unit).all (s.permits x) then stBadContext
  else s.descObjects x c

end Sys2Proof.Machine
end

