-- ==== Sys2Proof/Machine/Records.lean ====
section
/-! DEFINITION. Difference records: layout, compression, and what applying one does (09 R166-R169, R175). -/

namespace Sys2Proof.Machine

/-! ### Compression (09 R169) -/

/-- Zero bytes at the start, at most `k`. -/
def zeroRun : Nat → List Byte → Nat
  | 0, _ => 0
  | _, [] => 0
  | k + 1, b :: r => if b = 0 then zeroRun k r + 1 else 0

/-- Further bytes of a literal run: up to `k`, ending where four zero bytes start. -/
def litRun : Nat → List Byte → Nat
  | 0, _ => 0
  | _, [] => 0
  | k + 1, b :: r => if zeroRun 4 (b :: r) = 4 then 0 else litRun k r + 1

/-- encode of 09 R169, with fuel for its runs. -/
def encodeRuns : Nat → List Byte → List Byte
  | 0, _ => []
  | _, [] => []
  | k + 1, b :: r =>
    let z := zeroRun 32768 (b :: r)
    if 4 ≤ z then
      BitVec.ofNat 8 (0x80 + (z - 1) / 256) :: BitVec.ofNat 8 ((z - 1) % 256) :: encodeRuns k ((b :: r).drop z)
    else
      let n := litRun 127 r
      BitVec.ofNat 8 n :: (b :: r.take n) ++ encodeRuns k (r.drop n)

/-- The compressed form of a byte string. -/
def compress (xs : List Byte) : List Byte := encodeRuns xs.length xs

/-- decode of 09 R169, with fuel for its runs. -/
def decodeRuns : Nat → List Byte → List Byte
  | 0, _ => []
  | _, [] => []
  | k + 1, c :: r =>
    if c.toNat < 0x80 then r.take (c.toNat + 1) ++ decodeRuns k (r.drop (c.toNat + 1))
    else
      match r with
      | d :: r => List.replicate ((c.toNat - 0x80) * 256 + d.toNat + 1) 0 ++ decodeRuns k r
      | [] => []

/-- The byte string of a compressed form. -/
def expand (xs : List Byte) : List Byte := decodeRuns xs.length xs

/-! ### The header (09 Table 9-3) -/

/-- The record kinds of 09 Table 9-2. -/
def kBlock : Nat := 1
def kRows : Nat := 2
def kTensor : Nat := 3
def kCommit : Nat := 4
def kUndo : Nat := 5
def kKeepalive : Nat := 6
def kAck : Nat := 7
def kResend : Nat := 8

/-- A record's bytes: header with both CRCs, payload, padding to 64 bytes. `flags` are FP32_MASTER and FULL. -/
def recordBytes (seq kind ctx flags step count : Nat) (fields payload : List Byte) (dataCrc : Nat) : List Byte :=
  let head := natLe seq 4 ++ natLe (kind + 16) 1 ++ natLe (ctx + 64 * flags) 1 ++ natLe payload.length 2 ++ natLe step 6
    ++ natLe count 2 ++ (fields ++ List.replicate (32 - fields.length) 0) ++ natLe dataCrc 4
  let crc := (crc32c (head ++ payload)).toNat
  head ++ natLe crc 4 ++ List.replicate 8 0 ++ payload ++ List.replicate ((64 - payload.length % 64) % 64) 0

/-- The number in bytes `lo` to `lo + n - 1` of a record. -/
def recNat (r : List Byte) (lo n : Nat) : Nat := leNat ((r.drop lo).take n)

def recSeq (r : List Byte) : BitVec 32 := BitVec.ofNat 32 (recNat r 0 4)
def recKind (r : List Byte) : Nat := recNat r 4 1 % 16
def recVersion (r : List Byte) : Nat := recNat r 4 1 / 16
def recCtx (r : List Byte) : Nat := recNat r 5 1 % 64
def recFp32 (r : List Byte) : Bool := (recNat r 5 1).testBit 6
def recFull (r : List Byte) : Bool := (recNat r 5 1).testBit 7
def recLen (r : List Byte) : Nat := recNat r 6 2
def recStep (r : List Byte) : Nat := recNat r 8 6
def recCount (r : List Byte) : Nat := recNat r 14 2
def recDataCrc (r : List Byte) : Nat := recNat r 48 4
def recPayload (r : List Byte) : List Byte := (r.drop 64).take (recLen r)

/-- A record that a receiver keeps: whole, of a known kind and VERSION 1, with REC_CRC right (09 R167). -/
def recOk (r : List Byte) : Bool :=
  decide (64 + recLen r ≤ r.length) && decide (1 ≤ recKind r ∧ recKind r ≤ 8) && decide (recVersion r = 1)
    && decide ((crc32c (r.take 52 ++ recPayload r)).toNat = recNat r 52 4)

/-! ### Differences (09 R168) -/

/-- The little-endian elements of `w` bytes in a byte string. -/
def elemsOf (w : Nat) (bs : List Byte) : List Nat := (chunks w bs.length bs).map leNat

/-- The bytes of elements of `w` bytes. -/
def elemBytes (w : Nat) (vs : List Nat) : List Byte := (vs.map (fun v => natLe v w)).flatten

/-- New less old, element by element, modulo 2^(8 w). -/
def planeDiff (w : Nat) (new old : List Byte) : List Byte :=
  elemBytes w (List.zipWith (fun a b => (a + 2 ^ (8 * w) - b) % 2 ^ (8 * w)) (elemsOf w new) (elemsOf w old))

/-- Old plus difference, element by element. -/
def planeSum (w : Nat) (old diff : List Byte) : List Byte :=
  elemBytes w (List.zipWith (fun a b => (a + b) % 2 ^ (8 * w)) (elemsOf w old) (elemsOf w diff))

/-- Two byte strings combined by exclusive or. -/
def xorBytes (a b : List Byte) : List Byte := List.zipWith (fun x y => x ^^^ y) a b

/-! ### Application (09 R167, R175, R178) -/

/-- Writes of a record: addresses on this module and the new bytes. -/
abbrev Writes := List (Nat × List Byte)

/-- The planes of a BLOCK record: address, element width and length in bytes, in the record's order. -/
def blockPlanes (r : List Byte) : List (Nat × Nat × Nat) :=
  let n := recCount r
  let fp := recFp32 r
  [(recNat r 22 6, 2, 2 * n), (recNat r 28 6, 2, 2 * n)] ++ (if fp then [] else [(recNat r 34 6, 1, n)])
    ++ [(recNat r 16 6, if fp then 4 else 2, if fp then 4 * n else 2 * n)]

/-- The bytes a plane takes, and the rest of the payload. -/
def blockWrites (rd : Nat → Nat → List Byte) (full : Bool) (disp : Nat) : List (Nat × Nat × Nat) → List Byte → Writes
  | [], _ => []
  | (a, w, n) :: ps, payload =>
    let d := payload.take n
    let new := if full then d else planeSum w (rd (a + disp) n) d
    (a + disp, new) :: blockWrites rd full disp ps (payload.drop n)

/-- The entries of a ROWS record: row address, row, and the scale byte with its address. -/
def rowsEntries (r : List Byte) : List (Nat × List Byte × Nat × Byte) :=
  let rb := recNat r 16 2
  (chunks (rb + 16) (recCount r) (recPayload r)).map (fun e =>
    (recNat e 0 6, (e.drop 8).take rb, recNat e (rb + 9) 6, (e.drop (8 + rb)).headD 0))

/-- What a record writes when it is applied at a displacement over memory that `rd` reads, and the bytes its DATA_CRC
covers. -/
def recWrites (rd : Nat → Nat → List Byte) (disp : Nat) (r : List Byte) : Writes × List Byte :=
  match recKind r with
  | 1 =>
    let ws := blockWrites rd (recFull r) disp (blockPlanes r) (expand (recPayload r))
    (ws ++ [(recNat r 40 6 + disp, natLe (recStep r) 8)], (ws.map (·.2)).flatten)
  | 2 =>
    let es := rowsEntries r
    ((es.map (fun (a, row, sa, sb) => (a + disp, row) :: (if sa = 0 then [] else [(sa + disp, [sb])]))).flatten,
     (es.map (fun (_, row, sa, sb) => row ++ (if sa = 0 then [] else [sb]))).flatten)
  | 3 =>
    let x := expand (recPayload r)
    let h := recNat r 16 6 + disp
    let m := recNat r 22 6 + disp
    let nh := xorBytes (rd h 32) (x.take 32)
    let nm := xorBytes (rd m (recNat r 28 4)) (x.drop 32)
    ([(h, nh), (m, nm)], nh ++ nm)
  | _ => ([], [])

/-- The writes carry the bytes DATA_CRC names. -/
def dataOk (r : List Byte) (covered : List Byte) : Bool := decide ((crc32c covered).toNat = recDataCrc r)

/-- A write stays in the populated range of the stack its source address lies in (09 R178). -/
def staysInStack (disp : Nat) (w : Nat × List Byte) : Bool :=
  let src := w.1 - disp
  decide (disp ≤ w.1) && decide (w.1 < 0x10000000000) && decide (src / 0x800000000 = w.1 / 0x800000000)
    && decide (w.1 % 0x800000000 + w.2.length ≤ 0x600000000)

/-- Writes performed in order. -/
def Memory.writes (m : Memory) : Writes → Memory
  | [] => m
  | (a, bs) :: ws => (m.setBytes a bs).writes ws

/-- The bytes that writes replace, newest first, so that writing them in order undoes the writes. -/
def Memory.undoOf (m : Memory) : Writes → Writes → Writes
  | [], acc => acc
  | (a, bs) :: ws, acc => (m.setBytes a bs).undoOf ws ((a, m.bytes a bs.length) :: acc)

/-- The parts of a COMMIT record's payload: the sweep state record, the group state records by address, the numerics
image. `groups` is how many group state records it holds. -/
def commitParts (r : List Byte) (groups : Nat) : List Byte × Writes × List Byte :=
  let p := recPayload r
  (p.take 64, (chunks 72 groups (p.drop 64)).map (fun e => (recNat e 0 6, e.drop 8)), p.drop (64 + 72 * groups))

/-- Leading group state records among the bytes after the sweep state record, with fuel: a group's 8-byte address ends in two
zero bytes, and a layer's image has its mark there (log 16, 17). -/
def groupRun : Nat → List Byte → Nat
  | 0, _ => 0
  | k + 1, bs => if bs.length < 72 ∨ recNat bs 6 2 ≠ 0 then 0 else groupRun k (bs.drop 72) + 1

/-- The number of group state records in a COMMIT payload. -/
def commitGroups (r : List Byte) : Nat := groupRun (recLen r) ((recPayload r).drop 64)

end Sys2Proof.Machine
end

