-- ==== Sys2Proof/Machine/SweepTable.lean ====
section
/-! DEFINITION. The sweep table: header, parameter groups, working-copy targets, and the checks of acceptance
(08 R141-R147). -/

namespace Sys2Proof.Machine

/-- A sweep table header (08 Table 8-2). -/
structure SwHdr where
  magic : Nat
  major : Nat
  groups : Nat
  targets : Nat
  step : Nat
  mask : Nat
  state : Nat
  gradScale : F32
  clip : F32
  absurd : F32
  emaShift : Nat
  warmup : Nat
  audit : Bool
  auditFail : Bool
  targetOff : Nat
  /-- The reserved fields together. -/
  reserved : Nat
deriving DecidableEq, Repr

/-- A sweep table header in memory. -/
def State.swHdr (s : State) (x a : Nat) : SwHdr :=
  let n := fun o k => s.loadNat x (a + o) k
  { magic := n 0 4, major := n 4 2, groups := n 8 2, targets := n 10 2, step := n 16 6, mask := n 24 6, state := n 32 6,
    gradScale := BitVec.ofNat 32 (n 40 4), clip := BitVec.ofNat 32 (n 44 4), absurd := BitVec.ofNat 32 (n 48 4),
    emaShift := n 52 1 % 16, warmup := n 53 1, audit := (n 54 1).testBit 0, auditFail := (n 54 1).testBit 1,
    targetOff := n 56 4,
    reserved := n 12 4 + n 22 2 + n 30 2 + n 38 2 + n 52 1 / 16 + n 54 1 / 4 + n 55 1 + n 60 4 }

/-- Group `i` of a table. -/
def State.grp (s : State) (x table i : Nat) : Grp :=
  let n := fun o k => s.loadNat x (table + 64 + 128 * i + o) k
  let f := fun o => BitVec.ofNat 32 (n o 4)
  { grad := n 0 6, master := n 8 6, residue := n 16 6, m := n 24 6, v := n 32 6, stamp := n 40 6, gstate := n 48 6,
    params := n 56 4, firstPblock := n 60 4, lr := f 64, beta1 := f 68, beta2 := f 72, eps := f 76, decay := f 80,
    layer := n 84 2, fp32 := (n 86 1).testBit 0,
    reserved := n 6 2 + n 14 2 + n 22 2 + n 30 2 + n 38 2 + n 46 2 + n 54 2 + n 86 1 / 2 + n 87 41 }

/-- A working-copy target (08 Table 8-4). -/
structure Tgt where
  group : Nat
  kind : Nat
  rows : Nat
  cols : Nat
  off : Nat
  dest : Nat
  fmt : Nat
  reserved : Nat
deriving DecidableEq, Repr

/-- Target `i` of a table. -/
def State.tgt (s : State) (x table i : Nat) : Tgt :=
  let n := fun o k => s.loadNat x (table + (s.swHdr x table).targetOff + 32 * i + o) k
  { group := n 0 2, kind := n 2 1, rows := n 4 4, cols := n 8 4, off := n 12 4, dest := n 16 6, fmt := n 24 1,
    reserved := n 3 1 + n 22 2 + n 25 7 }

/-- Update blocks of a group. -/
def Grp.blocks (g : Grp) : Nat := (g.params + 4095) / 4096

/-- Bytes of a master element. -/
def Grp.masterBytes (g : Grp) : Nat := if g.fp32 then 4 else 2

/-- The arrays and state record of a group, with their extents. -/
def Grp.extents (g : Grp) : List (Nat × Nat) :=
  [(g.grad, 4 * g.params), (g.master, g.masterBytes * g.params), (g.m, 2 * g.params), (g.v, 2 * g.params),
   (g.stamp, 8 * g.blocks), (g.gstate, 64)] ++ (if g.fp32 then [] else [(g.residue, g.params)])

/-- Parameter blocks of a group. -/
def Grp.pblocks (g : Grp) : Nat := (g.params + 255) / 256

/-- The element of a target that is row `i`, column `j` of the written tensor: reduction dimension innermost (08 R144). -/
def Tgt.outRows (t : Tgt) : Nat := if t.kind = 1 then t.cols else t.rows
def Tgt.outCols (t : Tgt) : Nat := if t.kind = 1 then t.rows else t.cols
def Tgt.param (t : Tgt) (r c : Nat) : Nat := t.off + if t.kind = 1 then c * t.cols + r else r * t.cols + c

/-- The extents of a target (08 R144, R146): a narrow one padded to 128 when its header names a layer. -/
def State.tgtExtents (s : State) (x : Nat) (t : Tgt) : List (Nat × Nat) :=
  if t.fmt = 5 then [(t.dest, 2 * t.rows * t.cols)]
  else
    let h := s.hdr x t.dest
    let re := rowElems t.outCols h.blockLen (decide (h.layer ≠ 0xFFFF))
    let blocks := t.outRows * re / h.blockLen
    [(t.dest, 64 + h.elemBytes t.outRows re), (h.scales, blocks), (h.map, 2 * ((blocks + 63) / 64 * 8))]

/-- The groups and targets of a table. -/
def State.grps (s : State) (x table : Nat) : List Grp :=
  (List.range (s.swHdr x table).groups).map (s.grp x table)
def State.tgts (s : State) (x table : Nat) : List Tgt :=
  (List.range (s.swHdr x table).targets).map (s.tgt x table)

/-- A positive or zero finite FP32 value. -/
def f32NonNeg (b : F32) : Bool := !(f32Val b).nonFinite && !Fp.lt (f32Val b) .zero

/-- A value in [0, 1). -/
def f32Beta (b : F32) : Bool := f32NonNeg b && Fp.lt (f32Val b) .one

/-- A positive value, infinity included. -/
def f32Pos (b : F32) : Bool := Fp.lt .zero (f32Val b)

/-- The field rules of the header (08 Table 8-2). -/
def SwHdr.ok (h : SwHdr) : Bool :=
  decide (1 ≤ h.groups) && decide (h.reserved = 0) && decide (h.state % 64 = 0)
    && !(f32Val h.gradScale).nonFinite && !(f32Val h.gradScale).isZero && f32Pos h.clip
    && ((f32Val h.absurd).isZero || (!(f32Val h.absurd).nonFinite && Fp.le .one (f32Val h.absurd)))
    && decide (h.emaShift ≤ 10) && decide (h.targetOff % 32 = 0)

/-- The field rules of a group (08 R141, Table 8-3): arrays aligned, and all in the memory of one stack, whole. -/
def Grp.ok (g : Grp) : Bool :=
  decide (1 ≤ g.params) && decide (g.reserved = 0) && decide (g.firstPblock % 16 = 0)
    && f32NonNeg g.lr && f32Beta g.beta1 && f32Beta g.beta2 && posNormal g.eps && f32NonNeg g.decay
    && (decide (g.layer < 1024) || decide (g.layer = 0xFFFF)) && (!g.fp32 || decide (g.residue = 0))
    && g.extents.all (fun e => decide (e.1 % 64 = 0) && decide (e.1 < 0x10000000000)
        && decide (e.1 / 0x800000000 = g.grad / 0x800000000)
        && decide (e.1 % 0x800000000 + e.2 ≤ 0x600000000))

/-- The field rules of a target against its group (08 Table 8-4, R145 check 7). -/
def Tgt.ok (t : Tgt) (gs : List Grp) : Bool :=
  decide (t.kind ≤ 1) && decide (t.reserved = 0) && decide (1 ≤ t.rows) && decide (1 ≤ t.cols) && decide (t.fmt ≤ 5)
    && (decide (t.fmt ≠ 5) || decide (t.dest % 64 = 0))
    && (match gs[t.group]? with
      | some g => decide (t.off + t.rows * t.cols ≤ g.params)
      | none => false)
    && (decide (t.kind = 0) || (decide (t.rows % 128 = 0) && decide (t.cols % 128 = 0)))

/-- The header, group entries and target list of a table. -/
def State.tableWhole (s : State) (x table : Nat) : List (Nat × Nat) :=
  let h := s.swHdr x table
  [(table, 64), (table + 64, 128 * h.groups), (table + h.targetOff, 32 * h.targets)]

/-- The bits of the frozen-block mask that the groups of a table use (08 R147). -/
def State.maskExtents (s : State) (x table : Nat) : List (Nat × Nat) :=
  let h := s.swHdr x table
  if h.mask = 0 then []
  else (s.grps x table).map (fun g => (h.mask + g.firstPblock / 8, (g.pblocks + 7) / 8))

/-- What the checks of a table read beside it: the records and the narrow targets' headers (08 R145 check 9). -/
def State.tableRecords (s : State) (x table : Nat) : List (Nat × Nat) :=
  [((s.swHdr x table).state, 64)] ++ (s.grps x table).map (fun g => (g.gstate, 64))
    ++ (s.tgts x table).filterMap (fun t => if t.fmt = 5 then none else some (t.dest, 64))

/-- Every extent that the table names (08 R146). -/
def State.tableExtents (s : State) (x table : Nat) : List (Nat × Nat) :=
  s.maskExtents x table ++ [((s.swHdr x table).state, 64)] ++ ((s.grps x table).map Grp.extents).flatten
    ++ ((s.tgts x table).map (s.tgtExtents x)).flatten

/-- A group state record is well formed: reserved fields zero, P1 and P2 in (0, 1] (08 R143, R145 check 9). -/
def State.gstateOk (s : State) (x a : Nat) : Bool :=
  let p := fun o => f32Val (BitVec.ofNat 32 (s.loadNat x (a + o) 4))
  decide (s.loadNat x (a + 6) 2 = 0) && decide (s.loadNat x (a + 14) 2 = 0) && decide (s.loadNat x (a + 24) 40 = 0)
    && Fp.lt .zero (p 16) && Fp.le (p 16) .one && Fp.lt .zero (p 20) && Fp.le (p 20) .one

/-- The records and headers that the table names are right (08 R145 check 9). -/
def State.tableRecordsOk (s : State) (x table : Nat) : Bool :=
  let h := s.swHdr x table
  decide (s.loadNat x (h.state + 6) 2 = 0) && decide (s.loadNat x (h.state + 20) 44 = 0)
    && (s.grps x table).all (fun g => s.gstateOk x g.gstate)
    && decide (s.loadNat x h.state 6 < h.step)
    && (s.tgts x table).all (fun t => decide (t.fmt = 5) || ((s.hdr x t.dest).ok t.dest && decide ((s.hdr x t.dest).fmt = t.fmt)))

/-- Another sweep is in progress on the context or names the same sweep state record. -/
def State.sweepBusy (s : State) (x table : Nat) : Bool :=
  (s.ctx x).sweep.isSome || s.ctxs.any (fun c => match c.2.sweep with
    | some w => (s.swHdr c.1 w.table).state == (s.swHdr x table).state
    | none => false)

/-- The status of those checks of a table that rest on its own bytes and on what its context may reach (08 R145); 0 passes. -/
def State.tableForm (s : State) (x table : Nat) : Nat :=
  let h := s.swHdr x table
  let es := s.tableExtents x table
  if isHostAddr table || !s.mayAccess x table 64 then stBadAddress
  else if h.magic ≠ 0x53574550 then stBadDescriptor
  else if h.major ≠ 1 then stVersionMismatch
  else if !(s.tableWhole x table).all (fun e => !isHostAddr (e.1 + e.2) && s.mayAccess x e.1 e.2) then stBadAddress
  else if es.any (fun e => isHostAddr e.1) then stBadAddress
  else if !h.ok || !(s.grps x table).all Grp.ok || !(s.tgts x table).all (fun t => t.ok (s.grps x table)) then
    stBadDescriptor
  else if !es.all (fun e => s.mayAccess x e.1 e.2) then stBadAddress
  else stOk

/-- The status of the table checks of 08 R145, in their order; 0 accepts. -/
def State.tableCheck (s : State) (x table : Nat) : Nat :=
  let form := s.tableForm x table
  if s.sweepBusy x table then stBusy
  else if form ≠ stOk then form
  else if !s.tableRecordsOk x table then stBadDescriptor
  else stOk

/-- The frozen bit of a parameter block of a group (08 R147). -/
def State.frozen (s : State) (x : Nat) (h : SwHdr) (g : Grp) (pb : Nat) : Bool :=
  let i := g.firstPblock + pb
  decide (h.mask ≠ 0) && (s.load x (h.mask + i / 8)).getLsbD (i % 8)

/-- Parameters of an update block that are not frozen, by index in the group. -/
def State.blockParams (s : State) (x : Nat) (h : SwHdr) (g : Grp) (blk : Nat) : List Nat :=
  ((List.range 4096).map (fun i => 4096 * blk + i)).filter (fun i => decide (i < g.params) && !s.frozen x h g (i / 256))

/-- An update block is part of the sweep: some parameter block of it is not frozen. -/
def State.inSweep (s : State) (x : Nat) (h : SwHdr) (g : Grp) (blk : Nat) : Bool :=
  (List.range 16).any (fun k => decide (16 * blk + k < g.pblocks) && !s.frozen x h g (16 * blk + k))

/-- The stack, and so the engine, of a group. -/
def Grp.engine (g : Grp) : Nat := g.grad / 0x800000000

/-- The update blocks of an engine, in ascending group index and block number (08 R157). -/
def State.engineBlocks (s : State) (x table e : Nat) : List (Nat × Nat) :=
  let h := s.swHdr x table
  (((s.grps x table).mapIdx (fun i g =>
    if g.engine = e then
      ((List.range g.blocks).filter (s.inSweep x h g)).map (fun b => (i, b))
    else [])).flatten)

end Sys2Proof.Machine
end

