-- ==== Sys2Proof/Machine/Update.lean ====
section
/-! DEFINITION. The arithmetic of the update sweep: the update rule, master and residue, norms and monitors, and the
working copies (03 R49-R54; 08 R148-R154, R161, R163). -/

namespace Sys2Proof.Machine

/-! ### Master and residue (03 R42, 08 R150) -/

/-- The biased exponent of a BF16 value. -/
def bf16Exp (w : Nat) : Nat := bits w 14 7

/-- The exponent of one residue unit. -/
def resUnit (w : Nat) : Int := (max (bf16Exp w) 1 : Nat) - 142

/-- The value that a master and a residue byte represent, exactly. -/
def masterVal (w r : Nat) : Fp :=
  let r : Int := if r ≥ 128 then (r : Int) - 256 else r
  (decodeElem 5 w).add (.fin (decide (r < 0)) r.natAbs (resUnit w))

/-- An exact number rounded to an integer, nearest even. -/
def Fp.toIntRne : Fp → Int
  | .fin s m e => signed s (if e ≥ 0 then m * 2 ^ e.toNat else rneShift m (-e).toNat false)
  | _ => 0

/-- split of 08 R150: the BF16 master and the residue byte of an FP32 value. -/
def splitMaster (w1 : F32) : Nat × Nat :=
  let w := (bf16OfF32 w1).toNat
  if bf16Exp w = 255 then (w, 0)
  else
    let res := fun (w : Nat) => (((f32Val w1).sub (decodeElem 5 w)).scale (-(resUnit w))).toIntRne
    let r := res w
    let (w, r) := if r = 128 then
        let w := if w = 0x8000 then 1 else if w.testBit 15 then w - 1 else w + 1
        (w, res w)
      else (w, r)
    (w, (r % 256).toNat)

/-! ### The update rule (08 R148, R149) -/

/-- 1 - x in FP32. -/
def oneMinus (x : F32) : F32 := (Fp.one.sub (f32Val x)).toF32

/-- A group as its engine holds it for pass 2, from T, P1 and P2 of its state record (08 R148). -/
def Grp.hold (g : Grp) (t : Nat) (oldP1 oldP2 : F32) : HeldGrp :=
  let p1 := f32Mul oldP1 g.beta1
  let p2 := f32Mul oldP2 g.beta2
  { g := g, t := t, c1 := oneMinus g.beta1, c2 := oneMinus g.beta2, p1 := p1, p2 := p2, b1 := oneMinus p1, b2 := oneMinus p2,
    ld := f32Mul g.lr g.decay }

/-- The new values of one parameter: moments, master value before its split, and whether any is non-finite (R151). -/
structure Updated where
  m : Nat
  v : Nat
  w1 : F32
  bad : Bool
deriving DecidableEq, Repr

/-- update of 08 R149. `w` is the value of master and residue. -/
def updateRule (c : HeldGrp) (q grad : F32) (w : Fp) (m v : Nat) : Updated :=
  let g := c.g
  let val := f32Val
  let gq := f32Mul grad q
  let m1 := (((val g.beta1).mul (decodeElem 5 m)).add ((val c.c1).mul (val gq))).toF32
  let v1 := (((val g.beta2).mul (decodeElem 5 v)).add (((val c.c2).mul (val gq)).mul (val gq))).toF32
  let den := f32Add (f32Sqrt (val (f32Div (val v1) (val c.b2)))) g.eps
  let u := f32Div (val (f32Div (val m1) (val c.b1))) (val den)
  let w1 := ((w.sub ((val g.lr).mul (val u))).sub ((val c.ld).mul w)).toF32
  let m' := (bf16OfF32 m1).toNat
  let v' := (bf16OfF32 v1).toNat
  { m := m', v := v', w1 := w1,
    bad := (val w1).nonFinite || (decodeElem 5 m').nonFinite || (decodeElem 5 v').nonFinite
      || (!g.fp32 && (decodeElem 5 (bf16OfF32 w1).toNat).nonFinite) }

/-- The value W of a parameter of a group (08 R149, R161). -/
def State.paramVal (s : State) (x : Nat) (g : Grp) (i : Nat) : Fp :=
  if g.fp32 then f32Val (BitVec.ofNat 32 (s.loadNat x (g.master + 4 * i) 4))
  else masterVal (s.loadNat x (g.master + 2 * i) 2) (s.loadNat x (g.residue + i) 1)

/-- A group held for pass 2 as its state record stands. -/
def State.holdGrp (s : State) (x : Nat) (g : Grp) : HeldGrp :=
  g.hold (s.loadNat x (g.gstate + 8) 6) (BitVec.ofNat 32 (s.loadNat x (g.gstate + 16) 4))
    (BitVec.ofNat 32 (s.loadNat x (g.gstate + 20) 4))

/-- The parameter range of a parameter block: first parameter and count. -/
def Grp.pblock (g : Grp) (pb : Nat) : Nat × Nat := (256 * pb, min 256 (g.params - 256 * pb))

/-- One parameter block is updated: moments, then residue, then master (08 R157 step 2); and how many parameters were
non-finite. -/
def State.updatePblock (s : State) (x : Nat) (c : HeldGrp) (q : F32) (pb : Nat) : State × Nat :=
  let g := c.g
  let (lo, n) := g.pblock pb
  let us := (List.range n).map (fun k =>
    let i := lo + k
    updateRule c q (BitVec.ofNat 32 (s.loadNat x (g.grad + 4 * i) 4)) (s.paramVal x g i)
      (s.loadNat x (g.m + 2 * i) 2) (s.loadNat x (g.v + 2 * i) 2))
  let put := fun (s : State) a (bs : List (List Byte)) => s.stores x a bs.flatten
  let s := put s (g.m + 2 * lo) (us.map (fun u => natLe u.m 2))
  let s := put s (g.v + 2 * lo) (us.map (fun u => natLe u.v 2))
  let s := if g.fp32 then put s (g.master + 4 * lo) (us.map (fun u => natLe u.w1.toNat 4))
    else
      let s := put s (g.residue + lo) (us.map (fun u => natLe (splitMaster u.w1).2 1))
      put s (g.master + 2 * lo) (us.map (fun u => natLe (splitMaster u.w1).1 2))
  (s, (us.filter Updated.bad).length)

/-- The unfrozen parameter blocks of an update block. -/
def State.livePblocks (s : State) (x : Nat) (h : SwHdr) (g : Grp) (blk : Nat) : List Nat :=
  ((List.range 16).map (fun k => 16 * blk + k)).filter (fun pb => decide (pb < g.pblocks) && !s.frozen x h g pb)

/-- The planes of an update block: moments, residue and master, as address and bytes. -/
def Grp.planes (g : Grp) (blk : Nat) : List (Nat × Nat) :=
  let lo := 4096 * blk
  let n := min 4096 (g.params - lo)
  [(g.m + 2 * lo, 2 * n), (g.v + 2 * lo, 2 * n)] ++ (if g.fp32 then [] else [(g.residue + lo, n)])
    ++ [(g.master + g.masterBytes * lo, g.masterBytes * n)]

/-- The extents that pass 2 reads for an update block: gradients, and the copies it changes. -/
def State.blockReads (s : State) (x : Nat) (h : SwHdr) (g : Grp) (blk : Nat) : List (Nat × Nat) × List (Nat × Nat) :=
  let pbs := (s.livePblocks x h g blk).map g.pblock
  (pbs.map (fun (lo, n) => (g.grad + 4 * lo, 4 * n)),
   (pbs.map (fun (lo, n) => [(g.m + 2 * lo, 2 * n), (g.v + 2 * lo, 2 * n), (g.master + g.masterBytes * lo, g.masterBytes * n)]
      ++ (if g.fp32 then [] else [(g.residue + lo, n)]))).flatten)

/-! ### Norms (08 R152, 03 R49) -/

/-- The exact sum of squares of a group's gradient over its unfrozen parameter blocks. -/
def State.gradSquares (s : State) (x : Nat) (h : SwHdr) (g : Grp) : Fp :=
  (List.range g.params).foldl (fun acc i =>
    if s.frozen x h g (i / 256) then acc
    else
      let v := f32Val (BitVec.ofNat 32 (s.loadNat x (g.grad + 4 * i) 4))
      acc.add (v.mul v)) .zero

/-- A layer's sum joined by another. -/
def addLayer (l : LayerSums) (n : Nat) (v : Fp) : LayerSums :=
  if l.any (fun e => e.1 == n) then l.map (fun e => if e.1 = n then (n, e.2.add v) else e)
  else sins l n v

/-- Two lists of layer sums combined. -/
def addLayers (a b : LayerSums) : LayerSums := b.foldl (fun l e => addLayer l e.1 e.2) a

/-- The integer and flags by which a message carries an exact sum (05 Table 5-5). -/
def exactInt (v : Fp) : Int × BitVec 3 :=
  match v with
  | .nan => (0, 1)
  | .inf false => (0, 2)
  | .inf true => (0, 4)
  | .fin s m e => (if e ≥ -300 then Fp.signed s (m * 2 ^ (e + 300).toNat) else Fp.signed s (m / 2 ^ (-300 - e).toNat), 0)

/-- The exact sum that an integer and flags carry. -/
def ofExactInt (n : Int) (f : BitVec 3) : Fp :=
  if f.getLsbD 0 || (f.getLsbD 1 && f.getLsbD 2) then .nan
  else if f.getLsbD 1 then .inf false
  else if f.getLsbD 2 then .inf true
  else .fin (decide (n < 0)) n.natAbs (-300)

/-- One rounding of the square root of an exact sum. -/
def normOf (sum : Fp) : F32 := f32Sqrt sum

/-! ### Monitors (03 R50) -/

/-- NORM_FACTOR, EMA_SHIFT and NORM_WARMUP. -/
def State.monFactor (s : State) : Nat := max 2 (s.field Off.numMonCtrl 23 16)
def State.monShift (s : State) : Nat :=
  let k := s.field Off.numMonCtrl 15 12
  if 1 ≤ k ∧ k ≤ 10 then k else 5
def State.monWarmup (s : State) : Nat := s.field Off.numMonCtrl 11 4

/-- A running average moved toward a sample by 2^-k, each operation rounded. -/
def emaStep (a x : F32) (k : Nat) : F32 :=
  let d := ((f32Val x).sub (f32Val a)).toF32
  f32Add a (((f32Val d).scale (-(k : Int))).toF32)

/-- One sample of a norm: whether it trips, and the average and sample count after it. -/
def State.monitor (s : State) (avg : Option F32) (samples : Nat) (x : F32) : Bool × Option F32 × Nat :=
  let bad := (f32Val x).nonFinite
  let above := match avg with
    | some a => Fp.lt (f32Val (((Fp.ofNat s.monFactor).mul (f32Val a)).toF32)) (f32Val x)
    | none => false
  let trip := decide (s.monWarmup ≤ samples) && (bad || above)
  let avg := match avg with
    | none => if bad then none else some x
    | some a => if bad || trip then some a else some (emaStep a x s.monShift)
  (trip, avg, samples + 1)

/-! ### Working copies (08 R161, R163) -/

/-- The values of a row of a target, along its reduction dimension. -/
def State.tgtRow (s : State) (x : Nat) (g : Grp) (t : Tgt) (r : Nat) : List Fp :=
  (List.range t.outCols).map (fun c => s.paramVal x g (t.param r c))

/-- A row of a BF16 target. -/
def State.tgtRowBf16 (s : State) (x : Nat) (g : Grp) (t : Tgt) (r : Nat) : List Byte :=
  ((List.range t.outCols).map (fun c =>
    let i := t.param r c
    if g.fp32 then natLe (bf16OfF32 (BitVec.ofNat 32 (s.loadNat x (g.master + 4 * i) 4))).toNat 2
    else s.loads x (g.master + 2 * i) 2)).flatten

/-- The overflow map of a narrow target covers its extent (08 R146; log 39). -/
def State.sizeTarget (s : State) (x : Nat) (t : Tgt) : State :=
  if t.fmt = 5 then s
  else s.sizeMap x (s.hdr x t.dest).map (match s.tgtExtents x t with
    | [_, scales, _] => scales.2
    | _ => 0)

/-- A target re-derived from the master (08 R161). -/
def State.rederive (s : State) (x : Nat) (g : Grp) (t : Tgt) : State :=
  if t.fmt = 5 then
    (List.range t.outRows).foldl (fun s r => s.stores x (t.dest + 2 * r * t.outCols) (s.tgtRowBf16 x g t r)) s
  else
    let s := (s.sizeTarget x t).beginWrite x t.dest false (s.rotMode (s.hdr x t.dest).layer)
    (List.range t.outRows).foldl (fun s r => s.writeRow x t.dest r (s.tgtRow x g t r)) s

/-- The extents that a re-derivation reads. -/
def Grp.tgtReads (g : Grp) (t : Tgt) : List (Nat × Nat) :=
  [(g.master + g.masterBytes * t.off, g.masterBytes * t.rows * t.cols)]
    ++ (if g.fp32 then [] else [(g.residue + t.off, t.rows * t.cols)])

/-- What a re-derivation reads of a narrow target itself: its header and overflow map (03 R33, R39). -/
def State.tgtOwn (s : State) (x : Nat) (t : Tgt) : List (Nat × Nat) :=
  let h := s.hdr x t.dest
  h.ownReads t.dest t.outRows (rowElems t.outCols h.blockLen (decide (h.layer ≠ 0xFFFF)))

/-- The packed bytes of a block's element codes. -/
def packCodes (fmt : Nat) (codes : List Nat) : List Byte :=
  let w := fmtBits fmt
  natLe ((codes.mapIdx (fun i c => c * 2 ^ (w * i))).sum) (codes.length * w / 8)

/-- The blocks of a row as R161 derives them for the audit: packed elements and scale bytes (08 R163). -/
def State.auditRow (s : State) (x : Nat) (h : Hdr) (g : Grp) (t : Tgt) (r : Nat) : List (List Byte × Byte) :=
  let vals := s.tgtRow x g t r
  let re := rowElems t.outCols h.blockLen h.rotated
  let vals := if h.rotated then
      ((chunks 128 (re + 1) vals).mapIdx (fun k v => rotate (s.seed h.layer) (128 * k) v)).flatten
    else vals
  (chunks h.blockLen (re + 1) vals).mapIdx (fun k v =>
    let stored := s.blockScale x h (r * (re / h.blockLen) + k)
    let b0 := (chooseScale v h.t h.fmt 0).1
    let (b, qs, _) := chooseScale v h.t h.fmt (if stored = b0 + 1 then 1 else 0)
    let codes := qs.map (fun q => if b = 255 then 0 else (rneSat h.fmt (q.scale (127 - (b : Int)))).1)
    (packCodes h.fmt (codes ++ List.replicate (h.blockLen - codes.length) 0), BitVec.ofNat 8 b))

/-- What the audit reads of a target: its header, elements and scales, without map or padding (08 R163). -/
def State.auditReads (s : State) (x : Nat) (t : Tgt) : List (Nat × Nat) :=
  if t.fmt = 5 then [(t.dest, 2 * t.rows * t.cols)]
  else
    let h := s.hdr x t.dest
    let re := rowElems t.outCols h.blockLen h.rotated
    [(t.dest, 64 + h.elemBytes t.outRows re), (h.scales, t.outRows * re / h.blockLen)]

/-- The stored and derived CRCs of a target (08 R163). -/
def State.auditCrcs (s : State) (x : Nat) (g : Grp) (t : Tgt) : Nat × Nat :=
  if t.fmt = 5 then
    (crc64 (s.loads x t.dest (2 * t.rows * t.cols)),
     crc64 (((List.range t.outRows).map (fun r => s.tgtRowBf16 x g t r)).flatten))
  else
    let h := s.hdr x t.dest
    let re := rowElems t.outCols h.blockLen h.rotated
    let blocks := t.outRows * re / h.blockLen
    let rows := ((List.range t.outRows).map (fun r => s.auditRow x h g t r)).flatten
    (crc64 (s.loads x (t.dest + 64) (h.elemBytes t.outRows re) ++ s.loads x h.scales blocks),
     crc64 ((rows.map (·.1)).flatten ++ rows.map (·.2)))

end Sys2Proof.Machine
end

