-- ==== Sys2Proof/Machine/Export.lean ====
section
/-! DEFINITION. The outgoing record stream: the export spools and what a unit emits into them (09 R166-R174). -/

namespace Sys2Proof.Machine

/-- Export to the partner is enabled (UPD.EXP_CTRL.EN). -/
def State.exporting (s : State) : Bool := s.flag Off.updExpCtrl 0

/-- Records are formed: for the partner or for the host copy. -/
def State.streaming (s : State) : Bool := s.exporting || s.fail.exp.host.isSome

/-- The partner follows the stream: export is enabled and the partner is neither lost nor being resynchronised. -/
def State.mirrored (s : State) : Bool := s.exporting && !s.fail.exp.lost && !s.fail.exp.resync

/-- The state with the export stream changed. -/
def State.modExp (s : State) (f : ExportSt → ExportSt) : State := { s with fail := { s.fail with exp := f s.fail.exp } }

/-- Bytes that records and old rows hold in the spool of a stack. -/
def State.spoolUsed (s : State) (k : Nat) : Nat :=
  ((s.fail.exp.recs.filter (fun r => r.stack == k)).map (fun r => r.bytes.length)).sum
    + ((s.fail.exp.rows.filter (fun r => r.stack == k)).map (fun r => r.bytes.length)).sum

/-- Base and size in bytes of a stack's spool (UPD.EXP_SPOOL). -/
def State.spoolBase (s : State) (k : Nat) : Nat := k * 0x800000000 + s.field (Off.updExpSpool k) 14 0 * 0x100000
def State.spoolSize (s : State) (k : Nat) : Nat := s.field (Off.updExpSpool k) 46 32 * 0x100000

/-- Bytes written into a ring of `size` bytes at a device address, from a position on. -/
def State.putRing (s : State) (base size pos : Nat) (bs : List Byte) : State :=
  if size = 0 then s
  else
    let p := pos % size
    let first := bs.take (size - p)
    ((s.stores 0 (base + p) first).stores 0 base (bs.drop (size - p))).chargeAll [(base + p, bs.length)] true

/-- Bytes written where a stack's spool is written next. -/
def State.putSpool (s : State) (k : Nat) (bs : List Byte) : State :=
  let pos := sget 0 s.fail.exp.heads k
  (s.putRing (s.spoolBase k) (s.spoolSize k) pos bs).modExp (fun e => { e with
    heads := sput 0 e.heads k (if s.spoolSize k = 0 then 0 else (pos + bs.length) % s.spoolSize k) })

/-- A spool has room for more bytes; a host copy alone is never delayed (09 R170, R174). -/
def State.spoolRoom (s : State) (k n : Nat) : Bool :=
  !s.exporting || decide (s.spoolUsed k + n ≤ s.spoolSize k)

/-- A record before it has a sequence number. -/
structure Draft where
  kind : Nat
  ctx : Nat
  /-- FP32_MASTER and FULL. -/
  flags : Nat := 0
  step : Nat
  count : Nat := 0
  stack : Nat := 0
  fields : List Byte := []
  payload : List Byte := []
  dataCrc : Nat := 0
  /-- What forming the record reads of memory. -/
  reads : List (Nat × Nat) := []
deriving DecidableEq, Repr

/-- The bytes of a draft under a sequence number. -/
def Draft.bytes (d : Draft) (seq : BitVec 32) : List Byte :=
  recordBytes seq.toNat d.kind d.ctx d.flags d.step d.count d.fields d.payload d.dataCrc

/-- A unit emits a record into the spool of its stack (09 R166, R170). A host copy alone keeps no spool (R174). -/
def State.emit (s : State) (d : Draft) : State :=
  if s.streaming then
    let q := s.fail.exp.seq
    let pos := sget 0 s.fail.exp.heads d.stack
    let t := if s.exporting then s.putSpool d.stack (d.bytes q) else s
    t.modExp (fun e => { e with
      seq := q + 1, recs := e.recs ++ [{ seq := q, kind := d.kind, ctx := d.ctx, step := d.step, stack := d.stack
                                         bytes := d.bytes q, pos := pos }] })
  else s

/-- Old rows are copied into the spools of their stacks (09 R170). -/
def State.keepRows (s : State) : List OldRow → State
  | [] => s
  | r :: rs => ((s.putSpool r.stack r.bytes).modExp (fun e => { e with rows := e.rows ++ [r] })).keepRows rs

/-- The old rows that a commit copies: each journalled row once, in the form its journal holds (09 R170; log 30). -/
def State.oldRows (s : State) (x step : Nat) (js : List JRow) : List OldRow :=
  if s.exporting then js.map (fun r =>
    { ctx := x, step := step, stack := r.addr / 0x800000000, bytes := r.old ++ r.oldScale :: List.replicate 7 0 })
  else []

/-- Records are emitted in order. -/
def State.emitAll (s : State) : List Draft → State
  | [] => s
  | d :: ds => (s.emit d).emitAll ds

/-- The spools have room for all of some records and old rows. -/
def State.roomFor (s : State) (ds : List Draft) (rows : List OldRow := []) : Bool :=
  (List.range 32).all (fun k =>
    let n := ((ds.filter (fun d => d.stack == k)).map (fun d => (d.bytes 0).length)).sum
      + ((rows.filter (fun r => r.stack == k)).map (fun r => r.bytes.length)).sum
    n == 0 || s.spoolRoom k n)

/-- The BLOCK record of an update block, from the old and the new bytes of its planes (09 R168). -/
def State.blockDraft (s : State) (x : Nat) (g : Grp) (blk step : Nat) (full : Bool) (old : List (List Byte)) : Draft :=
  let planes := g.planes blk
  let ws := if g.fp32 then [2, 2, 4] else [2, 2, 1, 2]
  let new := planes.map (fun p => s.loads x p.1 p.2)
  let diffs := (List.range planes.length).map (fun i =>
    if full then new.getD i [] else planeDiff (ws.getD i 2) (new.getD i []) (old.getD i []))
  let lo := 4096 * blk
  { kind := kBlock, ctx := x, flags := b2n g.fp32 + 2 * b2n full, step := step, count := min 4096 (g.params - lo),
    stack := g.engine,
    fields := natLe (g.master + g.masterBytes * lo) 6 ++ natLe (g.m + 2 * lo) 6 ++ natLe (g.v + 2 * lo) 6
      ++ natLe (if g.fp32 then 0 else g.residue + lo) 6 ++ natLe (g.stamp + 8 * blk) 6,
    payload := compress diffs.flatten, dataCrc := (crc32c new.flatten).toNat, reads := planes }

/-- The TENSOR record of a narrow tensor: header and committed map, from old to new (09 Table 9-4). -/
def tensorDraft (x step hdr map : Nat) (oldHdr newHdr oldMap newMap : List Byte) : Draft :=
  { kind := kTensor, ctx := x, step := step,
    fields := natLe hdr 6 ++ natLe map 6 ++ natLe newMap.length 4,
    payload := compress (xorBytes newHdr oldHdr ++ xorBytes newMap oldMap),
    dataCrc := (crc32c (newHdr ++ newMap)).toNat }

/-- The ROWS record of one journalled row. -/
def State.rowDraft (s : State) (x step : Nat) (r : JRow) : Draft :=
  let row := s.loads x r.addr r.old.length
  let scale := r.scaleAddr.map (fun a => (a, s.load x a))
  { kind := kRows, ctx := x, step := step, count := 1, stack := r.addr / 0x800000000,
    fields := natLe row.length 2 ++ natLe r.fmt 1,
    payload := natLe r.addr 8 ++ row ++ (match scale with
      | some (a, b) => b :: natLe a 6 ++ [0]
      | none => natLe 0 8),
    dataCrc := (crc32c (row ++ (match scale with
      | some (_, b) => [b]
      | none => []))).toNat }

/-- An optional FP32 value as 5 bytes: whether it is there, then its bits. -/
def optBytes : Option F32 → List Byte
  | none => natLe 0 5
  | some v => 1 :: natLe v.toNat 4
def ofOptBytes (bs : List Byte) : Option F32 := if bs.headD 0 = 0 then none else some (BitVec.ofNat 32 (leNat (bs.drop 1)))

/-- The 512 bytes that the numerics image carries for a layer: its number and a mark, averages, sample counts, still-water count,
steps counted, remaining rotated steps and flagged-block window (09 R167; the layout is the model's, log 16). -/
def LayerSt.image (n : Nat) (l : LayerSt) : List Byte :=
  natLe n 6 ++ natLe 0xFFFF 2 ++ optBytes l.avgOut ++ optBytes l.avgGrad ++ natLe l.samplesOut 8 ++ natLe l.samplesGrad 8
    ++ natLe l.still 2 ++ natLe l.age 8 ++ natLe l.recovery 2 ++ natLe (b2n l.startLeft.isSome) 1
    ++ natLe (l.startLeft.getD 0) 2 ++ natLe l.window.length 1 ++ l.window.map (BitVec.ofNat 8)
    ++ List.replicate (462 - l.window.length) 0

/-- The bytes `lo` to `lo + n - 1` of an image as a number. -/
def imageNat (b : List Byte) (lo n : Nat) : Nat := leNat ((b.drop lo).take n)

/-- A layer with what its image carries. -/
def LayerSt.ofImage (l : LayerSt) (b : List Byte) : LayerSt :=
  { l with avgOut := ofOptBytes ((b.drop 8).take 5), avgGrad := ofOptBytes ((b.drop 13).take 5),
           samplesOut := imageNat b 18 8, samplesGrad := imageNat b 26 8, still := imageNat b 34 2, age := imageNat b 36 8,
           recovery := imageNat b 44 2, startLeft := if imageNat b 46 1 = 0 then none else some (imageNat b 47 2),
           window := ((b.drop 50).take (imageNat b 49 1)).map BitVec.toNat }

/-- A layer's numbers are a context's: assigned to it, or to no context. -/
def State.hasLayer (s : State) (x n : Nat) : Bool :=
  match s.layerOwner n with
  | some y => y == x
  | none => true

/-- The numerics image of a context's layers in use. -/
def State.numericsImage (s : State) (x : Nat) (ls : SMap LayerSt) : List Byte :=
  ((ls.filter (fun l => s.hasLayer x l.1)).map (fun l => LayerSt.image l.1 l.2)).flatten

/-- The COMMIT record that closes a step. -/
def State.commitDraft (s : State) (x step before stateAddr : Nat) (groups : List Nat) (image : List Byte) : Draft :=
  { kind := kCommit, ctx := x, step := step, fields := natLe before 6 ++ natLe stateAddr 6,
    payload := s.loads x stateAddr 64 ++ (groups.map (fun a => natLe a 8 ++ s.loads x a 64)).flatten ++ image
    reads := (stateAddr, 64) :: groups.map (fun a => (a, 64)) }

end Sys2Proof.Machine
end

