-- ==== Sys2Proof/Machine/Sweep.lean ====
section
/-! DEFINITION. The update sweep: acceptance, pass 1, the norm, the decision, pass 2 with its lock chamber, re-derivation
and commit (03 R40, R48-R54; 04 R78; 08 R145-R163; 13 R277-R279). -/

namespace Sys2Proof.Machine

/-- The state with a sweep in progress changed. -/
def State.modSweep (s : State) (x : Nat) (f : Sweep → Sweep) : State :=
  s.modCtx x (fun c => { c with sweep := c.sweep.map f })

/-- The command of the sweep in progress. -/
def CtxSt.sweepCmd (c : CtxSt) (w : Sweep) : Option Cmd := c.cmd w.idx

/-- The sweep of a context that may take its next step: one is in progress, nothing stops its step. -/
def State.sweepIn (s : State) (x : Nat) (p : SweepPhase) : Option Sweep :=
  let c := s.ctx x
  match c.sweep with
  | some w => if w.phase = p ∧ c.mayRun ∧ !c.stopped then some w else none
  | none => none

/-- A die of the context runs four logical hives on three slots, or a hive was replaced in the step (13 R279). -/
def State.wasRemapped (s : State) (x : Nat) : Bool :=
  (s.ctx x).remapped || s.hive.three.any (fun e => (List.range 4).any (fun j => s.ownsHive x (4 * e.1 + j)))

/-- The causes that RESULT records, with REMAPPED as it stands (13 R279). -/
def State.causes (s : State) (x bits : Nat) : Nat := bits ||| (0x400 * b2n (s.wasRemapped x))

/-- The sweep ends without committing: its command completes, which stops its step. -/
def State.sweepFail (s : State) (x : Nat) (w : Sweep) (status result : Nat) : State :=
  s.complete x w.idx status (s.causes x result)

/-! ### Acceptance (08 R145, R146, 13 R277) -/

/-- The module number that a rank map gives a rank. -/
def State.rankModule (s : State) (x map r : Nat) : Nat := s.loadNat x (map + 2 * r) 2

/-- This module's rank in a context's job. -/
def State.rank (s : State) (x : Nat) : Nat := s.field (Off.ctxJob x) 29 16

/-- NORM_JOB and RANKMAP of an UPDATE_SWEEP. -/
def Cmd.normJob (c : Cmd) : Bool := c.f 128 128 == 1
def Cmd.rankMap (c : Cmd) : Nat := c.addr 192

/-- The checks of a sweep as it starts: the rank map, then the table. -/
def State.sweepCheck (s : State) (x : Nat) (d : Cmd) : Nat :=
  if d.normJob && isHostAddr d.rankMap then stBadAddress
  else if d.normJob && s.rankModule x d.rankMap (s.rank x) != s.moduleNo then stBadDescriptor
  else s.tableCheck x d.sweepTable

/-- What the acceptance of a sweep reads: the rank map, the table, and what its last check reads (06 R115, 07 R137). -/
def State.sweepReads (s : State) (x : Nat) (d : Cmd) : List (Nat × Nat) :=
  (if d.normJob then [(d.rankMap + 2 * s.rank x, 2)] else [])
    ++ s.tableWhole x d.sweepTable ++ s.tableRecords x d.sweepTable

/-- UPDATE_SWEEP: the table is checked in full; from acceptance its ranges are protected. A context's first table brings blocks
that the partner has never had, so the stream starts its resynchronisation again (09 R177; log 30). -/
def execUpdateSweep (x : Ctx) (s : State) : Out :=
  match s.startableOp x.val 6 with
  | none => .next s
  | some d =>
    let st := s.sweepCheck x.val d
    if st ≠ stOk then .next (s.complete x.val d.idx st 0)
    else if let some a := s.badAmong (s.sweepReads x.val d) then .next (s.uncorrectable x.val a 0x22)
    else
      let fresh := (s.ctx x.val).table.isNone
      let other := (s.ctx x.val).table != some d.sweepTable
      let s := s.modExp (fun e => if (fresh && s.exporting) || (other && e.resync) then
        { e with resync := true, resyncPos := 0, resyncEnd := none } else e)
      let s := s.chargeAll (s.sweepReads x.val d)
      .next ((s.start x.val d.idx).modCtx x.val (fun c => { c with
        sweep := some { idx := d.idx, table := d.sweepTable }, table := some d.sweepTable, rankMap := if d.normJob then d.rankMap else 0
        guards := c.guards ++ [(d.idx, s.tableExtents x.val d.sweepTable)] }))

/-! ### Pass 1 (08 R152, R163, R173; 12 R257) -/

/-- A SNAPSHOT of the context is in progress or suspended (13 R281). -/
def CtxSt.snapshotOpen (c : CtxSt) : Bool :=
  c.cmds.any (fun d => decide (d.phase = .started) && d.opcode == 0x10 && d.sub == 2)

/-- The layers that groups of a table name, in ascending number. -/
def layersOf (gs : List Grp) : List Nat :=
  gs.foldl (fun l g => if g.layer < 1024 then (sins (sdel (l.map (fun n => (n, ()))) g.layer) g.layer ()).map (·.1) else l) []

/-- The blocks of a narrow gradient tensor that 03 R53 looks at: those the tensor is known to hold and the groups of its layer
do not freeze (log 38, 39). -/
def State.gradLooked (s : State) (x : Nat) (h : SwHdr) (gs : List Grp) (a : Nat) : List Nat :=
  (List.range (sget 0 (s.ctx x).tops (s.hdr x a).map)).filter (fun b =>
    !gs.any (fun g => decide (Config.gradientPblock a b < g.pblocks) && s.frozen x h g (Config.gradientPblock a b)))

/-- A layer meets the second condition of 03 R53: it has a narrow gradient tensor, and every block looked at of every such tensor
whose header names it was written in the step, with scale 0x00 alone. -/
def State.stillScale (s : State) (x : Nat) (h : SwHdr) (gs : List Grp) (n : Nat) : Bool :=
  let l := s.layer n
  let bs := (l.grads.filter (fun e => (s.hdr x e.1).layer == n)).flatMap (fun e =>
    (s.gradLooked x h (gs.filter (fun g => g.layer == n)) e.1).map (fun b => e.1 + 2 ^ 48 * b))
  !bs.isEmpty && bs.all (fun k => sget 0 l.gradBlocks k == 1)

/-- A target's audit: its CRCs differ (08 R163). -/
def State.auditOne (s : State) (x table i : Nat) : State × Bool :=
  let t := s.tgt x table i
  let (a, b) := s.auditCrcs x (s.grp x table t.group) t
  if a = b then (s, false)
  else
    let s := s.setFlag Off.updAuditStat 16 true
    ((s.countField Off.updAuditStat 15 0 1).note 4 false 0x22 0x0204 [i, a, b] (some x) 0
      (s.grp x table t.group).engine, true)

/-- The audit of every target. -/
def State.auditAll (s : State) (x table : Nat) : List Nat → State × List Nat
  | [] => (s, [])
  | i :: is =>
    let (s, bad) := s.auditOne x table i
    let (s, l) := s.auditAll x table is
    (s, if bad then i :: l else l)

/-- The extents that pass 1 reads: the mask, the gradients of unfrozen parameter blocks, and, with AUDIT, masters, residues and
the stored copies. -/
def State.pass1Grads (s : State) (x table : Nat) : List (Nat × Nat) :=
  let h := s.swHdr x table
  s.maskExtents x table ++ ((s.grps x table).map (fun g =>
    ((List.range g.pblocks).filter (fun pb => !s.frozen x h g pb)).map (fun pb =>
      (g.grad + 4 * (g.pblock pb).1, 4 * (g.pblock pb).2)))).flatten
def State.pass1Audit (s : State) (x table : Nat) : List (Nat × Nat) :=
  if (s.swHdr x table).audit then
    ((s.tgts x table).map (fun t => (s.grp x table t.group).tgtReads t)).flatten
  else []
def State.pass1Copies (s : State) (x table : Nat) : List (Nat × Nat) :=
  if (s.swHdr x table).audit then ((s.tgts x table).map (s.auditReads x)).flatten else []

def State.pass1Reads (s : State) (x table : Nat) : List (Nat × Nat) :=
  s.pass1Grads x table ++ s.pass1Audit x table ++ s.pass1Copies x table

/-- An update engine's uncorrectable access is reported, and its row or line is to be repaired (06 R115, 07 R137). -/
def State.sweepReport (s : State) (x a : Nat) : State :=
  let step := (s.ctx x).step + 1
  if a < 0x10000000000 then (s.reportStack a 0x22 step).wantRepair a step
  else if a < 0x10400000000 then s.wantSpareLine a
  else s

/-- An uncorrectable access to a master, residue, moment or record: recovered from the mirror partner, or the step fails and
takeover is asked for (08 R160). -/
def State.sweepBad (s : State) (x : Nat) (w : Sweep) (a e : Nat) : State :=
  let s := s.sweepReport x a
  if s.mirrored then s.modSweep x (fun w => { w with stopped := w.stopped ++ [e], met := w.met ++ [a], resumed := true })
  else (s.sweepFail x w stStepFailed w.bits).takeoverReq stStepFailed e

/-- Pass 1 may begin: export of the step before is acknowledged, and no SNAPSHOT of the context is open (09 R173, 13 R281). -/
def State.pass1Ready (s : State) (x : Nat) (w : Sweep) : Bool :=
  let c := s.ctx x
  (!s.mirrored || c.unacked.isNone) && !c.snapshotOpen && w.stopped.isEmpty

/-- The sums of pass 1 with what the audit found. -/
def State.pass1Sums (s : State) (x : Nat) (w : Sweep) : State :=
  let h := s.swHdr x w.table
  let gs := s.grps x w.table
  let parts := gs.map (fun g => (g.layer, s.gradSquares x h g, (List.range g.pblocks).any (fun pb => !s.frozen x h g pb)))
  let sum := Fp.sum (parts.map (fun p => p.2.1))
  let named := parts.filter (fun p => decide (p.1 < 1024) && p.2.2)
  let layers := named.foldl (fun l p => addLayer l p.1 p.2.1) []
  let ns := layersOf gs
  let outs := if s.flag Off.numMonCtrl 0 then ns.map (fun n => (n, (s.layer n).outSq)) else []
  let still := ns.filter (s.stillScale x h gs)
  let (s, bad) := if h.audit then s.auditAll x w.table (List.range h.targets) else (s, [])
  s.modSweep x (fun w => { w with
    phase := .norm, sum := sum, layers := layers, outputs := outs, still := still, active := layers.map (·.1)
    mismatched := bad, bits := w.bits ||| (if bad.isEmpty then 0 else 0x100), readyAt := some s.clk.now })

/-! ### The norm over the job (13 R278, 05 R93) -/

/-- The lowest set bit of a rank. -/
def lowBit (r : Nat) : Nat := (List.range 14).findSome? (fun k => if r.testBit k then some (2 ^ k) else none) |>.getD 16384

/-- The ranks whose parts a rank combines, and its parent. -/
def normChildren (r modules : Nat) : List Nat :=
  ((List.range 14).map (fun k => 2 ^ k)).filterMap (fun d => if d < lowBit r ∧ r + d < modules then some (r + d) else none)
def normParent (r : Nat) : Nat := r - lowBit r

/-- A job-wide still condition of two parts: a part that does not name the layer does not oppose it. -/
def stillBoth (la : LayerSums) (a : List Nat) (lb : List Nat) (b : List Nat) : List Nat :=
  let ok := fun n => (a.contains n || !la.any (fun e => e.1 == n)) && (b.contains n || !lb.contains n)
  (a ++ b.filter (fun n => !a.contains n)).filter ok

/-- The sums that a partial carries. -/
def partSums (ls : List (BitVec 10 × Int × BitVec 3)) : LayerSums :=
  ls.foldl (fun l e => addLayer l e.1.toNat (ofExactInt e.2.1 e.2.2)) []

/-- Two trip lists joined by OR (03 R52). -/
def tripsBoth (a : SMap (BitVec 2)) (b : List (BitVec 10 × BitVec 2)) : SMap (BitVec 2) :=
  b.foldl (fun m e => smod 0 m e.1.toNat (fun v => v ||| e.2)) a

/-- A part from another module joins a sweep's sums. -/
def Sweep.join (w : Sweep) (p : NormPartial) : Sweep :=
  let pl := partSums p.layers
  { w with sum := w.sum.add (ofExactInt p.sum p.flags), layers := addLayers w.layers pl,
           outputs := addLayers w.outputs (partSums p.outputs), trips := tripsBoth w.trips p.trips,
           still := stillBoth w.layers w.still (pl.map (·.1)) (p.stillScale.map (·.toNat)) }

/-- A sweep's sums replaced by the job's result. -/
def Sweep.take (w : Sweep) (p : NormPartial) : Sweep :=
  { w with sum := ofExactInt p.sum p.flags, layers := partSums p.layers, outputs := partSums p.outputs,
           trips := tripsBoth [] p.trips, still := p.stillScale.map (·.toNat) }

/-- The message that carries a sweep's sums. -/
def Sweep.message (w : Sweep) (step rank : Nat) (result : Bool) : NormPartial :=
  let sums := fun (l : LayerSums) => l.map (fun e => (BitVec.ofNat 10 e.1, (exactInt e.2).1, (exactInt e.2).2))
  { step := BitVec.ofNat 48 step, rank := BitVec.ofNat 14 rank, result := result, sum := (exactInt w.sum).1,
    flags := (exactInt w.sum).2, layers := sums w.layers, outputs := sums w.outputs,
    trips := w.trips.map (fun e => (BitVec.ofNat 10 e.1, e.2)), stillScale := w.still.map (BitVec.ofNat 10) }

/-- The result goes to the ranks below. -/
def State.sendResult (s : State) (x map step rank modules : Nat) (w : Sweep) : State :=
  (normChildren rank modules).foldl (fun s r =>
    s.sendMgmt (s.rankModule x map r) (.norm (s.field (Off.ctxJobId x) 15 0) (w.message step rank true))) s

/-- What the parts received allow: the combined part goes up once every child's is here; at rank 0, or when the result
arrives, the norm is known and goes down. -/
def State.normAdvance (s : State) (x : Nat) : State :=
  match s.sweepIn x .norm with
  | none => s
  | some w =>
    match (s.ctx x).cmd w.idx with
    | none => s
    | some d =>
      if !d.normJob then s.modSweep x (fun w => { w with phase := .decide })
      else
        let step := (s.swHdr x w.table).step
        let rank := s.rank x
        let modules := s.field (Off.ctxJob x) 13 0
        let mine := (s.ctx x).parts.filter (fun p => p.step.toNat == step)
        let part := fun r => mine.find? (fun p => !p.result && p.rank.toNat == r)
        match mine.find? (fun p => p.result) with
        | some p =>
          if w.sent then
            let w' := { w.take p with phase := .decide }
            (s.modSweep x (fun _ => w')).sendResult x d.rankMap step rank modules w'
          else s
        | none =>
          let ps := (normChildren rank modules).filterMap part
          if w.sent || decide (ps.length < (normChildren rank modules).length) then s
          else
            let w' := ps.foldl Sweep.join w
            if rank = 0 then
              let w' := { w' with phase := .decide }
              (s.modSweep x (fun _ => w')).sendResult x d.rankMap step rank modules w'
            else
              (s.modSweep x (fun _ => { w' with sent := true, readyAt := some s.clk.now })).sendMgmt (s.rankModule x d.rankMap (normParent rank))
                (.norm (s.field (Off.ctxJobId x) 15 0) (w'.message step rank false))

/-- SWEEP_PASS1: the engines read gradients and form exact sums; a replayed step's descriptors are first compared with those
of its first fetch (08 R152, R160, R163; 09 R173; 12 R257). -/
def execSweepPass1 (x : Ctx) (s : State) : Out :=
  match s.sweepIn x.val .start with
  | none => .next s
  | some w =>
    let c := s.ctx x.val
    if !s.pass1Ready x.val w || s.hive.halt then .next s
    else if c.attempt > 0 ∧ c.crcFirst ≠ c.stepCrc then
      .next ((s.note 4 false 0x00 0x0A03 [c.step + 1, c.crcFirst.toNat, c.stepCrc.toNat] (some x.val) stStepFailed).sweepFail
        x.val w stStepFailed w.bits)
    else if !s.sluicesOpen (s.pass1Reads x.val w.table) then .next (s.waitsAll (s.pass1Reads x.val w.table))
    else
      match s.badAmong (s.pass1Grads x.val w.table) with
      | some a => .next (s.uncorrectable x.val a 0x22)
      | none =>
        match s.badAmong (s.pass1Audit x.val w.table) with
        | some a => .next (s.sweepBad x.val w a (a / 0x800000000 % 32))
        | none =>
          match s.badAmong (s.pass1Copies x.val w.table) with
          | some a => .next (s.uncorrectable x.val a 0x22)
          | none => .next (((s.chargeAll (s.pass1Reads x.val w.table)).pass1Sums x.val w).normAdvance x.val)

/-- A part or the result arrives for a context from another module of its job. -/
def State.takePart (s : State) (x : Nat) (p : NormPartial) : State :=
  if !s.joined x || (s.ctx x).parts.any (fun q => q.step == p.step && q.rank == p.rank && q.result == p.result) then s
  else (s.modCtx x (fun c => { c with parts := c.parts ++ [p] })).normAdvance x

/-- NORM_PARTIAL: a part or the result arrives from another module of the job. -/
def execNormPartial (x : Ctx) (p : NormPartial) (s : State) : Out := .next (s.takePart x.val p)

/-- NORM_TIMEOUT: 100 ms after the module sent its part, or had its own ready and still waits for others to send with it, a part or
the result is missing: the step fails (13 R278). -/
def execNormTimeout (x : Ctx) (s : State) : Out :=
  match s.sweepIn x.val .norm with
  | none => .next s
  | some w =>
    match w.readyAt with
    | none => .next s
    | some t => whenReady (decide (t + 100000000000 ≤ s.clk.now)) s (s.stepFault x.val .fail stStepFailed)

/-! ### The decision (08 R153-R155; 03 R50-R54) -/

/-- A journal entry of the context that cannot be read (07 R137). -/
def State.journalBad (s : State) (x : Nat) : Option Nat :=
  s.badAmong ((s.ctx x).journal.map (fun r => (r.kept, r.old.length + 8)))

/-- Every journalled row of the context returns to its old contents, newest first, where its entry can be read (07 R128,
R137). -/
def State.rollJournal (s : State) (x : Nat) : State :=
  let s := (s.ctx x).journal.foldl (fun s r =>
    let s := s.chargeAll [(r.kept, r.old.length + 8)]
    if (s.badIn r.kept (r.old.length + 8)).isSome then s
    else
      let s := (s.stores x r.addr r.old).chargeAll [(r.addr, r.old.length)] true
      match r.scaleAddr with
      | some a => (s.stores x a [r.oldScale]).chargeAll [(a, 1)] true
      | none => s) s
  let s := (List.range 32).foldl (fun s k => s.setReg (Off.memFjUsed k x) 0) s
  s.modCtx x (fun c => { c with journal := [] })

/-- The action of a layer (NUM.LAYER_CFG.NORM_ACTION): 0 LOG, 1 SKIP, 2 ROTATE, 3 ROLLBACK. -/
def State.normAction (s : State) (n : Nat) : Nat := s.field (Off.numLayerCfg n) 19 18

/-- One sample of a layer's norm: the monitor moves, and a trip is logged and kept (03 R50, R51). -/
def State.sampleNorm (s : State) (x n : Nat) (grad : Bool) (v : F32) : State :=
  let l := s.layer n
  let avg := if grad then l.avgGrad else l.avgOut
  let (trip, avg', k) := s.monitor avg (if grad then l.samplesGrad else l.samplesOut) v
  let s := s.modLayer n (fun l =>
    if grad then { l with avgGrad := avg', samplesGrad := k } else { l with avgOut := avg', samplesOut := k })
  if trip then
    let s := s.note 3 false 0x22 0x0201 [n, b2n grad, v.toNat, (avg.getD 0).toNat, s.normAction n] (some x)
    s.modSweep x (fun w => { w with trips := smod 0 w.trips n (fun t => t ||| (if grad then 2#2 else 1#2)) })
  else s

/-- The monitors of every layer of the job's lists. -/
def State.sampleAll (s : State) (x : Nat) (w : Sweep) : State :=
  w.outputs.foldl (fun s e =>
    let s := s.sampleNorm x e.1 false (normOf e.2)
    s.sampleNorm x e.1 true (normOf (sget .zero w.layers e.1))) s

/-- A layer's still-water count at the end of a step, and whether it raises an event (03 R53, R54). -/
def stepStill (t old : Nat) (still : Bool) : Nat × Bool :=
  let new := if still then min 65535 (old + 1) else 0
  if t = 0 then (0, false) else (new, decide (new ≠ old ∧ new ≠ 0 ∧ new % t = 0))

/-- The still-water counts of the layers with unfrozen blocks. -/
def State.stillAll (s : State) (x : Nat) (w : Sweep) : State :=
  let t := s.field Off.numStillCtrl 15 0
  w.layers.foldl (fun s e =>
    let n := e.1
    if !s.flag (Off.numLayerCfg n) 15 then s
    else
      let still := !e.2.nonFinite && (e.2.isZero || w.still.contains n)
      let (k, event) := stepStill t (s.layer n).still still
      let s := s.modLayer n (fun l => { l with still := k })
      if event then
        let s := s.note 3 false 0x22 0x0202 [n, k] (some x)
        s.modSweep x (fun w => { w with
          bits := w.bits ||| 0x80
          rotate := if s.field Off.numStillCtrl 17 16 = 1 then w.rotate ++ [n] else w.rotate })
      else s) s

/-- WARMUP, ABSURD and EMA_SHIFT with their defaults (08 Table 8-2). -/
def SwHdr.warm (h : SwHdr) : Nat := if h.warmup = 0 then 16 else h.warmup
def SwHdr.absurdF (h : SwHdr) : F32 := if (f32Val h.absurd).isZero then 0x461C4000 else h.absurd
def SwHdr.shift (h : SwHdr) : Nat := if h.emaShift = 0 then 5 else h.emaShift

/-- The scaled global norm (08 R152). -/
def scaledNorm (h : SwHdr) (sum : Fp) : F32 := ((f32Val (normOf sum)).mul (f32Val h.gradScale).abs).toF32

/-- The gradient factor q, and whether it clips (08 R154). -/
def gradFactor (h : SwHdr) (ns : F32) : F32 × Bool :=
  if Fp.le (f32Val ns) (f32Val h.clip) || (f32Val ns).isZero then (h.gradScale, false)
  else
    let k := f32Div (f32Val h.clip) (f32Val ns)
    (f32Mul h.gradScale k, Fp.lt (f32Val k) .one)

/-- What the decision finds: NONFINITE, ABSURD, SKIP and ROLLBACK as bits 3 to 6 of RESULT, each where any trip asks for it, and the
layers that trips rotate, none under a ROLLBACK (03 R52). -/
def State.decisionBits (s : State) (x : Nat) (w : Sweep) (ns : F32) : Nat × List Nat :=
  let h := s.swHdr x w.table
  let avg : F32 := BitVec.ofNat 32 (s.loadNat x (h.state + 8) 4)
  let samples := s.loadNat x (h.state + 16) 4
  let bad := (f32Val ns).nonFinite
  let absurd := !bad && decide (h.warm ≤ samples) && Fp.lt (f32Val (f32Mul h.absurdF avg)) (f32Val ns)
  let acts := (w.trips.map (fun e => s.normAction e.1))
  (8 * b2n bad + 16 * b2n absurd + 32 * b2n (acts.contains 1) + 64 * b2n (acts.contains 3),
   if acts.contains 3 then [] else (w.trips.map (·.1)).filter (fun n => s.normAction n == 2))

/-- What re-deriving a target reads beside its header, and what it writes and reads of its header and map. -/
def State.rederiveReads (s : State) (x table : Nat) (ts : List Tgt) : List (Nat × Nat) :=
  (ts.map (fun t => (s.grp x table t.group).tgtReads t)).flatten
def State.rederiveWrites (s : State) (x : Nat) (ts : List Tgt) : List (Nat × Nat) := (ts.map (s.tgtExtents x)).flatten

/-- The header and live overflow map of narrow targets, which their writes rest on (03 R33, R39; 08 R161). -/
def State.rederiveOwn (s : State) (x : Nat) (ts : List Tgt) : List (Nat × Nat) :=
  (ts.filter (fun t => decide (t.fmt ≠ 5))).flatMap (fun t => (s.tgtOwn x t))

/-- Re-derivation of targets may go on: no HALT, no target in the store of a hive that moves, and each engine's sector joined to its
targets' by the canal (06 R109, 08 R141, R160; 16 R345). -/
def State.mayRederive (s : State) (x table : Nat) (ts : List Tgt) : Bool :=
  !s.hive.halt && ts.all (fun t =>
    let ends := (s.tgtExtents x t).flatMap (fun e => if e.2 = 0 then [] else [e.1, e.1 + e.2 - 1])
    !ends.any s.onMove && s.reachesAll ((s.grp x table t.group).engine / 2) ends)

/-- The mismatched targets of a failed audit are re-derived from the unchanged master, and their headers and maps stand so
(08 R163). -/
def State.mendTargets (s : State) (x table : Nat) (is : List Nat) : State :=
  is.foldl (fun s i =>
    let t := s.tgt x table i
    let s := (s.chargeAll (s.rederiveReads x table [t] ++ s.rederiveOwn x [t])).chargeAll (s.rederiveWrites x [t]) true
    let s := s.rederive x (s.grp x table t.group) t
    if t.fmt = 5 then s
    else
      let s := s.storeNat x t.dest 4 (setBits (s.loadNat x t.dest 4) 9 9 0)
      let h := s.hdr x t.dest
      let inMap := fun (c : CtxSt) (a : Nat) => decide (h.map ≤ a ∧ a < h.map + (sget 0 c.tops h.map + 63) / 64 * 8)
      s.modCtx x (fun c => { c with touched := c.touched.filter (fun e => e.addr != t.dest),
                                    mapOld := c.mapOld.filter (fun e => !inMap c e.1) })) s

/-- Engines with blocks in the sweep start their counts. -/
def State.startEngines (s : State) (x table : Nat) : State :=
  (List.range 32).foldl (fun s e =>
    if (s.engineBlocks x table e).isEmpty then s else s.setField (Off.updEngStat e) 31 0 0) s

/-- A rejection on the global norm is logged: Ns, NORM_AVG and SAMPLES (03 R52, 08 R156; the code is free, log 15). -/
def State.noteRejection (s : State) (x : Nat) (h : SwHdr) (ns : F32) (bits : Nat) : State :=
  if bits &&& 0x18 = 0 then s
  else s.noteFree 3 false 0x22 [ns.toNat, s.loadNat x (h.state + 8) 4, s.loadNat x (h.state + 16) 4] (some x)
    (if bits.testBit 3 then stNonfiniteNorm else stNormLimit)

/-- The first record that the decision and the start of pass 2 read and cannot: the sweep state record, or a group's; with its
engine (08 R148, R153, R160). -/
def State.recordBad (s : State) (x table : Nat) : Option (Nat × Nat) :=
  match s.badIn (s.swHdr x table).state 64 with
  | some a => some (a, a / 0x800000000 % 32)
  | none => (s.grps x table).findSome? (fun g => (s.badIn g.gstate 64).map (fun a => (a, g.engine)))

/-- The sweep is decided on the scaled norm: applied, rejected, or its step not committed (08 R153-R155, R163). -/
def State.decideSweep (s : State) (x : Nat) (w : Sweep) (ns : F32) : State :=
  let h := s.swHdr x w.table
  let (bits, rot) := s.decisionBits x w ns
  let s := s.noteRejection x h ns bits
  let bits := w.bits ||| bits
  let status := if bits.testBit 3 then stNonfiniteNorm else stNormLimit
  if h.auditFail && !w.mismatched.isEmpty then
    (s.mendTargets x w.table w.mismatched).sweepFail x w stStepFailed (bits &&& 0x7FC)
  else if bits.testBit 6 then (s.sweepFail x w status bits).stepFault x .fail stStepFailed
  else
    let avg : F32 := BitVec.ofNat 32 (s.loadNat x (h.state + 8) 4)
    let samples := s.loadNat x (h.state + 16) 4
    let applied := bits &&& 0x38 == 0
    let held := (s.grps x w.table).map (s.holdGrp x)
    let (q, clipped) := gradFactor h ns
    let decided := fun (w : Sweep) => { w with
      phase := if applied then .pass2 else .rederive
      applied := applied, q := q, norm := ns, rotate := w.rotate ++ rot, held := if applied then held else []
      avg := if !applied then avg else if samples = 0 then ns else emaStep avg ns h.shift
      samples := if applied then min (samples + 1) 0xFFFFFFFF else samples
      bits := bits ||| (2 * b2n applied) ||| (4 * b2n (applied && clipped)) }
    if applied then (s.startEngines x w.table).modSweep x decided
    else
      match s.journalBad x with
      | some a => ((s.sweepReport x a).sweepFail x w stStepFailed bits).takeoverReq stStepFailed (unitOfAddr a)
      | none => (s.rollJournal x).modSweep x decided

/-- SWEEP_DECISION: with the norm known, the sweep is applied or rejected (08 R153-R155, R163; 03 R50-R54). -/
def execSweepDecision (x : Ctx) (s : State) : Out :=
  match s.sweepIn x.val .decide with
  | none => .next s
  | some w =>
    let h := s.swHdr x.val w.table
    let mend := if h.auditFail then w.mismatched.map (s.tgt x.val w.table) else []
    if !w.stopped.isEmpty || !mend.isEmpty && !s.mayRederive x.val w.table mend then .next s
    else if let some (a, e) := s.recordBad x.val w.table then .next (s.sweepBad x.val w a e)
    else
    let s := s.chargeAll ((h.state, 64) :: (s.grps x.val w.table).map (fun g => (g.gstate, 64)))
    let ns := scaledNorm h w.sum
    let s := s.setField (Off.updCtxNorm x.val) 31 0 ns.toNat
    let s := if s.flag Off.numMonCtrl 0 then s.sampleAll x.val w else s
    let s := s.stillAll x.val w
    match (s.ctx x.val).sweep with
    | none => .next s
    | some w => .next (s.decideSweep x.val w ns)

/-! ### Pass 2 (08 R157-R160) -/

/-- Blocks of an engine taken and stamped. -/
def Sweep.takenOf (w : Sweep) (e : Nat) : Nat := sget 0 w.taken e
def Sweep.stampedOf (w : Sweep) (e : Nat) : Nat := sget 0 w.stamped e

/-- The lock-chamber entries of an engine, oldest first. -/
def Sweep.entriesOf (w : Sweep) (e : Nat) : List Chamber := w.chamber.filter (fun c => c.eng == e)

/-- The entries that sweeps hold in an engine's chamber. -/
def State.chamberUsed (s : State) (e : Nat) : Nat :=
  (s.ctxs.map (fun c => match c.2.sweep with
    | some w => (w.entriesOf e).length
    | none => 0)).sum

/-- UPD.ENG_STAT.CHAMBER shows the entries in use. -/
def State.showChamber (s : State) (e : Nat) : State := s.setField (Off.updEngStat e) 36 32 (s.chamberUsed e)

/-- A group of a sweep as its engine holds it. -/
def State.heldOf (s : State) (x : Nat) (w : Sweep) (i : Nat) : HeldGrp :=
  match w.held[i]? with
  | some c => c
  | none => s.holdGrp x (s.grp x w.table i)

/-- Every block of the sweep carries its stamp. -/
def State.pass2Done (s : State) (x : Nat) (w : Sweep) : Bool :=
  (List.range 32).all (fun e => w.stampedOf e == (s.engineBlocks x w.table e).length)

/-- Update of the parameter blocks of an update block, with the count of non-finite parameters. -/
def State.updateAll (s : State) (x : Nat) (c : HeldGrp) (q : F32) : List Nat → State × Nat
  | [] => (s, 0)
  | pb :: pbs =>
    let (s, n) := s.updatePblock x c q pb
    let (s, m) := s.updateAll x c q pbs
    (s, n + m)

/-- The new group state record (08 R148, R158). -/
def HeldGrp.bytes (c : HeldGrp) (step : Nat) : List Byte :=
  natLe step 8 ++ natLe (c.t + 1) 8 ++ natLe c.p1.toNat 4 ++ natLe c.p2.toNat 4 ++ natLe 0 40

/-- The difference record of a chamber entry's block. -/
def State.entryDraft (s : State) (x : Nat) (w : Sweep) (c : Chamber) : Draft :=
  s.blockDraft x (s.heldOf x w c.grp).g c.blk c.step false (c.old.map (·.2))

/-- A stamped block is finished: its record is emitted, unless it was, the entry is released, and after the last block of a
group its state record is written (08 R158). -/
def State.finishBlock (s : State) (x : Nat) (c : Chamber) : State :=
  match (s.ctx x).sweep with
  | none => s
  | some w =>
    let g := s.heldOf x w c.grp
    let k := w.stampedOf c.eng + 1
    let last := ((s.engineBlocks x w.table c.eng)[k]?.map (·.1)) != some c.grp
    let s := if c.emitted then s else s.emit (s.entryDraft x w c)
    let old := if last then (g.g.gstate, s.loads x g.g.gstate 64) :: w.old else w.old
    let s := if last then (s.stores x g.g.gstate (g.bytes c.step)).chargeAll [(g.g.gstate, 64)] true else s
    let s := s.countField (Off.updEngStat c.eng) 23 0 1
    (s.modSweep x (fun w => { w with
      stamped := sput 0 w.stamped c.eng k
      chamber := w.chamber.erase c
      old := old
      groups := if last then w.groups ++ [g.g.gstate] else w.groups })).showChamber c.eng

/-- recover of 08 R159 for one entry: a stamped block keeps its new values; another gets its old values back. -/
def State.recoverEntry (s : State) (x : Nat) (c : Chamber) : State :=
  match (s.ctx x).sweep with
  | none => s
  | some w =>
    if s.loadNat x ((s.heldOf x w c.grp).g.stamp + 8 * c.blk) 8 = c.step then s.finishBlock x c
    else
      let s := c.old.foldl (fun s p => (s.stores x p.1 p.2).chargeAll [(p.1, p.2.length)] true) s
      let s := s.countField (Off.updEngStat c.eng) 63 48 1
      (s.modSweep x (fun w => { w with chamber := w.chamber.erase c })).showChamber c.eng

/-- An engine's chamber is recovered, in block order; pass 2 goes on at the lowest block without its stamp (08 R159). -/
def State.recoverEngine (s : State) (x e : Nat) : State :=
  match (s.ctx x).sweep with
  | none => s
  | some w =>
    ((w.entriesOf e).foldl (fun s c => s.recoverEntry x c) s).modSweep x (fun w => { w with
      stopped := w.stopped.filter (· != e)
      taken := sput 0 w.taken e (w.stampedOf e) })

/-- PASS2_BLOCK: engine `e` takes its next block: old values to the lock chamber, then moments, residue and master
(08 R157, R160). Non-finite parameters are counted and logged each time a block is written (R151; log 30). -/
def execPass2Block (x : Ctx) (e : Stack) (s : State) : Out :=
  match s.sweepIn x.val .pass2 with
  | none => .next s
  | some w =>
    if s.hive.halt ∨ e.val ∈ w.stopped ∨ 16 ≤ s.chamberUsed e.val then .next s
    else
      match (s.engineBlocks x.val w.table e.val)[w.takenOf e.val]? with
      | none => .next s
      | some (i, b) =>
        let h := s.swHdr x.val w.table
        let c := s.heldOf x.val w i
        let g := c.g
        let (grads, copies) := s.blockReads x.val h g b
        match s.badAmong grads with
        | some a =>
          .next ((((s.sweepReport x.val a).recoverEngine x.val e.val).sweepFail x.val w stStepFailed w.bits).takeoverReq
            stStepFailed e.val)
        | none =>
          match s.badAmong copies with
          | some a => .next (s.sweepBad x.val w a e.val)
          | none =>
            if !s.sluicesOpen (grads ++ copies) then .next (s.waitsAll (grads ++ copies)) else
            let old := (g.planes b).map (fun p => (p.1, s.loads x.val p.1 p.2))
            let s := (s.chargeAll (grads ++ copies)).chargeAll copies true
            let (s, bad) := s.updateAll x.val c w.q (s.livePblocks x.val h g b)
            let s := if bad = 0 then s
              else (s.countField (Off.updEngStat e.val) 31 24 bad).note 3 false 0x22 0x0203 [i, b] (some x.val) 0 e.val
            .next ((s.modSweep x.val (fun w => { w with
              taken := sput 0 w.taken e.val (w.takenOf e.val + 1)
              chamber := w.chamber ++ [{ eng := e.val, grp := i, blk := b, step := h.step, old := old }]
              old := old.reverse ++ w.old
              bits := w.bits ||| (if bad = 0 then 0 else 0x200) })).showChamber e.val)

/-- BLOCK_STAMP: the stamp of the engine's oldest entry; then, once its record has room, the record and the release of the
entry; the group's state record after its last block (08 R157, R158; 09 R170). -/
def execBlockStamp (x : Ctx) (e : Stack) (s : State) : Out :=
  match s.sweepIn x.val .pass2 with
  | none => .next s
  | some w =>
    match w.entriesOf e.val with
    | [] => .next s
    | c :: _ =>
      if e.val ∈ w.stopped then .next s
      else
        let a := (s.heldOf x.val w c.grp).g.stamp + 8 * c.blk
        let old := (a, s.loads x.val a 8)
        let t := ((s.storeNat x.val a 8 c.step).chargeAll [(a, 8)] true).modSweep x.val (fun w => { w with old := old :: w.old })
        .next (if s.roomFor [s.entryDraft x.val w c] then t.finishBlock x.val c else t)

/-- What recovery may restore from the mirror partner: masters, residues, moments and records (08 R160). -/
def State.mirroredExtents (s : State) (x table : Nat) : List (Nat × Nat) :=
  ((s.swHdr x table).state, 64) :: ((s.grps x table).map (fun g =>
    [(g.master, g.masterBytes * g.params), (g.m, 2 * g.params), (g.v, 2 * g.params), (g.gstate, 64)]
      ++ (if g.fp32 then [] else [(g.residue, g.params)]))).flatten

/-- The row of every uncorrectable unit that recovery restores has been repaired (07 R137, 08 R160). -/
def State.rowsMended (s : State) (es : List (Nat × Nat)) : Bool :=
  s.stks.all (fun k => k.2.repairs.all (fun r => !es.any (fun e => decide (e.1 < r.1 + 32 ∧ r.1 < e.1 + e.2))))

/-- SWEEP_RECOVERY: with the row repaired, an interrupted engine settles its chamber, the units it met are restored from
the mirror partner, and pass 2 resumes; with an uncorrectable word in the chamber the step fails and takeover is asked for
(08 R159, R160). -/
def execSweepRecovery (x : Ctx) (k : ChamberCheck) (s : State) : Out :=
  let e := k.engine
  let err := k.found
  let c := s.ctx x.val
  match c.sweep with
  | none => .next s
  | some w =>
    let es := s.mirroredExtents x.val w.table
    let stamped := (w.entriesOf e.val).map (s.entryDraft x.val w)
    if e.val ∉ w.stopped ∨ c.stopped ∨ !c.mayRun ∨ s.hive.halt ∨ !s.rowsMended es ∨ !s.roomFor stamped then .next s
    else if err = .uncorrectable ∧ w.entriesOf e.val ≠ [] then
      .next ((s.sweepFail x.val w stStepFailed w.bits).takeoverReq stStepFailed e.val)
    else
      let mine := fun (a : Nat) => w.met.contains a && a / 0x800000000 % 32 == e.val
      let s := (s.recoverEngine x.val e.val).modSweep x.val (fun w => { w with met := w.met.filter (fun a => !mine a) })
      .next { s with mem := { s.mem with bad := s.mem.bad.filter (fun b => !mine b.1) } }

/-! ### Re-derivation (08 R156, R161; 03 R48) -/

/-- The layers that a sweep's step boundary advances: those in use on this module and those marked for start-up rotation that the
context may use, and those of the job's lists. -/
def State.boundaryLayers (s : State) (x : Nat) (w : Sweep) : List Nat :=
  let marked := (List.range 1024).filter (fun n => s.flag (Off.numLayerCfg n) 17)
  let all := (s.layers.map (·.1) ++ marked).filter (s.hasLayer x) ++ w.outputs.map (·.1) ++ w.layers.map (·.1)
    ++ (s.tgts x w.table).filterMap (fun t => if t.fmt = 5 then none else
      let n := (s.hdr x t.dest).layer
      if n < 1024 then some n else none)
  (all.foldl (fun m n => sput 0 m n 1) ([] : SMap Nat)).map (·.1)

/-- Rotation triggers of a layer: the flagged-block count of the window, a norm trip, or a still-water event (03 R48). -/
def State.rotTrigger (s : State) (w : Sweep) (n : Nat) : Bool :=
  let l := s.layer n
  let win := s.field Off.numOvfTrig 15 8
  let flagged := l.flaggedIn win
  s.flag (Off.numLayerCfg n) 16
    && ((decide (win ≠ 0) && decide (s.field Off.numOvfTrig 7 0 ≤ flagged)) || w.rotate.contains n)

/-- A layer passes the step boundary: counts run down, a trigger sets the recovery count, the start-up count of the next step is
fixed, and the window moves (03 R48; log 43). -/
def State.advanceLayer (s : State) (w : Sweep) (n : Nat) : State :=
  let trig := s.rotTrigger w n
  let steps := s.field Off.numRotCtrl 27 16
  s.modLayer n (fun l => { l with
    age := l.age + 1, recovery := if trig then steps else l.recovery - 1
    startLeft := some (s.startupCount n { l with age := l.age + 1 })
    window := (min 255 l.flagged :: l.window).take 255, flagged := 0 })

/-- The targets that re-derivation writes: all after an applied sweep, otherwise those whose layer changes mode (08 R155). -/
def State.rederiveTargets (s : State) (x : Nat) (w : Sweep) (before : Nat → Bool) : List Tgt :=
  (s.tgts x w.table).filter (fun t => w.applied || (decide (t.fmt ≠ 5) &&
    (let n := (s.hdr x t.dest).layer
     decide (n < 1024) && before n != s.rotMode n)))

/-- The stored copy of a target, as it stands: its elements and scales by address. -/
def State.copyBytes (s : State) (x : Nat) (t : Tgt) : List (Nat × List Byte) :=
  match s.tgtExtents x t with
  | (a, n) :: (b, m) :: _ => [(a + 64, s.loads x (a + 64) (n - 64)), (b, s.loads x b m)]
  | [(a, n)] => [(a, s.loads x a n)]
  | [] => []

/-- Targets written in order. -/
def State.rederiveAll (s : State) (x table : Nat) (ts : List Tgt) : State :=
  ts.foldl (fun s t => s.rederive x (s.grp x table t.group) t) s

/-- The sweep that SWEEP_REDERIVE takes on: one whose pass 2 is over, or one that is not applied. -/
def State.toRederive (s : State) (x : Nat) : Option Sweep :=
  match s.sweepIn x .rederive with
  | some w => some w
  | none =>
    match s.sweepIn x .pass2 with
    | some w => if w.stopped.isEmpty && s.pass2Done x w then some w else none
    | none => none

/-- SWEEP_REDERIVE: after pass 2 the rotation triggers are evaluated and the working copies re-derived (08 R156, R161). -/
def execSweepRederive (x : Ctx) (s : State) : Out :=
  match s.toRederive x.val with
  | none => .next s
  | some w =>
    let before := s.rotMode
    let t := (s.boundaryLayers x.val w).foldl (fun s n => s.advanceLayer w n) s
    let ts := t.rederiveTargets x.val w before
    let rd := s.rederiveReads x.val w.table ts
    let wr := s.rederiveWrites x.val ts
    if !s.mayRederive x.val w.table ts then .next s
    else if !s.sluicesOpen (rd ++ wr) then .next (s.waitsAll (rd ++ wr))
    else
      match s.badAmong rd, s.badAmong (s.rederiveOwn x.val ts) with
      | some a, _ =>
        .next (((s.sweepReport x.val a).sweepFail x.val w stStepFailed w.bits).takeoverReq stStepFailed (unitOfAddr a))
      | none, some a => .next (s.uncorrectable x.val a 0x22)
      | none, none =>
        let t := (t.chargeAll (rd ++ s.rederiveOwn x.val ts)).chargeAll wr true
        .next ((t.rederiveAll x.val w.table ts).modSweep x.val (fun w => { w with
          phase := .commit, old := (ts.map (s.copyBytes x.val)).flatten ++ w.old }))

/-! ### Commit (03 R40, 08 R156, 09 R166, R170, 10 R194, R195, R207; 12 R255; 13 R279) -/

/-- A 32-byte header as it stood at the last commit. -/
def oldHeader (cur : List Byte) (t : Touched) : List Byte :=
  let w := setBits (setBits (leNat (cur.take 4)) 8 8 (b2n t.rotated)) 9 9 0
  natLe w 4 ++ natLe t.tscale.toNat 4 ++ (cur.drop 8).take 16 ++ natLe t.amax.toNat 4 ++ (cur.drop 28).take 4

/-- What a commit does to one touched tensor: its header and committed map, as address and new bytes. -/
structure TensorCommit where
  hdr : Nat
  map : Nat
  newHdr : List Byte
  oldHdr : List Byte
  newMap : List Byte
  oldMap : List Byte
deriving DecidableEq, Repr

/-- The commit of a touched tensor. -/
def State.tensorCommit (s : State) (x : Nat) (t : Touched) : TensorCommit :=
  let h := s.hdr x t.addr
  let cur := s.loads x t.addr 32
  let n := (sget 0 (s.ctx x).tops h.map + 63) / 64 * 8
  { hdr := t.addr, map := h.map + n, newHdr := natLe (setBits (leNat (cur.take 4)) 9 9 0) 4 ++ cur.drop 4,
    oldHdr := oldHeader cur t, newMap := s.loads x h.map n, oldMap := s.loads x (h.map + n) n }

/-- Headers and maps are committed, and what they replaced is kept. -/
def State.commitTensors (s : State) (x : Nat) (ts : List TensorCommit) : State :=
  ts.foldl (fun s t => (s.stores x t.hdr t.newHdr).stores x t.map t.newMap) s

/-- Distinct journalled rows, each with its oldest contents. -/
def distinctRows : List JRow → List JRow
  | [] => []
  | r :: rs => if rs.any (fun e => e.addr == r.addr) then distinctRows rs else r :: distinctRows rs

/-- The records that close a step: TENSOR for each listed tensor whose committed state changed, ROWS, COMMIT. -/
def State.closingDrafts (s : State) (x : Nat) (w : Sweep) (step stateAddr : Nat) (ts : List TensorCommit)
    (list : List Nat) (image : List Byte) : List Draft :=
  let tens := (ts.filter (fun t => list.contains t.hdr && (t.newHdr != t.oldHdr || t.newMap != t.oldMap))).map (fun t =>
    tensorDraft x step t.hdr t.map t.oldHdr t.newHdr t.oldMap t.newMap)
  let rows := if s.flag Off.updExpCtrl 1 then (distinctRows (s.ctx x).journal).reverse.map (s.rowDraft x step) else []
  let before := (s.fail.exp.recs.filter (fun r => r.ctx == x && r.step == step && !r.dead)).length + tens.length + rows.length
  tens ++ rows ++ [s.commitDraft x step before stateAddr w.groups image]

/-- The new sweep state record (08 R153). -/
def Sweep.stateBytes (w : Sweep) (step : Nat) : List Byte :=
  natLe step 8 ++ natLe w.avg.toNat 4 ++ natLe w.norm.toNat 4 ++ natLe w.samples 4 ++ natLe 0 44

/-- PATH_MODE or a binding power cap sends every layer to the fall-back path in the next step (04 R78). -/
def State.allFallBack (s : State) (limited : Bool) : Bool :=
  match s.field Off.numFreezeCtrl 1 0 with
  | 1 => false
  | 2 => true
  | _ => s.flag Off.numFreezeCtrl 2 && limited

/-- The path of a layer for the next step (04 R78). -/
def State.nextPath (s : State) (l : LayerSt) (limited : Bool) : Bool :=
  s.allFallBack limited || (decide (s.field Off.numFreezeCtrl 1 0 ≠ 1)
    && decide (min 100 (s.field Off.numFreezeCtrl 15 8) * l.seen < 100 * l.frozen))

/-- A layer's per-step counts and sums start again, with its path set. -/
def State.closeLayer (s : State) (limited : Bool) (n : Nat) : State :=
  s.modLayer n (fun l => { l with
    path := s.nextPath l limited, seen := 0, frozen := 0, gradBlocks := [], outSq := .zero })

/-- The layers whose path a step boundary sets: every one the context may use where all fall back, otherwise those it
advances, since the others have seen no mask row. -/
def State.pathLayers (s : State) (x : Nat) (w : Sweep) (limited : Bool) : List Nat :=
  if s.allFallBack limited then (List.range 1024).filter (s.hasLayer x) else s.boundaryLayers x w

/-- Entries of one map where `p` holds, and of another elsewhere. -/
def smerge {α : Type} [DecidableEq α] (d : α) (p : Nat → Bool) (a b : SMap α) : SMap α :=
  a.foldl (fun m e => if p e.1 then sput d m e.1 e.2 else m) (b.filter (fun e => !p e.1))

/-- The compute issue-rate limit was below sixteen sixteenths for at least 10% of the step. -/
def State.stepLimited (s : State) (x : Nat) : Bool :=
  let c := s.ctx x
  decide (s.clk.now - c.stepStart ≤ 10 * (s.clk.limited - c.limitedAt)) && decide (c.limitedAt < s.clk.limited)

/-- The status of a sweep that commits (08 R156, 13 R279). -/
def commitStatus (bits : Nat) (remapped replayed : Bool) : Nat :=
  if bits.testBit 3 then stNonfiniteNorm
  else if bits &&& 0x30 ≠ 0 then stNormLimit
  else if bits.testBit 7 then stStillWater
  else if remapped then stUnitRemapped
  else if replayed then stStepReplayed
  else stOk

/-- The commands of the committed step become past, and those of the steps before final (12 R255). -/
def closeCmds (step : List Nat) (cs : List Cmd) : List Cmd :=
  cs.map (fun d => if d.past then { d with final := true } else if step.contains d.idx then { d with past := true } else d)

/-- What the context keeps of the step it commits. -/
def CtxSt.closeStep (c : CtxSt) (step : Nat) (undo : List (Nat × List Byte)) (undoLayers : SMap LayerSt)
    (unacked : Option (BitVec 32)) (now limited : Nat) : CtxSt :=
  { c with
    cmds := closeCmds (c.stepCmds.map Cmd.idx) c.cmds, step := step, attempt := 0, remapped := false, crcFirst := 0,
    touched := [], mapOld := [], journal := [], undo := undo, undoLayers := undoLayers, stepStart := now, limitedAt := limited,
    parts := c.parts.filter (fun p => decide (step < p.step.toNat)), unacked := unacked, sweep := none, jobAct := none,
    badLines := [], heldReported := false }

/-- What a commit reads of its tensors, and what it writes. -/
def TensorCommit.reads (t : TensorCommit) : List (Nat × Nat) :=
  [(t.hdr, 32), (t.map - t.newMap.length, t.newMap.length), (t.map, t.oldMap.length)]
def TensorCommit.writes (t : TensorCommit) : List (Nat × Nat) := [(t.hdr, t.newHdr.length), (t.map, t.newMap.length)]

/-- The effect of a commit whose records are `ds`. A step that was replayed is logged as such (03 R52, 08 R156; log 15). -/
def State.commitStep (s : State) (x : Nat) (w : Sweep) (ts : List TensorCommit) (ds : List Draft) (before : State) : State :=
  let h := before.swHdr x w.table
  let rows := ((before.ctx x).journal.map (fun r => (r.addr, r.old) :: (match r.scaleAddr with
    | some a => [(a, [r.oldScale])]
    | none => []))).flatten
  let heads := (ts.map (fun t => [(t.hdr, t.oldHdr), (t.map, t.oldMap), (t.map - t.newMap.length, t.oldMap)])).flatten
  let undo := [(h.state, before.loads x h.state 64)] ++ heads ++ w.old ++ rows
  let s := (s.emitAll ds).keepRows (before.oldRows x h.step (before.ctx x).journal.reverse)
  let unacked := if s.exporting then some (s.fail.exp.seq - 1) else none
  let s := s.balanceCheck x
  let s := s.rebase x
  let limited := s.stepLimited x
  let remapped := s.wasRemapped x
  let s := (s.pathLayers x w limited).foldl (fun s n => s.closeLayer limited n) s
  let undoLayers := s.layersC.filter (fun l => s.hasLayer x l.1)
  let s := { s with layersC := smerge {} (s.hasLayer x) s.layers s.layersC }
  let s := (List.range 32).foldl (fun s k => s.setReg (Off.memFjUsed k x) 0) s
  let s := s.setField (Off.updCtxNorm x) 63 32 w.avg.toNat
  let bits := w.bits ||| 1 ||| (0x400 * b2n remapped)
  let replayed := decide (0 < (before.ctx x).attempt) || w.resumed
  let s : State := if replayed then s.noteFree 2 false 0x22 [h.step, (before.ctx x).attempt] (some x) stStepReplayed else s
  let s := s.complete x w.idx (commitStatus bits remapped replayed) bits
  let s := s.modCtx x (fun c => (c.closeStep h.step undo undoLayers unacked s.clk.now s.clk.limited).release)
  let old := fun (y n : Nat) => y == x && decide (n < h.step)
  (s.modExp (fun e => { e with
    resyncPos := if (s.ctx x).tensors = (before.ctx x).tensors then e.resyncPos else 0
    resyncEnd := if (s.ctx x).tensors = (before.ctx x).tensors then e.resyncEnd else none
    recs := e.recs.filter (fun r => !old r.ctx r.step)
    rows := e.rows.filter (fun r => !old r.ctx r.step) })).raiseCancels x |>.askWanted

/-- The tensors that the step has touched, in order, as a commit takes them. -/
def State.touchedCommits (s : State) (x : Nat) : List TensorCommit := (s.ctx x).touched.reverse.map (s.tensorCommit x)

/-- The sweep state record, headers and maps are written, and the tensor list is the next step's. -/
def State.closeWrites (s : State) (x : Nat) (w : Sweep) : State :=
  let h := s.swHdr x w.table
  let ts := s.touchedCommits x
  let t := (s.chargeAll ((h.state, 64) :: ts.flatMap TensorCommit.reads)).chargeAll ((h.state, 64) :: ts.flatMap TensorCommit.writes) true
  ((t.stores x h.state (w.stateBytes h.step)).commitTensors x ts).modCtx x (fun c => { c with
    tensors := c.tensorsNext.getD c.tensors, tensorsNext := none })

/-- The records that a commit emits. -/
def State.commitDrafts (s : State) (x : Nat) (w : Sweep) : List Draft :=
  let h := s.swHdr x w.table
  let t := s.closeWrites x w
  if s.streaming then
    t.closingDrafts x w h.step h.state (s.touchedCommits x) (t.ctx x).tensors (t.numericsImage x t.layers)
  else []

/-- A sweep may commit: earlier work and messages are complete, no HALT, and the closing records have room. -/
def State.mayCommit (s : State) (x : Nat) (w : Sweep) : Bool :=
  s.messagesDone x && (s.ctx x).runs.isEmpty
    && s.roomFor (s.commitDrafts x w) (s.oldRows x (s.swHdr x w.table).step (s.ctx x).journal) && !s.hive.halt

/-- COMMIT: with earlier work and messages complete, and room for the closing records, the step commits (02 R22, 08 R156). -/
def execCommit (x : Ctx) (s : State) : Out :=
  match s.sweepIn x.val .commit with
  | none => .next s
  | some w =>
    whenReady (s.mayCommit x.val w) s
      ((s.closeWrites x.val w).commitStep x.val w (s.touchedCommits x.val) (s.commitDrafts x.val w) s)

end Sys2Proof.Machine
end

