-- ==== Sys2Proof/Machine/Abandon.lean ====
section
/-! DEFINITION. Abandoning a step, restoring the committed state, and the replay (10 R208, R209; 12 R256-R258, R260;
13 R272; 03 R40; 07 R128). -/

namespace Sys2Proof.Machine

/-- The status that the uncompleted commands of an abandoned step take (13 R272). -/
def Abandon.status : Abandon → Nat
  | .replay => stStepReplayed
  | .fail => stStepFailed
  | .cancel => stCancelled
  | .moved => stAborted

/-- The hives that run the context's programs stop: their queues and accumulation groups are discarded (05 R92). -/
def State.stopRuns (s : State) (x : Nat) : State :=
  let s := { s with hive := { s.hive with hives := s.hive.hives.filter (fun h => match h.2.run with
    | some (y, _) => y != x
    | none => true) } }
  s.modCtx x (fun c => { c with runs := [] })

/-- What an abandoned sweep wrote is taken back, and no COMMIT counts the records that it emitted (09 R166). -/
def State.rollSweep (s : State) (x : Nat) : State :=
  match (s.ctx x).sweep with
  | none => s
  | some w =>
    let step := (s.ctx x).step + 1
    let s := s.modExp (fun e => { e with recs := e.recs.map (fun r =>
      if r.ctx = x ∧ r.step = step then { r with dead := true } else r) })
    let s := w.old.foldl (fun s p => s.stores x p.1 p.2) s
    (List.range 32).foldl (fun s e => s.showChamber e) (s.modCtx x (fun c => { c with sweep := none }))

/-- RESULT of a command that an abandonment completes: the causes its sweep had met, or the round that its barrier entered
(13 Table 13-4, R279). -/
def State.abandonedResult (s : State) (x idx : Nat) : Nat :=
  match (s.ctx x).cmd idx with
  | none => 0
  | some d =>
    if d.opcode = 6 then s.causes x (((s.ctx x).sweep.filter (fun w => w.idx == idx)).elim 0 Sweep.bits)
    else if d.opcode = 5 then d.progress else 0

/-- The commands of the step under way complete with one status. -/
def State.completeAll (s : State) (x status : Nat) : List Nat → State
  | [] => s
  | i :: is => (s.complete x i status (s.abandonedResult x i)).completeAll x status is

/-- An abandonment meets a journal entry that cannot be read: it is reported, the step fails, and takeover is asked for
(07 R137). -/
def State.abandonCause (s : State) (x : Nat) (a : Abandon) : State × Abandon :=
  match s.journalBad x with
  | none => (s, a)
  | some u => ((s.sweepReport x u).takeoverReq stStepFailed (unitOfAddr u), if a = .replay then .fail else a)

/-- The step under way is abandoned: its uncompleted commands complete, those still to be fetched up to its sweep will, its
units stop, and the wait of 1 ms begins (10 R209, 12 R256, R260, 13 R272). -/
def State.abandonStep (s : State) (x : Nat) (a : Abandon) : State :=
  let (s, a) := s.abandonCause x a
  let s := s.modCtx x (fun c => { c with
    abandon := some (a, s.clk.now), fault := none, jobAct := none, heldReported := false, parts := [], badDma := none
    badLines := if a = .replay then c.badLines else [] })
  let cs := (s.ctx x).stepCmds
  let s := ((s.stopRuns x).completeAll x a.status (cs.map Cmd.idx)).settleCancels x
  let s := s.rollSweep x
  let whole := cs.any (fun d => d.opcode == 6)
  s.modCtx x (fun (c : CtxSt) =>
    let c : CtxSt := { c with cmds := c.cmds.map (fun d =>
      let d : Cmd := if cs.any (fun e => e.idx == d.idx) then { d with failed := false } else d
      if d.isStep ∧ !d.past ∧ d.phase = .started then { d with phase := .waiting, progress := 0 } else d) }
    let c : CtxSt := if a = .replay then c else { c with cmds := c.cmds.map (fun d =>
      if cs.any (fun e => e.idx == d.idx) then { d with past := true } else d) }
    { c with drain := if whole then none else some a.status,
             attempt := if whole ∧ a ≠ .replay then 0 else c.attempt })

/-- ABANDON_STEP: the step of a context that faulted is abandoned; a joined context's only by its job (12 R258). -/
def execAbandonStep (x : Ctx) (s : State) : Out :=
  let c := s.ctx x.val
  match c.fault with
  | none => .next s
  | some (a, _) => whenReady (!c.ending && (!s.joined x.val || decide (a = .moved))) s (s.abandonStep x.val a)

/-- Headers of touched tensors and live overflow maps return to their committed state (03 R40). -/
def State.restoreTensors (s : State) (x : Nat) : State :=
  let c := s.ctx x
  let s := c.touched.foldl (fun s t => s.stores x t.addr (oldHeader (s.loads x t.addr 32) t)) s
  let s := c.mapOld.foldl (fun s m => s.stores x m.1 [m.2]) s
  s.modCtx x (fun c => { c with touched := [], mapOld := [] })

/-- The layers of the context return to their committed state. -/
def State.restoreLayers (s : State) (x : Nat) : State :=
  { s with layers := smerge {} (s.hasLayer x) s.layersC s.layers }

/-- Messages of the context that no unit has delivered by now are discarded: those still to leave are counted as stray at their port,
those at a home that was away in SYN.CTX_SYNC.DROPPED, and each is reported to both modules (10 R199, R209). -/
def State.discardSent (s : State) (x : Nat) : State :=
  let out := s.sync.outbox.filter (fun o => s.senderCtx o.msg == some x)
  let held := s.sync.held.filterMap (fun h => match h with
    | .message m _ => if s.senderCtx m == some x then some m else none
    | _ => none)
  let s := out.foldl (fun s o =>
    State.reportDiscard (match s.routeOf o.dest with
      | some p => s.stray p 1
      | none => s) o.msg o.dest) s
  held.foldl (fun s m => (s.countField (Off.synCtxSync x) 15 0 1).reportDiscard m s.moduleNo) s

/-- The committed state of a context, in every part that the abandoned step changed. -/
def State.restoreCommitted (s : State) (x : Nat) : State :=
  (((((s.rollJournal x).restoreTensors x).restoreLayers x).discardSent x).restoreCounts x).restoreDirty x

/-- The journal of a step to be replayed has an entry that has become unreadable since its abandonment: it is reported, takeover is
asked for, and the replay fails as it starts (07 R137). -/
def State.lateJournal (s : State) (x : Nat) (a : Abandon) : State :=
  match if a = .replay then s.journalBad x else none with
  | none => s
  | some u => ((s.sweepReport x u).takeoverReq stStepFailed (unitOfAddr u)).stepFault x .fail stStepFailed

/-- ABANDON_RESTORE: 1 ms after the abandonment the committed state is back, and a replay may start (10 R209). -/
def execAbandonRestore (x : Ctx) (s : State) : Out :=
  let c := s.ctx x.val
  match c.abandon with
  | none => .next s
  | some (a, t) =>
    whenReady (decide (t + 1000000000 ≤ s.clk.now) || c.state == 4) s
      ((((s.lateJournal x.val a).restoreCommitted x.val).modCtx x.val (fun c => { c with
        abandon := none, replayReady := decide (a = .replay), remapped := c.remapped && decide (a = .replay)
        stepStart := s.clk.now, limitedAt := s.clk.limited })).raiseCancels x.val)

/-- Nothing that the replay waits for is outstanding: rows and lines repaired, failed hives replaced (06 R112, R115,
07 R137). -/
def State.repaired (s : State) (x : Nat) : Bool :=
  s.stks.all (fun k => k.2.repairs.isEmpty) && s.combs.all (fun c => c.2.due.isEmpty)
    && (List.range 256).all (fun l => !s.ownsHive x l || !sget false s.hive.failed (s.slotOfHive l) || sget false s.hive.three (l / 4))

/-- REPLAY: FETCH returns to the first step command of the oldest uncommitted step, and the attempt number rises; every step
command from there is to be fetched again, and the data of a read under way are not used (12 R256, R257). -/
def execReplay (x : Ctx) (s : State) : Out :=
  let c := s.ctx x.val
  whenReady (c.replayReady && c.drain.isNone && s.repaired x.val) s
    (s.modCtx x.val (fun c => { c with
      replayReady := false, read := none
      cmds := c.cmds.map (fun d => if d.isStep ∧ !d.past then { d with phase := .waiting, stale := true } else d)
      crcFirst := if c.attempt = 0 then c.stepCrc else c.crcFirst
      attempt := c.attempt + 1
      fetch := match c.stepCmds with
        | d :: _ => BitVec.ofNat 32 d.idx
        | [] => c.fetch }))

/-- STEP_HELD: a joined context whose step faulted stops, is reported on the towpath and waits in HOLD_JOB (12 R258). A
context that has lost its host keeps the state that says so. -/
def execStepHeld (x : Ctx) (s : State) : Out :=
  let c := s.ctx x.val
  match c.fault with
  | none => .next s
  | some (a, st) =>
    if !s.joined x.val ∨ c.heldReported ∨ c.ending ∨ a = .moved then .next s
    else
      let s := (s.modCtx x.val (fun c => { c with heldReported := true })).reportHeld x.val
        (if a = .fail then st else a.status)
      .next (if c.state = 1 ∨ c.state = 6 then s.setCtxState x.val 5 else s)

/-- The abandonment that a JOB_ACTION's code asks for: 1 REPLAY, 2 FAIL, 3 CANCEL (14 Table 14-11). -/
def jobAbandon (action : Nat) : Abandon := if action = 1 then .replay else if action = 2 then .fail else .cancel

/-- JOB_ACTION_AT_LR: at the agreed lock cycle the step is abandoned and the action taken; HOLD_JOB ends (12 R258). -/
def execJobActionAtLr (x : Ctx) (s : State) : Out :=
  match (s.ctx x.val).jobAct with
  | none => .next s
  | some (action, lr) =>
    if !s.clk.lock || decide (s.lockCycle < lr) || (s.ctx x.val).ending then .next s
    else
      let s := s.abandonStep x.val (jobAbandon action)
      .next (if (s.ctx x.val).state = 5 then s.setCtxState x.val 1 else s)

end Sys2Proof.Machine
end

