-- ==== Sys2Proof/Machine/Stream.lean ====
section
/-! DEFINITION. Snapshots, the host copy, and the sending side of the record stream as commands (09 R166-R180;
13 R280-R282). -/

namespace Sys2Proof.Machine

/-- What a copy between memory and the host or another place has to pass: its host end is ready, no end lies in the store of a hive
that moves, and the canal joins the ends with sector 0, where the copying unit and the host are (01 R7-R9; 06 R109). -/
def State.copyReady (s : State) (x : Nat) (as : List Nat) : Bool :=
  as.all (fun a => !isHostAddr a || s.hostReady x a) && !as.any s.onMove && s.reachesAll 0 as

/-! ### HOST_START, HOST_STOP, SET_TENSORS (13 R280) -/

/-- HOST_START: the module's one host copy of the stream starts. -/
def execHostStart (x : Ctx) (s : State) : Out :=
  match s.startableOp x.val 0x10 (some 0) with
  | none => .next s
  | some d =>
    if s.fail.exp.host.isSome then .next (s.complete x.val d.idx stBusy 0)
    else if !s.hostReady x.val d.tailAddr then .next s
    else
      let h : HostCopy := { x := x.val, base := d.buf, tailAddr := d.tailAddr, size := d.size, next := s.fail.exp.seq }
      let t := (s.modExp (fun e => { e with host := some h })).storeNat x.val d.tailAddr 4 0
      .next (t.complete x.val d.idx stOk 0)

/-- HOST_STOP: the host copy stops. -/
def execHostStop (x : Ctx) (s : State) : Out :=
  match s.startableOp x.val 0x10 (some 1) with
  | none => .next s
  | some d => .next ((s.modExp (fun e => { e with host := none })).complete x.val d.idx stOk 0)

/-- The header addresses of an exported tensor list. -/
def State.tensorList (s : State) (x : Nat) (d : Cmd) : List Nat :=
  (List.range d.size).map (fun i => s.loadNat x (d.list + 8 * i) 6)

/-- SET_TENSORS: a list whose headers are all the context's takes effect at its next commit. -/
def execSetTensors (x : Ctx) (s : State) : Out :=
  match s.startableOp x.val 0x10 (some 4) with
  | none => .next s
  | some d =>
    let l := s.tensorList x.val d
    if !s.copyReady x.val [d.list] then .next s
    else if l.any (fun a => isHostAddr a || a % 64 != 0 || !s.mayAccess x.val a 64) then .next (s.complete x.val d.idx stBadAddress 0)
    else .next ((s.modCtx x.val (fun c => { c with tensorsNext := some l })).complete x.val d.idx stOk 0)

/-! ### SNAPSHOT and RESTORE (13 R281, R282) -/

/-- The committed header of a tensor: as touched in the step, or as it stands. -/
def State.committedHeader (s : State) (x a : Nat) : List Byte :=
  let cur := s.loads x a 32
  match (s.ctx x).touched.find? (fun t => t.addr == a) with
  | some t => oldHeader cur t
  | none => cur

/-- The TENSOR record of a tensor's committed state, taken from zero. -/
def State.tensorFull (s : State) (x step a : Nat) : Draft :=
  let h := s.hdr x a
  let n := (sget 0 (s.ctx x).tops h.map + 63) / 64 * 8
  { tensorDraft x step a (h.map + n) (List.replicate 32 0) (s.committedHeader x a) (List.replicate n 0) (s.loads x (h.map + n) n) with
    reads := [(a, 32), (h.map + n, n)] }

/-- The records that rebuild a context's committed state: FULL blocks, tensors from zero, a COMMIT. -/
def State.fullDrafts (s : State) (x table step : Nat) (tensors : List Nat) : List Draft :=
  let gs := s.grps x table
  let blocks := (gs.map (fun g => (List.range g.blocks).map (fun b => s.blockDraft x g b step true []))).flatten
  let tens := tensors.map (s.tensorFull x step)
  blocks ++ tens ++ [s.commitDraft x step (blocks.length + tens.length) (s.swHdr x table).state (gs.map Grp.gstate)
    (s.numericsImage x s.layersC)]

/-- Another SNAPSHOT of the context, or a command of a step, is in progress. -/
def CtxSt.otherSnapshot (c : CtxSt) (idx : Nat) : Bool :=
  c.cmds.any (fun d => decide (d.phase = .started) && d.opcode == 0x10 && d.sub == 2 && d.idx != idx)
def CtxSt.stepInProgress (c : CtxSt) : Bool := c.cmds.any (fun d => d.isStep && decide (d.phase = .started))

/-- A SNAPSHOT may take its next record: no sweep is past its start, and the module's rank has not moved (09 R184). -/
def State.snapshotsGo (s : State) (x : Nat) : Bool :=
  !s.fail.moved && match (s.ctx x).sweep with
    | some w => decide (w.phase = .start)
    | none => true

/-- The SNAPSHOT in progress whose turn it is. -/
def State.snapshotTurn (s : State) (x : Nat) : Option Cmd :=
  if s.snapshotsGo x then
    ((s.ctx x).cmds.find? (fun d => decide (d.phase = .started) && d.opcode == 0x10 && d.sub == 2)).bind (fun d =>
      if d.suspended then none else some d)
  else none

/-- Memory that a record of a SNAPSHOT is formed of: the planes of its groups and the sweep table's records. -/
def State.snapshotReads (s : State) (x table : Nat) : List (Nat × Nat) :=
  s.tableExtents x table ++ ((s.grps x table).map Grp.extents).flatten

/-- The next record of a SNAPSHOT goes to its buffer; the COMMIT record ends it. -/
def State.snapshotStep (s : State) (x : Nat) (d : Cmd) : State :=
  match (s.fullDrafts x d.sweepTable (s.ctx x).step (s.ctx x).tensors)[d.progress]? with
  | none => s.complete x d.idx stOk d.units
  | some r =>
    let bs := r.bytes (BitVec.ofNat 32 d.progress)
    let a := d.buf + 64 * d.units
    if d.size < d.units + bs.length / 64 then s.complete x d.idx stNoResource d.units
    else if s.isProtected a bs.length then s.complete x d.idx stBadAddress d.units
    else
      let t := (((s.stores x a bs).chargeAll [(a, bs.length)] true).chargeAll r.reads).modCmd x d.idx (fun d => { d with
        progress := d.progress + 1, units := d.units + bs.length / 64 })
      if r.kind = kCommit then t.complete x d.idx stOk (d.units + bs.length / 64) else t

/-- SNAPSHOT: a new one is refused while another of the context is open, and its table is checked by 08 R145; then one record of the
context's committed state after another goes to BUF. -/
def execSnapshot (x : Ctx) (s : State) : Out :=
  match s.startableOp x.val 0x10 (some 2) with
  | some d =>
    let form := s.tableForm x.val d.sweepTable
    if (s.ctx x.val).snapshotOpen then .next (s.complete x.val d.idx stBusy 0)
    else if form ≠ stOk then .next (s.complete x.val d.idx form 0)
    else if !s.snapshotsGo x.val || !s.copyReady x.val (d.buf :: (s.snapshotReads x.val d.sweepTable).map (·.1)) then .next s
    else .next ((s.start x.val d.idx).snapshotStep x.val d)
  | none =>
    match s.snapshotTurn x.val with
    | some d =>
      whenReady (s.copyReady x.val ((d.buf + 64 * d.units) :: (s.snapshotReads x.val d.sweepTable).map (·.1))) s (s.snapshotStep x.val d)
    | none => .next s

/-- Bytes that a record takes in a buffer. -/
def recSpan (r : List Byte) : Nat := 64 + (recLen r + 63) / 64 * 64

/-- The records of a buffer up to its first COMMIT or its end, with fuel. -/
def State.readRecords (s : State) (x : Nat) : Nat → Nat → Nat → List (List Byte)
  | 0, _, _ => []
  | k + 1, a, room =>
    if room < 64 then []
    else
      let head := s.loads x a 64
      let n := min room (recSpan head)
      let r := s.loads x a n
      r :: (if recKind head = kCommit then [] else s.readRecords x k (a + n) (room - n))

/-- A record of a buffer passes its checks, with its writes carrying the bytes that DATA_CRC names (09 R167, R169). -/
def recCheck (rd : Nat → Nat → List Byte) (r : List Byte) : Bool :=
  recOk r && (decide (3 < recKind r) || dataOk r (recWrites rd 0 r).2)
    && (decide (recKind r ≠ kBlock) || decide ((expand (recPayload r)).length = ((blockPlanes r).map (fun p => p.2.2)).sum))

/-- What a record's COMMIT writes: the sweep state record and the group state records. -/
def commitWrites (r : List Byte) : Writes :=
  let (st, groups, _) := commitParts r (commitGroups r)
  (recNat r 22 6, st) :: groups

/-- The layers of a context take the numbers of a numerics image. -/
def State.takeImage (s : State) (x : Nat) (image : List Byte) : State :=
  let put := fun (m : SMap LayerSt) => (chunks 512 image.length image).foldl (fun m b =>
    let n := imageNat b 0 6
    if n < 1024 ∧ imageNat b 6 2 = 0xFFFF ∧ s.hasLayer x n then smod {} m n (fun l => l.ofImage b) else m) m
  { s with layers := put s.layers, layersC := put s.layersC }

/-- Records applied to the context's memory, in order. -/
def State.applyRecords (s : State) (x : Nat) (rs : List (List Byte)) : State :=
  rs.foldl (fun s r =>
    let ws := if recKind r = kCommit then commitWrites r else (recWrites (s.loads x) 0 r).1
    let s := ws.foldl (fun s w => s.stores x w.1 w.2) s
    if recKind r = kCommit then
      (s.takeImage x (commitParts r (commitGroups r)).2.2).modCtx x (fun c => { c with step := recStep r })
    else s) s

/-- The extents that records write. -/
def State.recordExtents (s : State) (x : Nat) (rs : List (List Byte)) : List (Nat × Nat) :=
  (rs.map (fun r => (if recKind r = kCommit then commitWrites r else (recWrites (s.loads x) 0 r).1).map
    (fun w => (w.1, w.2.length)))).flatten

/-- A record takes its place in the order of SEQ, which wraps (09 R166). -/
def insertSeq (r : List Byte) : List (List Byte) → List (List Byte)
  | [] => [r]
  | q :: qs => if (recSeq r - recSeq q).toNat < 2 ^ 31 then q :: insertSeq r qs else r :: q :: qs

/-- Records in the order of SEQ. -/
def bySeq (rs : List (List Byte)) : List (List Byte) := rs.foldl (fun l r => insertSeq r l) []

/-- RESTORE: the table is checked by 08 R145 and every record of the buffer under 09 R167 and R169; then all are applied in SEQ
order, and the working copies re-derived. -/
def execRestore (x : Ctx) (s : State) : Out :=
  match s.startableOp x.val 0x10 (some 3) with
  | none => .next s
  | some d =>
    let c := s.ctx x.val
    let form := s.tableForm x.val d.sweepTable
    if c.stepInProgress || c.snapshotOpen then .next (s.complete x.val d.idx stBusy 0)
    else if form ≠ stOk then .next (s.complete x.val d.idx form 0)
    else if !s.copyReady x.val [d.buf, d.buf + 64 * d.size - 1] then .next s
    else
      let rs := s.readRecords x.val (d.size + 1) d.buf (64 * d.size)
      match rs.find? (fun r => !recCheck (s.loads x.val) r) with
      | some r => .next (s.complete x.val d.idx stBadDescriptor (recSeq r).toNat)
      | none =>
        let es := s.recordExtents x.val rs
        if es.any (fun e => isHostAddr e.1 || !s.mayAccess x.val e.1 e.2 || s.isProtected e.1 e.2) then
          .next (s.complete x.val d.idx stBadAddress 0)
        else if !s.copyReady x.val (es.map (·.1)) || !s.mayRederive x.val d.sweepTable (s.tgts x.val d.sweepTable) then .next s
        else
          let t := ((s.applyRecords x.val (bySeq rs)).chargeAll [(d.buf, (rs.map List.length).sum)]).chargeAll es true
          let t := t.mendTargets x.val d.sweepTable (List.range (t.swHdr x.val d.sweepTable).targets)
          .next (t.complete x.val d.idx stOk 0)

/-! ### The host copy (09 R174) -/

/-- The next record that the host copy is to write. -/
def State.hostNext (s : State) (h : HostCopy) : Option Rec :=
  s.fail.exp.recs.find? (fun r => decide ((r.seq - h.next).toNat < 2 ^ 31) && (!h.gap || r.kind == kCommit))

/-- A record written to the host ring unit by unit, and the tail after it. -/
def State.putHost (s : State) (h : HostCopy) (r : Rec) : State :=
  let n := r.bytes.length / 64
  let s := (List.range n).foldl (fun s i =>
    s.stores h.x (h.base + 64 * ((h.tail + i) % h.size)) ((r.bytes.drop (64 * i)).take 64)) s
  (s.storeNat h.x h.tailAddr 4 (h.tail + n)).modExp (fun e => { e with
    host := some { h with tail := h.tail + n, next := r.seq + 1, gap := false } })

/-- Records for the host are dropped from a SEQ on: OVERRUN, and a log entry with the first one lost. -/
def State.dropHost (s : State) (h : HostCopy) (seq : BitVec 32) (next : BitVec 32) : State :=
  ((s.setFlag Off.updExpHost 63 true).noteFree 3 false 0x00 [seq.toNat] (some h.x)).modExp (fun e => { e with
    host := some { h with next := next, gap := true } })

/-- HOST_RECORD_WRITE: the next record goes to the host ring, or is dropped when the ring is full. -/
def execHostRecordWrite (s : State) : Out :=
  match s.fail.exp.host with
  | none => .next s
  | some h =>
    match s.hostNext h with
    | none => .next s
    | some r =>
      let fits := decide (h.tail + r.bytes.length / 64 - h.head ≤ h.size)
      if !s.hostReady h.x h.base then .next (if h.gap then s else s.dropHost h h.next (r.seq + 1))
      else if s.exporting && !s.joins 0 (r.stack / 2) then .next s
      else if r.seq ≠ h.next ∧ !h.gap then .next (s.dropHost h h.next r.seq)
      else if fits then .next (s.putHost h r)
      else if h.gap then .next s
      else .next (s.dropHost h r.seq (r.seq + 1))

/-- What a write of UPD.EXP_HOST does: HEAD takes the written position, OVERRUN clears where written 1. -/
def State.writeExpHost (s : State) (f : Nat) (v : Word) : State :=
  if !s.mayWrite f .any 0 0 then (s.ignored f Off.updExpHost v.toNat)
  else
    let s := s.putReg f Off.updExpHost 0xFFFFFFFF 0x8000000000000000 v.toNat
    let pos := v.toNat % 2 ^ 32
    (s.modExp (fun e => { e with host := e.host.map (fun h =>
      { h with head := min h.tail (h.head + (pos % h.size + h.size - h.head % h.size) % h.size) }) }))

/-- EXP_HOST_HEAD. -/
def execExpHostHead (f : Func) (v : Word) (s : State) : Out :=
  .next (if s.barOpen then s.writeExpHost f.val v else s)

/-! ### The stream to the partner (09 R166, R171-R173, R177, R180) -/

/-- Lock cycles in picoseconds: 1,024 frames. -/
def lockCyclePs : Nat := 1024 * framePs

/-- A silence limit in lock cycles; 0 is treated as 1,024. -/
def timeoutPs (n : Nat) : Nat := (if n = 0 then 1024 else n) * lockCyclePs

/-- The partner's module number. -/
def State.partner (s : State) : Nat := s.field Off.updExpCtrl 47 34

/-- What a write of UPD.EXP_CTRL does. Setting EN starts SEQ at 0; a write with EN set starts resynchronisation with
the partner it names; without EN nothing is held for a partner (09 R166, R177). -/
def State.writeExpCtrl (s : State) (f : Nat) (v : Word) : State :=
  if !s.mayWrite f .pf 0 0 then (s.ignored f Off.updExpCtrl v.toNat)
  else
    let was := s.exporting
    let s := s.putReg f Off.updExpCtrl 0xFFFCFFFF0003 0 v.toNat
    if s.exporting then
      let s := if was then s
        else
          let s : State := { s with ctxs := s.ctxs.map (fun c => (c.1, { c.2 with unacked := none })) }
          s.modExp (fun e => { e with
            seq := 0, recs := [], rows := [], heads := [], next := 0, ackStep := 0
            host := e.host.map (fun h => { h with next := 0 }) })
      (s.modExp (fun e => { e with resync := true, resyncPos := 0, resyncEnd := none, lost := false, heard := s.clk.now }))
    else
      s.modExp (fun e => { e with
        resync := false, resyncPos := 0, resyncEnd := none, lost := false, rows := []
        recs := if e.host.isSome then e.recs else [] })

/-- EXP_CTRL_WRITE. -/
def execExpCtrlWrite (f : Func) (v : Word) (s : State) : Out :=
  .next (if s.barOpen then s.writeExpCtrl f.val v else s)

/-- The modules to which this one sends records: its partner, and the sources it mirrors. -/
def State.streamPeers (s : State) : List Nat :=
  (if s.exporting then [s.partner] else []) ++ ((List.range 16).filter (fun p => s.flag (Off.updMirrorIn p) 63)).map (fun p =>
    s.field (Off.updMirrorIn p) 62 49)

/-- A record goes to a module in this lock cycle (09 R166). -/
def State.recordSent (s : State) (dest : Nat) : State :=
  s.modExp (fun e => { e with sentTo := sput 0 e.sentTo dest (s.lockCycle + 1) })

/-- KEEPALIVE: each module to which no other record was sent in this lock cycle, and none waits to go, gets a KEEPALIVE, which
takes no place in the sequence (09 R166). -/
def execKeepalive (s : State) : Out :=
  let due := s.streamPeers.filter (fun d => decide (sget 0 s.fail.exp.sentTo d ≤ s.lockCycle)
    && !s.fail.exp.replies.any (fun r => r.1 == d))
  let step := (s.ctxs.map (fun c => c.2.step)).foldl max 0
  let r := recordBytes s.fail.exp.seq.toNat kKeepalive 0 0 step 0 (natLe step 6) [] 0
  whenReady (s.clk.lock && !due.isEmpty) s
    (due.foldl (fun s d => (s.recordSent d).modExp (fun e => { e with replies := e.replies ++ [(d, r)] })) s)

/-- The partner acknowledges a step, up to the COMMIT with a SEQ; the last COMMIT of a resynchronisation ends it (R177). -/
def State.takeAck (s : State) (step : Nat) (seq : BitVec 32) : State :=
  if !s.exporting then s
  else
    let s : State := { s with ctxs := s.ctxs.map (fun c =>
      (c.1, if c.2.unacked = some seq then { c.2 with unacked := none } else c.2)) }
    let closes := s.fail.exp.resync && s.fail.exp.resyncEnd == some seq
    s.modExp (fun e => { e with
      heard := s.clk.now, ackStep := step, resync := e.resync && !closes,
      resyncPos := if closes then 0 else e.resyncPos, resyncEnd := if closes then none else e.resyncEnd })

/-- ACK: the partner's acknowledgement of a step (09 R172, R173). -/
def execAck (step : BitVec 48) (seq : BitVec 32) (s : State) : Out := .next (s.takeAck step.toNat seq)

/-- The partner asks for records from a SEQ on; a record that has left the spool starts resynchronisation. -/
def State.takeResend (s : State) (seq : BitVec 32) : State :=
  if !s.exporting then s
  else if s.fail.exp.recs.any (fun r => r.seq == seq) then s.modExp (fun e => { e with heard := s.clk.now, next := seq })
  else if (seq - s.fail.exp.seq).toNat < 2 ^ 31 then s.modExp (fun e => { e with heard := s.clk.now })
  else s.modExp (fun e => { e with heard := s.clk.now, resync := true, resyncPos := 0, resyncEnd := none })

/-- RESEND: records are sent again from the SEQ named (09 R172). -/
def execResend (seq : BitVec 32) (s : State) : Out := .next (s.takeResend seq)

/-- The records that rebuild the mirror: for each context with a sweep table, its full state (09 R177). -/
def State.resyncDrafts (s : State) : List Draft :=
  (s.ctxs.map (fun c => match c.2.table with
    | some t => s.fullDrafts c.1 t c.2.step c.2.tensors
    | none => [])).flatten

/-- No sweep is changing what a resynchronisation sends. -/
def State.sweepsQuiet (s : State) : Bool :=
  s.ctxs.all (fun c => match c.2.sweep with
    | some w => decide (w.phase = .start ∨ w.phase = .norm ∨ w.phase = .decide)
    | none => c.2.abandon.isNone)

/-- RESYNCHRONISATION: the next full record goes to the stream; the partner is in step once it has acknowledged the last COMMIT
(09 R177). -/
def execResynchronisation (s : State) : Out :=
  if !s.exporting || !s.fail.exp.resync || !s.sweepsQuiet then .next s
  else
    match s.resyncDrafts[s.fail.exp.resyncPos]? with
    | none => .next s
    | some d =>
      if !s.roomFor [d] then .next s
      else
        let t := ((s.emit d).chargeAll d.reads).modExp (fun e => { e with resyncPos := e.resyncPos + 1 })
        let t := if d.kind = kCommit then
            t.modCtx d.ctx (fun c => { c with unacked := some s.fail.exp.seq })
          else t
        .next (if s.fail.exp.resyncPos + 1 = s.resyncDrafts.length then
          t.modExp (fun e => { e with resyncEnd := some s.fail.exp.seq }) else t)

/-- PARTNER_LOST: silence beyond the limit: the partner is lost, and the module runs unprotected (09 R180). -/
def execPartnerLost (s : State) : Out :=
  let t := timeoutPs (s.field Off.updExpCtrl 31 16)
  whenReady (s.exporting && !s.fail.exp.lost && decide (s.fail.exp.heard + t ≤ s.clk.now)) s
    ((s.noteFree 3 true 0x00 [s.partner]).modExp (fun e => { e with lost := true }))

end Sys2Proof.Machine
end

