-- ==== Sys2Proof/Machine/Mirror.lean ====
section
/-! DEFINITION. The receiving side of the record stream: a mirror's inbound spools, application, undo and the loss of a
source (09 R172, R175-R181). -/

namespace Sys2Proof.Machine

/-- A mirrored source. -/
def State.mirror (s : State) (p : Nat) : MirrorSt := sget {} s.fail.mirrors p

/-- The state with a source changed. -/
def State.modMirror (s : State) (p : Nat) (f : MirrorSt → MirrorSt) : State :=
  { s with fail := { s.fail with mirrors := smod {} s.fail.mirrors p f } }

/-- VALID, SOURCE and DISP of UPD.MIRROR_IN. -/
def State.mirValid (s : State) (p : Nat) : Bool := s.flag (Off.updMirrorIn p) 63
def State.mirSource (s : State) (p : Nat) : Nat := s.field (Off.updMirrorIn p) 62 49
def State.mirDisp (s : State) (p : Nat) : Nat := s.field (Off.updMirrorIn p) 46 32 * 0x100000

/-- Bytes that an inbound spool holds, and its size. -/
def MirrorSt.used (m : MirrorSt) : Nat := (m.spool.map List.length).sum
def State.mirSize (s : State) (p : Nat) : Nat := s.field (Off.updMirrorSpool p) 46 32 * 0x100000

/-- A reply to a module: an ACK or RESEND record outside the sequence. -/
def State.reply (s : State) (dest kind step : Nat) (fields : List Byte) : State :=
  s.modExp (fun e => { e with replies := e.replies ++ [(dest, recordBytes 0 kind 0 0 step 0 fields [] 0)] })

/-- The source is asked to send again from a SEQ on. -/
def State.askAgain (s : State) (p : Nat) (seq : BitVec 32) : State := s.reply (s.mirSource p) kResend 0 (natLe seq.toNat 4)

/-- A context of a source as the mirror keeps it. -/
def MirrorSt.ctx (m : MirrorSt) (y : Nat) : MirCtx := sget {} m.ctxs y

/-- The source with one context changed. -/
def MirrorSt.modCtx (m : MirrorSt) (y : Nat) (f : MirCtx → MirCtx) : MirrorSt := { m with ctxs := smod {} m.ctxs y f }

/-- The source enters resynchronisation: records held for it are dropped, and it is told so by a request for a record that has
long left its spool (09 R172, R175; log 30). -/
def State.mirResync (s : State) (p : Nat) : State :=
  let s := match (s.mirror p).next with
    | some q => s.askAgain p (q - 0x40000000)
    | none => s
  s.modMirror p (fun m => { m with
    state := 2, spool := [], dropped := none
    ctxs := m.ctxs.map (fun c => (c.1, { c.2 with inStep := false, fulls := [] })) })

/-- The same, with a log entry (09 R176, R178). -/
def State.mirRefuse (s : State) (p : Nat) (args : List Nat) : State := (s.mirResync p).noteFree 3 false 0x00 args

/-- The extents that a source's writes take, kept as held for it. -/
def MirrorSt.hold (m : MirrorSt) (ws : Writes) : MirrorSt :=
  { m with held := ws.foldl (fun h w => if h.contains (w.1, w.2.length) then h else h ++ [(w.1, w.2.length)]) m.held }

/-- A range held for another source. -/
def State.heldElsewhere (s : State) (p a n : Nat) : Bool :=
  s.fail.mirrors.any (fun e => e.1 != p && e.2.held.any (fun r => decide (r.1 < a + n ∧ a < r.1 + r.2)))

/-- Writes that a record may make here: within their stack, and clear of other sources' ranges (09 R178). -/
def State.writesOk (s : State) (p : Nat) (ws : Writes) : Bool :=
  ws.all (fun w => staysInStack (s.mirDisp p) w && !s.heldElsewhere p w.1 w.2.length)

/-- The tensor that a TENSOR record names, noted for a takeover. -/
def MirrorSt.noteTensor (m : MirrorSt) (r : List Byte) : MirrorSt :=
  let t : MirTensor := ⟨recNat r 16 6, recNat r 22 6, recNat r 28 4⟩
  { m with tensors := if m.tensors.contains t then m.tensors else t :: m.tensors.filter (fun u => u.hdr != t.hdr) }

/-- A record's writes on this mirror, and the bytes its DATA_CRC covers; `zero` takes its differences from zero. -/
def State.mirWrites (s : State) (p : Nat) (zero : Bool) (r : List Byte) : Writes × List Byte :=
  let rd := fun a n => if zero then List.replicate n 0 else s.mem.dev.bytes a n
  if recKind r = kCommit then ((commitWrites r).map (fun w => (w.1 + s.mirDisp p, w.2)), [])
  else recWrites rd (s.mirDisp p) r

/-- The memory with a source's writes, and the source with them held. -/
def State.mirPut (s : State) (p : Nat) (ws : Writes) : State :=
  (ws.foldl (fun s w => s.stores 0 w.1 w.2) s).modMirror p (fun m => m.hold ws)

/-- Base of a source's inbound spool. -/
def State.mirSpoolBase (s : State) (p : Nat) : Nat :=
  s.field (Off.updMirrorSpool p) 52 48 * 0x800000000 + s.field (Off.updMirrorSpool p) 14 0 * 0x100000

/-- A record of a context in step goes to the source's spool, or is discarded when it does not fit (09 R175, R176). -/
def State.spoolRecord (s : State) (p : Nat) (r : List Byte) : State :=
  let m := s.mirror p
  if m.dropped.isSome then s
  else if m.used + r.length ≤ s.mirSize p then
    (s.putRing (s.mirSpoolBase p) (s.mirSize p) m.pos r).modMirror p (fun m => { m with
      spool := m.spool ++ [r], pos := (m.pos + r.length) % s.mirSize p })
  else if m.spool.any (fun r => recKind r == kCommit) then s.modMirror p (fun m => { m with dropped := some (recSeq r) })
  else s.mirRefuse p [p, recStep r]

/-- Where the block or tensor of a record lies, as a key. -/
def fullKey (r : List Byte) : Nat := 2 * recNat r 16 6 + b2n (recKind r == kTensor)

/-- A full record of a resynchronising context is applied as it arrives and takes its place among those a COMMIT counts (09 R176,
R177). -/
def State.fullRecord (s : State) (p : Nat) (r : List Byte) : State :=
  let y := recCtx r
  let (ws, covered) := s.mirWrites p true r
  if !s.writesOk p ws then s.mirRefuse p [p, recStep r]
  else if !dataOk r covered then s.mirResync p
  else
    let s := (s.mirPut p ws).modMirror p (fun m => m.modCtx y (fun c => { c with
      fulls := if c.fulls.contains (fullKey r) then c.fulls else fullKey r :: c.fulls }))
    if recKind r = kTensor then s.modMirror p (fun m => m.noteTensor r) else s

/-- The records of a context that wait in the spool. -/
def MirrorSt.waiting (m : MirrorSt) (y : Nat) : List (List Byte) := m.spool.filter (fun r => recCtx r == y)
def MirrorSt.without (m : MirrorSt) (y : Nat) : MirrorSt := { m with spool := m.spool.filter (fun r => recCtx r != y) }

/-- A record of a step that the source commits while it resynchronises is applied where a full record has brought what it changes; a
later full record brings the rest. False where it is refused; none where it does not reproduce its DATA_CRC. -/
def State.overRecord (s : State) (p : Nat) (r : List Byte) : Except Bool State :=
  if recKind r ≠ kRows ∧ recKind r ≠ kCommit ∧ !((s.mirror p).ctx (recCtx r)).fulls.contains (fullKey r) then .ok s
  else
    let (ws, covered) := s.mirWrites p false r
    if !s.writesOk p ws then .error true
    else if recKind r ≠ kCommit ∧ !dataOk r covered then .error false
    else .ok (s.mirPut p ws)

/-- Records in order, as far as none fails. -/
def State.overRecords (s : State) (p : Nat) : List (List Byte) → Except Bool State
  | [] => .ok s
  | r :: rs => match s.overRecord p r with
    | .ok t => t.overRecords p rs
    | .error e => .error e

/-- The COMMIT of a resynchronising context. One that counts its full records and closes no step of its own completes the context's
state; another closes a step of the stream that runs beside them (09 R177; log 30). -/
def State.closingCommit (s : State) (p : Nat) (r : List Byte) : State :=
  let y := recCtx r
  let m := s.mirror p
  let c := m.ctx y
  let n := recNat r 16 6
  let rs := m.waiting y
  let (ws, _) := s.mirWrites p false r
  if c.fulls.length = n ∧ 0 < n ∧ (rs.length < n ∨ recStep r = c.applied) then
    if !s.writesOk p ws then s.mirRefuse p [p, recStep r]
    else
      let s := (s.mirPut p ws).modMirror p (fun m =>
        let m := (m.without y).modCtx y (fun _ => { inStep := true, applied := recStep r, image := (commitParts r (commitGroups r)).2.2 })
        { m with applied := recStep r, state := if m.ctxs.all (fun c => c.2.inStep) then 1 else 2 })
      s.reply (s.mirSource p) kAck (recStep r) (natLe (recSeq r).toNat 4)
  else if rs.length < n then s.mirResync p
  else
    match s.overRecords p (rs.drop (rs.length - n) ++ [r]) with
    | .ok t => t.modMirror p (fun m => (m.without y).modCtx y (fun c => { c with applied := recStep r }))
    | .error true => s.mirRefuse p [p, recStep r]
    | .error false => s.mirResync p

/-- A TENSOR record taken from zero: so applied it reproduces its DATA_CRC. -/
def State.fromZero (s : State) (p : Nat) (r : List Byte) : Bool := recKind r == kTensor && dataOk r (s.mirWrites p true r).2

/-- A record of a context that is not in step with the mirror: a full one is applied, a COMMIT closes what came before it, and any
other waits in the spool for the COMMIT of its step. -/
def State.resyncRecord (s : State) (p : Nat) (r : List Byte) : State :=
  let y := recCtx r
  let full := recKind r == kBlock && recFull r
  let s := if full then s.modMirror p (fun m =>
      let m := if (m.ctx y).inStep then m.without y else m
      { m with state := 2, ctxs := smod {} m.ctxs y (fun c => { c with inStep := false }) })
    else s
  if !full && decide ((s.mirror p).state = 1) then s.mirResync p
  else if recKind r = kCommit then s.closingCommit p r
  else if full || s.fromZero p r then s.fullRecord p r
  else s.spoolRecord p r

/-- The mirror undoes a context's last applied step (09 R178, R179). -/
def State.mirUndo (s : State) (p y : Nat) : State :=
  let c := (s.mirror p).ctx y
  if c.undo.isEmpty then s
  else
    (c.undo.foldl (fun s w => s.stores 0 w.1 w.2) s).modMirror p (fun m =>
      let m := m.modCtx y (fun c => { c with undo := [], image := c.undoImage, applied := c.applied - 1 })
      { m with applied := c.applied - 1 })

/-- UNDO takes back the source's last committed step: out of the spool where its COMMIT waits there, else as applied
(09 R179). -/
def State.takeUndo (s : State) (p y : Nat) : State :=
  match ((s.mirror p).spool.filter (fun r => recKind r == kCommit && recCtx r == y)).getLast? with
  | some c => s.modMirror p (fun m => { m with
      spool := m.spool.filter (fun r => !(recCtx r == y && recStep r == recStep c)) })
  | none => s.mirUndo p y

/-- A record from a valid source, in its place in the sequence. -/
def State.takeRecord (s : State) (p : Nat) (r : List Byte) : State :=
  let s := s.modMirror p (fun m => { m with heard := s.clk.now, next := m.next.map (· + 1),
                                            state := if m.state = 0 then 2 else m.state })
  let m := s.mirror p
  if recKind r = kUndo then (if m.dropped.isSome then s else s.takeUndo p (recCtx r))
  else if s.mirSize p = 0 then s.modMirror p (fun m => { m with state := 2 })
  else if (m.ctx (recCtx r)).inStep && !(recKind r == kBlock && recFull r) then s.spoolRecord p r
  else s.resyncRecord p r

/-- Any record of the partner shows that it is there (09 R180). -/
def State.partnerHeard (s : State) (src : Nat) : State :=
  s.modExp (fun e => if src = s.partner ∧ s.exporting then { e with heard := s.clk.now } else e)

/-- An arriving record is checked, and kept, discarded or asked for again (09 R167, R172, R175). -/
def State.recordReceive (s : State) (p : Nat) (record : List Byte) : State :=
  let src := s.mirSource p
  if !s.mirValid p || s.fail.silenced.contains src || decide ((s.mirror p).state = 3) then s
  else
    let heard := s.modMirror p (fun m => { m with heard := s.clk.now })
    let next := ((s.mirror p).next).getD (recSeq record)
    if !recOk record then (heard.askAgain p next)
    else
      let k := recKind record
      let heard := heard.partnerHeard src
      if k = kKeepalive then heard
      else if k = kAck ∨ k = kResend then
        (if src ≠ s.partner then heard
          else if k = kAck then heard.takeAck (recStep record) (BitVec.ofNat 32 (recNat record 16 4))
          else heard.takeResend (BitVec.ofNat 32 (recNat record 16 4)))
      else if recSeq record = next then
        ((heard.modMirror p (fun m => { m with next := some next })).takeRecord p record)
      else if (recSeq record - next).toNat < 2 ^ 31 then (heard.askAgain p next)
      else heard

/-- RECORD_RECEIVE. -/
def execRecordReceive (p : Source) (record : List Byte) (s : State) : Out := .next (s.recordReceive p.val record)

/-- The records of one step applied in order: the state after, and what they replaced, newest first; `none` where a record
is refused or does not reproduce its DATA_CRC. -/
def State.applyStep (s : State) (p : Nat) : List (List Byte) → Writes → Except Bool (State × Writes)
  | [], undo => .ok (s, undo)
  | r :: rs, undo =>
    let (ws, covered) := s.mirWrites p false r
    if !s.writesOk p ws then .error true
    else if recKind r ≠ kCommit ∧ !dataOk r covered then .error false
    else
      let undo := s.mem.dev.undoOf ws undo
      let s := s.mirPut p ws
      let s := if recKind r = kTensor then s.modMirror p (fun m => m.noteTensor r) else s
      s.applyStep p rs undo

/-- The first COMMIT in a spool, the records of its context before it, and what the spool holds beside them. -/
def splitStep (spool : List (List Byte)) : Option (List (List Byte) × List Byte × List (List Byte)) :=
  let before := spool.takeWhile (fun r => recKind r != kCommit)
  match spool.drop before.length with
  | [] => none
  | c :: rest => some (before.filter (fun r => recCtx r == recCtx c), c, before.filter (fun r => recCtx r != recCtx c) ++ rest)

/-- COMMIT_RECORD_APPLY: with a COMMIT and all the records it counts, the step is applied in SEQ order and acknowledged; a
record that does not fit the applied state starts resynchronisation (09 R175). The records that a COMMIT counts are the last
before it: those of an abandoned attempt at the step stand before them. -/
def execCommitRecordApply (p : Source) (s : State) : Out :=
  let m := s.mirror p.val
  if !s.mirValid p.val || decide (m.state = 0 ∨ m.state = 3) then .next s
  else
    match splitStep m.spool with
    | none => .next s
    | some (all, c, rest) =>
      let y := recCtx c
      let rs := all.drop (all.length - recNat c 16 6)
      if all.length < recNat c 16 6 ∨ recStep c ≠ (m.ctx y).applied + 1 ∨ rs.any (fun r => recStep r != recStep c) then
        .next (s.mirResync p.val)
      else
        match s.applyStep p.val (rs ++ [c]) [] with
        | .error true => .next (s.mirRefuse p.val [p.val, recStep c])
        | .error false => .next (s.mirResync p.val)
        | .ok (t, undo) =>
          let t := t.modMirror p.val (fun m =>
            let m := m.modCtx y (fun k => { k with
              applied := recStep c, undo := undo, undoImage := k.image, image := (commitParts c (commitGroups c)).2.2 })
            { m with applied := recStep c, spool := rest, dropped := none, next := m.dropped.orElse (fun _ => m.next) })
          let t := t.reply (s.mirSource p.val) kAck (recStep c) (natLe (recSeq c).toNat 4)
          .next (match m.dropped with
            | some q => t.askAgain p.val q
            | none => t)

/-- UNDO: the mirror receives UNDO for a context of its source (09 R179). -/
def execUndo (u : UndoRecord) (s : State) : Out :=
  let p := u.source
  if !s.mirValid p.val then .next s
  else .next (((s.modMirror p.val (fun m => { m with heard := s.clk.now, next := m.next.map (· + 1) })).partnerHeard
    (s.mirSource p.val)).takeUndo p.val u.context.val)

/-- SOURCE_LOST: silence beyond the limit, or the fleet manager's report: records without a COMMIT are discarded, and the
loss is reported with the applied step (09 R181). A step that has its COMMIT is applied first. -/
def execSourceLost (p : Source) (reported : Bool) (s : State) : Out :=
  let m := s.mirror p.val
  let silent := decide (m.heard + timeoutPs (s.field (Off.updMirrorIn p.val) 31 16) ≤ s.clk.now)
  if !s.mirValid p.val || decide (m.state = 3) || !(reported || silent) || (splitStep m.spool).isSome then .next s
  else
    let s := s.modMirror p.val (fun m => { m with state := 3, spool := [], dropped := none })
    .next (s.send (.towpath 0x0022 (natLe (s.mirSource p.val) 2 ++ natLe m.applied 6 ++ natLe (if reported then 2 else 1) 1)))

end Sys2Proof.Machine
end

