-- ==== Sys2Proof/Machine/Hive.lean ====
section
/-! DEFINITION. The control core of a hive and its six queues (04 R62-R67): fetch, the checks at fetch, execution in
queue order, and failure of a run. One meaning for each instruction row. -/

namespace Sys2Proof.Machine

/-- The run a hive belongs to. -/
def State.hiveRun (s : State) (h : Nat) : Option Run :=
  match (s.hiveSt h).run with
  | some (x, idx) => (s.ctx x).runs.find? (fun r => r.idx == idx)
  | none => none

/-- The queue of a hive. -/
def HiveState.queue (v : HiveState) (q : Nat) : List QItem := v.queues.getD q []

/-- The hive with a queue replaced. -/
def HiveState.setQueue (v : HiveState) (q : Nat) (is : List QItem) : HiveState :=
  { v with queues := v.queues.set q is }

/-- Not WAIT and not BARRIER. -/
def QItem.plain (i : QItem) : Bool :=
  match i.op with
  | .wait .. => false
  | .barrier _ => false
  | _ => true

/-- A run fails: its hives stop fetching, waits and barriers and what follows them in their queues are dropped, and the
first status stands with the hive and slot that found it (04 R65, 13 Table 13-4). -/
def State.failRun (s : State) (h pos status : Nat) : State :=
  match (s.hiveSt h).run with
  | none => s
  | some (x, idx) =>
    let s := s.runFail x idx status (h * 2 ^ 24 + pos % 2 ^ 24)
    match (s.ctx x).runs.find? (fun r => r.idx == idx) with
    | none => s
    | some r => r.hives.foldl (fun s g =>
        let v := s.hiveSt g
        s.setHive g { v with fetching := false, queues := v.queues.map (fun q => q.takeWhile QItem.plain) }) s

/-- What executing the entry at the head of a queue leads to. -/
inductive Ran where
  /-- The entry is done. -/
  | done (s : State)
  /-- The entry holds its queue. -/
  | hold (s : State) (i : QItem)
  /-- The run fails. -/
  | fail (s : State) (status : Nat)

/-- The ends of extents. -/
def extentEnds (es : List (Nat × Nat)) : List Nat := es.flatMap (fun e => if e.2 = 0 then [] else [e.1, e.1 + e.2 - 1])

/-- The addresses between which a transfer moves data: the ends of what its fields name, and of the scales, maps and table that
the headers there name. -/
def State.dmaEnds (s : State) (x : Nat) (d : DmaOp) : List Nat :=
  [d.src, d.dst] ++ extentEnds (s.dmaExtents x d)

/-- A transfer is held: it needs the host, which is away or whose link is not secure; it reaches the store of a hive that moves
(06 R109); or an end lies in another sector and the canal joins the two no more (01 R7-R9). `sec` is the sector of the hive that
issues it; a ring's transfer crosses from its source to its destination. -/
def State.dmaHeld (s : State) (x : Nat) (sec : Option Nat) (d : DmaOp) : Bool :=
  !d.hostEnds.all (s.hostReady x) || (s.dmaEnds x d).any s.onMove
    || !s.reachesAll (sec.getD (sectorAt d.src)) (s.dmaEnds x d)

/-- BARRIER in its queue (10 R205). -/
def State.runBarrier (s : State) (x h q : Nat) (i : QItem) (id : Nat) : Ran :=
  let e := s.xl x id
  match s.partIndex e.object (.queue h q) with
  | none => .fail s stBadDescriptor
  | some p =>
    if s.homeAway (sectorOfHive h) true e.object then .hold s i
    else if !s.accepted x e then
      -- a dropped arrival adds nothing, so the round it would have entered is never released to it
      let s := if i.held then s else s.dropLocal e
      if e.hold then .hold s { i with held := true, round := (s.bar e.object).a p + 1,
                                      since := if i.held then i.since else s.clk.now }
      else .done s
    else if i.held && decide (i.round > 0) then
      if i.round ≤ (s.bar e.object).w then .done s else .hold s i
    else if !s.mayArrive e.object p then .hold s { i with held := true, since := if i.held then i.since else s.clk.now }
    else
      let s := s.arriveAt e.object p
      let a := (s.bar e.object).a p
      if e.hold && decide ((s.bar e.object).w < a) then
        .hold s { i with held := true, round := a, since := if i.held then i.since else s.clk.now }
      else .done s

/-- A transfer of a hive that reached the host is kept, since the answer to its accesses may still fail the run (06 R117). -/
def State.markHost (s : State) (h : Nat) (d : DmaOp) (pos : Nat) : State :=
  if d.hostEnds.isEmpty then s else s.setHive h { s.hiveSt h with hostAt := some pos }

/-- An engine or wide-unit entry that passes its checks is done, its accesses to stacks charged; it is held while a scale array or
map that it needs lies in the store of a hive that moves, or beyond the canal, or its sluice is shut (01 R7; 06 R109; 07 R121, R122). -/
def State.runOp (s : State) (h : Nat) (i : QItem) (reads writes : List (Nat × Nat)) (r : Res) : Ran :=
  match r with
  | .error st => .fail s st
  | .ok t =>
    let ends := extentEnds (reads ++ writes)
    if ends.any s.onMove || !s.reachesAll (sectorOfHive h) ends then .hold s i
    else if !s.sluicesOpen (reads ++ writes) then .hold (s.waitsAll (reads ++ writes)) i
    else .done ((t.chargeAll reads).chargeAll writes true)

/-- What a DRAIN at the head of a queue writes. -/
def State.drainOuts (s : State) (x h mode : Nat) (d : DrainOp) : List (Nat × Nat) :=
  let g := (s.hiveSt h).group d.eng d.group
  s.drainWrites x h d g (s.drainRows x h mode d g)

/-- The entry at the head of queue `q` of hive `h` executes (04 R67). -/
def State.runEntry (s : State) (x h q mode : Nat) (i : QItem) : Ran :=
  match i.op with
  | .tile t => s.runOp h i (s.tileReads x h t) [] (s.runTile x h mode t)
  | .drain d => s.runOp h i (s.drainReads x h mode d) (s.drainOuts x h mode d) (s.runDrain x h mode d)
  | .wop w => s.runOp h i (s.wopIns x h w ++ s.wopOwn x h w) (s.wopOuts x h w) (s.runWop x h mode w)
  | .dma d =>
    if s.dmaHeld x (some (sectorOfHive h)) d then .hold s i
    else if !s.sluicesOpen (s.dmaExtents x d) then .hold (s.waitsAll (s.dmaExtents x d)) i
    else
      let o := s.runDma x d (some (h, mode))
      match o.bad with
      | some (k, r) => .done (o.s.uncorrectable x k r)
      | none => if o.status = stOk then .done (o.s.markHost h d i.pos) else .fail o.s o.status
  | .signal _ id inc =>
    let (st, t) := s.signalVia x id inc (.queue h q i.pos)
    if st = stOk then .done t else .fail t st
  | .wait id target =>
    if s.waitMet x id target (waitTag h q) then .done (s.clearRelease (waitTag h q) id)
    else if i.held then .hold s i
    else .hold (s.sendWatch x id target (waitTag h q)) { i with held := true, since := s.clk.now }
  | .barrier id => s.runBarrier x h q i id

/-- A step fault that an entry raised stops its run (07 R137 step 1). -/
def State.stopIfFaulted (s t : State) (x h pos : Nat) : State :=
  if (s.ctx x).fault.isNone && (t.ctx x).fault.isSome then t.failRun h pos stStepReplayed else t

/-- Queue `q` of a hive runs until an entry holds it, its run fails, or it is empty. -/
def State.pump : Nat → State → Nat → Nat → State
  | 0, s, _, _ => s
  | k + 1, s, h, q =>
    let v := s.hiveSt h
    match v.run, v.queue q with
    | some (x, _), i :: rest =>
      if s.hive.halt then s
      else
        match s.runEntry x h q v.mode i with
        | .done t =>
          let t := t.setHive h ((t.hiveSt h).setQueue q rest)
          State.pump k (s.stopIfFaulted t x h i.pos) h q
        | .hold t i => t.setHive h ((t.hiveSt h).setQueue q (i :: rest))
        | .fail t st => State.pump k ((t.setHive h ((t.hiveSt h).setQueue q rest)).failRun h i.pos st) h q
    | _, _ => s

/-- After a failure every queue of the run completes the entries it still holds (04 R65). -/
def State.drainQueues (s : State) (h : Nat) : State :=
  match s.hiveRun h with
  | none => s
  | some r =>
    if r.fail.isNone then s
    else r.hives.foldl (fun s g => (List.range 6).foldl (fun s q => State.pump 65 s g q) s) s

/-- The entries and bytes that the groups of an engine hold (05 R88). -/
def HiveState.storeBytes (v : HiveState) (e : Nat) : Nat :=
  ((v.accts.filter (fun a => a.1 / 128 == e)).map (fun a =>
    a.2.heights.length * a.2.m * a.2.n * (if v.mode = 0 then 4 else if v.mode = 1 then 80 else 8))).sum

/-- The block length that an operand's header gives at fetch, on which its run length rests (05 R81, log 14). -/
def State.fetchBlockLen (s : State) (x a fmt : Nat) : Nat := if isNarrow fmt then (s.hdr x a).blockLen else 128

/-- The fetch-time account of a TILE (05 R86, R88, R89; 04 R392). -/
def State.acctTile (s : State) (x h : Nat) (v : HiveState) (t : TileOp) : Except Nat HiveState :=
  let key := 128 * t.eng + t.group
  let a : GroupAcct := sget {} v.accts key
  let a := if t.opens then { a with heights := [], row := none } else a
  let row := (t.rowBlk, t.masked, t.byBlock, t.maskOff)
  let fresh := a.row.isNone
  if !fresh && (a.m != t.m || a.n != t.n || a.row != some row) then .error stBadDescriptor
  else
    let len := runLen t.fmtA (s.fetchBlockLen x (hiveAddr h t.aOff) t.fmtA) (s.fetchBlockLen x (hiveAddr h t.bOff) t.fmtB)
    let hs := if v.mode = 0 then
        let st := treeHeight ((t.k + len - 1) / len) :: a.heights
        mergeHeights st.length st
      else [0]
    let a : GroupAcct := { fed := true, m := t.m, n := t.n, heights := hs, row := some row }
    let v := { v with accts := sput {} v.accts key a }
    if v.storeBytes t.eng > storeLimit v.mode then .error stNoResource else .ok v

/-- The fetch-time account of a DRAIN (04 R67, R392; 05 R86, R89). -/
def HiveState.acctDrain (v : HiveState) (d : DrainOp) : Except Nat HiveState :=
  let key := 128 * d.eng + d.group
  let a : GroupAcct := sget {} v.accts key
  let maskOk := !d.discard || (match a.row with
    | some (_, m, b, o) => m && b == d.byBlock && o == d.maskOff
    | none => true)
  if !a.fed || decide (d.pitch < d.col0 + a.n) || !maskOk then .error stBadDescriptor
  else .ok { v with accts := sput ({} : GroupAcct) v.accts key { a with heights := [], row := none } }

/-- The account of any instruction at fetch. -/
def State.acctInsn (s : State) (x h : Nat) (v : HiveState) (i : Insn) : Except Nat HiveState :=
  match i with
  | .tile t => s.acctTile x h v t
  | .drain d => v.acctDrain d
  | _ => .ok v

/-- The instruction word in a slot of the hive's stream. -/
def State.slotWord (s : State) (x : Nat) (v : HiveState) (pos : Nat) : Nat := s.loadNat x (v.base + 16 * pos) 16

/-- A slot index starts an instruction of the stream, walking from `at_` (04 R65). -/
def State.startsInsn (s : State) (x : Nat) (v : HiveState) : Nat → Nat → Nat → Bool
  | 0, _, _ => false
  | k + 1, at_, target =>
    if at_ = target then true
    else if target < at_ then false
    else s.startsInsn x v k (at_ + (if twoSlots (bits (s.slotWord x v at_) 7 0) then 2 else 1)) target

/-- The target of a BLT names an instruction of the stream (04 R65). -/
def State.bltOk (s : State) (x : Nat) (v : HiveState) (target : Nat) : Bool :=
  decide (target < v.len) && s.startsInsn x v (target + 1) 0 target

/-- The status with which an instruction fails at fetch, if it does (04 R65; 10 R196, R206, R208). -/
def State.fetchCheck (s : State) (x h : Nat) (v : HiveState) (i : Insn) : Nat :=
  match i with
  | .blt _ _ t => if s.bltOk x v t then stOk else stBadDescriptor
  | i =>
    if !s.insnIdsOk x h i then stBadDescriptor
    else if !s.insnAddrsOk x h v.mode i then stBadAddress
    else stOk

/-- The hive after a control instruction executed at fetch, at slot `pos` (04 R63, R66). -/
def HiveState.control (v : HiveState) (i : Insn) (next : Nat) : HiveState :=
  match i with
  | .setx r w => { v with xs := v.xs.set (r - 1) w, pos := next }
  | .addx r w => { v with xs := v.xs.set (r - 1) (v.xs.getD (r - 1) 0 + w), pos := next }
  | .blt r l t => { v with pos := if v.xs.getD (r - 1) 0 < l then t else next }
  | .endStream => { v with pos := next, ended := true, fetching := false }
  | _ => { v with pos := next }

/-- The hive fetches: its run neither failed nor suspended, its stream not ended, its program's sector joined to its own and the
program not in the store of a hive that moves. -/
def State.fetching (s : State) (h : Nat) : Bool :=
  let v := s.hiveSt h
  v.fetching && !v.ended && !s.hive.halt && s.joins (sectorOfHive h) (sectorAt v.base) && !s.onMove v.base && (match v.run, s.hiveRun h with
    | some (x, _), some r => r.fail.isNone && !r.suspended && !(s.ctx x).stopped && (s.ctx x).mayRun
    | _, _ => false)

/-- An instruction that passed its checks is placed in its queue, which runs as far as it can, or executes at fetch. -/
def State.place (s : State) (h : Nat) (v : HiveState) (i : Insn) (next : Nat) : State :=
  match i.queue, i.op with
  | some q, some op =>
    let t := s.setHive h (HiveState.setQueue { v with pos := next } q (v.queue q ++ [{ pos := v.pos, op := op }]))
    (State.pump 65 t h q).drainQueues h
  | _, _ => s.setHive h (v.control i next)

/-- What a fetch reads of a stream: the instruction's slots. -/
def State.fetchReads (s : State) (x : Nat) (v : HiveState) : List (Nat × Nat) :=
  [(v.base + 16 * v.pos, if twoSlots (bits (s.slotWord x v v.pos) 7 0) then 32 else 16)]

/-- The control core of hive `h` fetches its next instruction, if that is of row `row` (log 1, 10). A stream at its
length, a reserved encoding or a failed check fails the run; a full queue stalls fetch (04 R64, R65). -/
def State.fetchStep (s : State) (h : Nat) (row : HiveRow) : State :=
  let v := s.hiveSt h
  match v.run with
  | none => s
  | some (x, _) =>
    if !s.fetching h then s
    else if v.pos ≥ v.len then (s.failRun h v.pos stBadDescriptor).drainQueues h
    else if let some k := s.badAmong (s.fetchReads x v) then
      (s.stopIfFaulted (s.uncorrectable x k (0x10 + h)) x h v.pos).drainQueues h
    else
      let w := s.slotWord x v v.pos
      let two := twoSlots (bits w 7 0)
      match rowOf w with
      | none => (s.failRun h v.pos stBadDescriptor).drainQueues h
      | some r =>
        if r ≠ row then s
        else if two ∧ v.len ≤ v.pos + 1 then (s.failRun h v.pos stBadDescriptor).drainQueues h
        else
          match decodeInsn w (if two then s.slotWord x v (v.pos + 1) else 0) v.xs v.mode with
          | none => (s.failRun h v.pos stBadDescriptor).drainQueues h
          | some i =>
            if (match i.queue with
                | some q => decide ((v.queue q).length ≥ 64)
                | none => false) then s
            else
              let s := s.chargeAll (s.fetchReads x v)
              let st := s.fetchCheck x h v i
              if st ≠ stOk then (s.failRun h v.pos st).drainQueues h
              else
                match s.acctInsn x h v i with
                | .error st => (s.failRun h v.pos st).drainQueues h
                | .ok v => s.place h v i (v.pos + if two then 2 else 1)

/-- TILE (04 R67). -/
def execTile (h : Hive) (s : State) : Out := .next (s.fetchStep h.val .tile)
/-- DRAIN (04 R67, 05 R91). -/
def execDrain (h : Hive) (s : State) : Out := .next (s.fetchStep h.val .drain)
/-- WOP (04 R79, R391). -/
def execWop (h : Hive) (s : State) : Out := .next (s.fetchStep h.val .wop)
/-- SIGNAL (04 R61, R67; 10 R201). -/
def execSignal (h : Hive) (s : State) : Out := .next (s.fetchStep h.val .signal)
/-- WAIT (04 R67; 10 R194, R202). -/
def execWait (h : Hive) (s : State) : Out := .next (s.fetchStep h.val .wait)
/-- BARRIER (10 R205). -/
def execBarrier (h : Hive) (s : State) : Out := .next (s.fetchStep h.val .barrier)
/-- SETX (04 R66). -/
def execSetx (h : Hive) (s : State) : Out := .next (s.fetchStep h.val .setx)
/-- ADDX (04 R66). -/
def execAddx (h : Hive) (s : State) : Out := .next (s.fetchStep h.val .addx)
/-- BLT (04 R62, R65, R66). -/
def execBlt (h : Hive) (s : State) : Out := .next (s.fetchStep h.val .blt)
/-- NOP (04 Table 4-4). -/
def execNop (h : Hive) (s : State) : Out := .next (s.fetchStep h.val .nop)
/-- END (04 R64). -/
def execEndStream (h : Hive) (s : State) : Out := .next (s.fetchStep h.val .endStream)
/-- COPY (04 Table 4-6, R70). -/
def execCopy (h : Hive) (s : State) : Out := .next (s.fetchStep h.val .copy)
/-- CONVERT (04 R71, R390). -/
def execConvert (h : Hive) (s : State) : Out := .next (s.fetchStep h.val .convert)
/-- TRANSPOSE (04 R71-R73). -/
def execTranspose (h : Hive) (s : State) : Out := .next (s.fetchStep h.val .transpose)
/-- ADD_WRITE (04 R390, 05 R85). -/
def execAddWrite (h : Hive) (s : State) : Out := .next (s.fetchStep h.val .addWrite)
/-- GATHER (07 R126). -/
def execGather (h : Hive) (s : State) : Out := .next (s.fetchStep h.val .gather)
/-- SCATTER_ADD (07 R127). -/
def execScatterAdd (h : Hive) (s : State) : Out := .next (s.fetchStep h.val .scatterAdd)

/-! ### The end of a run -/

/-- Every queue of a hive is empty. -/
def HiveState.idle (v : HiveState) : Bool := v.queues.all (·.isEmpty)

/-- A run has finished: every hive at END, or the run failed, and every queue empty (04 R64, R65). -/
def State.runDone (s : State) (r : Run) : Bool :=
  r.hives.all (fun h => let v := s.hiveSt h; v.idle && (v.ended || r.fail.isSome))

/-- The hives of a run are free, their groups gone. -/
def State.freeHives (s : State) (r : Run) : State := r.hives.foldl (fun s h => s.setHive h {}) s

/-- The run leaves the context. -/
def State.dropRun (s : State) (x idx : Nat) : State :=
  s.modCtx x (fun c => { c with runs := c.runs.filter (fun r => r.idx != idx) })

/-- The run that RUN_COMPLETE may complete: finished, and not stopped for a replay (04 R64, 12 R272). -/
def State.doneRun (s : State) (x : Nat) : Option Run :=
  (s.ctx x).runs.find? (fun r => s.runDone r && decide (r.fail.map (·.1) ≠ some stStepReplayed))

/-- RUN_COMPLETE: the oldest finished run completes its command with OK or the first failure's status (04 R64, R65;
13 R273, Table 13-4). -/
def execRunComplete (x : Ctx) (s : State) : Out :=
  match s.doneRun x.val with
  | none => .next s
  | some r =>
    let t := (s.freeHives r).dropRun x.val r.idx
    match r.fail with
    | none => .next (t.complete x.val r.idx stOk 0)
    | some (st, res) => .next (t.complete x.val r.idx st res)

/-- RUN_SUSPENDED: a suspended run whose queues are all empty completes with SUSPENDED and keeps its hives; the SUSPEND
that asked for it completes with OK (12 Table 12-5). -/
def execRunSuspended (x : Ctx) (s : State) : Out :=
  let c := s.ctx x.val
  match c.runs.find? (fun r => r.suspended && r.fail.isNone && r.hives.all (fun h => (s.hiveSt h).idle)
      && (match c.cmd r.idx with
        | some d => !d.suspended
        | none => false)) with
  | none => .next s
  | some r =>
    let s := (s.interim x.val r.idx stSuspended).modCmd x.val r.idx (fun d => { d with suspended := true })
    .next ((c.suspends r.idx).foldl (fun s d => s.complete x.val d.idx stOk 0) s)

end Sys2Proof.Machine
end

