-- ==== Sys2Proof/Machine/Sync.lean ====
section
/-! DEFINITION. Waits, synchronisation messages, rebinds and barrier set-up as commands (10 R192-R210). -/

namespace Sys2Proof.Machine

/-! ### Waits of a host ring (13 R276) -/

/-- The identifier of a synchronisation command. -/
def Cmd.ident (d : Cmd) : Nat := d.f 75 64

/-- A started WAIT that is met, or BARRIER that can arrive or is released, completes (10 R205, 13 R276, Table 13-4). -/
def State.hostWaitStep (s : State) (x : Nat) (d : Cmd) : State :=
  let e := s.xl x d.ident
  if d.opcode = 4 then
    if s.waitMet x d.ident (d.f 175 128) (hostTag x) then
      (s.clearRelease (hostTag x) d.ident).complete x d.idx stOk 0
    else s
  else
    match s.partIndex e.object (.host x) with
    | none => s
    | some p =>
      let round := fun (s : State) (r : Nat) => r - sget 0 (s.bar e.object).cArr p
      if s.homeAway 0 true e.object then s
      else if d.progress > 0 then
        if d.progress ≤ (s.bar e.object).w then s.complete x d.idx stOk (round s d.progress) else s
      else if !s.accepted x e then
        -- the arrival is dropped at its home; the round it would have entered is never released to it
        let s := s.dropLocal e
        if e.hold then s.modCmd x d.idx (fun d => { d with progress := (s.bar e.object).a p + 1 })
        else s.complete x d.idx stOk 0
      else if !s.mayArrive e.object p then s
      else
        let s := s.arriveAt e.object p
        let r := (s.bar e.object).a p
        if e.hold && decide ((s.bar e.object).w < r) then s.modCmd x d.idx (fun d => { d with progress := r })
        else s.complete x d.idx stOk (round s r)

/-- The waits and barriers of a ring that have started and are not complete. -/
def CtxSt.openWaits (c : CtxSt) : List Cmd :=
  c.cmds.filter (fun d => decide (d.phase = .started) && (d.opcode == 4 || d.opcode == 5))

/-! ### Held queues and rings -/

/-- WAIT_RELEASE: a waiter whose condition holds goes on (10 R194, R202, R205). -/
def execWaitRelease (w : Waiter) (s : State) : Out :=
  match w with
  | .queue h q => .next ((State.pump 65 s h.val q.val).drainQueues h.val)
  | .host x =>
    if (s.ctx x.val).stopped || !(s.ctx x.val).mayRun then .next s
    else .next ((s.ctx x.val).openWaits.foldl (fun s d => s.hostWaitStep x.val d) s)
  | .remote i =>
    match s.sync.watches[i]? with
    | some w => .next (if s.watchMet w then s.serveWatches else s)
    | none => .next s

/-- A wait has been held for longer than SYN.WAIT_LIMIT, which 0 disables (10 R210). -/
def State.longHeld (s : State) (since : Nat) : Bool :=
  let l := s.field Off.synWaitLimit 15 0
  decide (l ≠ 0) && decide (since + l * 1000000000 < s.clk.now)

/-- What a held wait shows in its log entry: identifier, target and current count. -/
def State.waitArgs (s : State) (x id target : Nat) : List Nat :=
  let e := s.xl x id
  [id, target, if e.remote then 0 else s.waitCount (e.kind == 1) e.object]

/-- What a barrier hold shows: the round it waits for, or the one that it has yet to enter, and the rounds released, since the
last commit (10 R194, R205). -/
def State.holdArgs (s : State) (x id : Nat) (p : Part) (round : Nat) : List Nat :=
  let o := (s.xl x id).object
  let j := (s.partIndex o p).getD 0
  let r := if round = 0 then (s.bar o).a j + 1 else round
  [id, r - sget 0 (s.bar o).cArr j, s.released o]

/-- LONG_WAIT: one log entry for a wait or a barrier hold beyond the limit (10 R210). The count of an object on another
module is not known here; 0 stands for it. -/
def execLongWait (w : Waiter) (s : State) : Out :=
  match w with
  | .queue h q =>
    let v := s.hiveSt h.val
    match v.run, v.queue q.val with
    | some (x, _), i :: rest =>
      if i.held && !i.logged && s.longHeld i.since then
        let t := s.setHive h.val (v.setQueue q.val ({ i with logged := true } :: rest))
        let a0 := h.val + 256 * q.val
        match i.op with
        | .wait id target => .next (t.note 3 false 0x10 0x0303 (a0 :: s.waitArgs x id target) (some x))
        | .barrier id => .next (t.note 3 false 0x10 0x0303 (a0 :: s.holdArgs x id (.queue h.val q.val) i.round) (some x))
        | _ => .next s
      else .next s
    | _, _ => .next s
  | .host x =>
    match (s.ctx x.val).openWaits.find? (fun d => !d.logged && s.longHeld d.since) with
    | some d =>
      let t := s.modCmd x.val d.idx (fun d => { d with logged := true })
      .next (t.note 3 false 0x00 0x0303
        (0xFFFFFFFF :: if d.opcode = 4 then s.waitArgs x.val d.ident (d.f 175 128)
          else s.holdArgs x.val d.ident (.host x.val) d.progress) (some x.val))
    | none => .next s
  | .remote _ => .next s

/-! ### Messages at their home (10 R197, R199; 11 R233) -/

/-- The object of a message is a barrier slot. -/
def ofBarrier (m : SyncMsg) : Bool := decide (4 ≤ m.type.toNat) || (decide (m.type.toNat = 2) && watchesBarrier m)

/-- The age of a message in lock cycles, modulo 256. -/
def State.msgAge (s : State) (m : SyncMsg) : Nat := (s.lockCycle + 256 - m.sentLc.toNat) % 256

/-- A message this old is discarded (10 R199). -/
def State.tooOld (s : State) (m : SyncMsg) : Bool := decide (38 ≤ s.msgAge m)

/-- The steps of two contexts do not commit because a message was discarded: they fail, and a joined context
is held for its job (10 R199, 12 R256, R258). -/
def State.discardFault (s : State) (x : Option Nat) : State :=
  match x with
  | some x => if (s.ctx x).state = 0 then s else s.stepFault x .fail stStepFailed
  | none => s

/-- The step of the context that owns the home of a discarded message does not commit; a release's is the waiting context's. -/
def State.homeFault (s : State) (m : SyncMsg) : State :=
  s.discardFault (if m.type.toNat = 3 then some m.ctx.toNat else s.ownerOf (ofBarrier m) m.object.toNat)

/-- Messages that a unit discards: reported to both modules; the steps of the sender here, or of the owner of the home here,
fail (R199). -/
def State.dropMessages (s : State) (home : Nat) (ms : List SyncMsg) : State :=
  ms.foldl (fun s m =>
    let s := s.reportDiscard m home
    let s := s.discardFault (s.senderCtx m)
    if home = s.moduleNo then s.homeFault m else s) s

/-- A message is discarded at its home for its age: counted, reported to both modules, the owner's step stopped. -/
def State.discardHome (s : State) (barrier : Bool) (m : SyncMsg) : State :=
  let o := s.ownerOf barrier m.object.toNat
  let s := match o with
    | some x => s.countField (Off.synCtxSync x) 15 0 1
    | none => s
  let s := s.reportDiscard m s.moduleNo
  (s.discardFault (s.senderCtx m)).discardFault o

/-- The origin of a message is accepted: another module with REMOTE_OK, or this module's owning context (10 R197). -/
def State.originOk (s : State) (barrier : Bool) (m : SyncMsg) : Bool :=
  let o := m.object.toNat
  if m.origin.toNat = s.moduleNo then s.ownerOf barrier o == some m.ctx.toNat
  else if barrier then decide (o < 4368) && s.flag (Off.synBarCfg o) 55 else s.flag (Off.synCntCfg o) 31

/-- A message of a type reaches its object's home: discarded if too old, dropped if a check fails, else applied. -/
def State.deliver (s : State) (type : Nat) (barrier : Bool) (m : SyncMsg) (apply : State → State) : State :=
  let o := m.object.toNat
  let gen := if barrier then (s.bar o).gen else (s.counter o).gen
  if m.type.toNat ≠ type then s
  else if s.tooOld m then s.discardHome barrier m
  else if m.gen != gen || !s.originOk barrier m then
    s.dropMsg (s.ownerOf barrier o) o m.origin.toNat m.gen gen
  else apply s

/-- A signal: the increment is added at its home, or refused and logged as the home's own, and the step of a sender of this
module does not commit (10 R193, R197, R203). The sender that the log entry names is not in the message: a free value. -/
def State.takeSignal (s : State) (m : SyncMsg) : State :=
  s.deliver 1 false m (fun s =>
    let (st, t) := s.addCount m.object.toNat m.value.toNat (s.freeBelow (2 ^ 32))
    let t := t.drawn
    if st ≠ stOk ∧ m.origin.toNat = s.moduleNo then t.stepFault m.ctx.toNat .fail st else t)

/-- A watch: it is kept, and released as soon as the count allows (10 R196, R202). -/
def State.takeWatch (s : State) (m : SyncMsg) : State :=
  s.deliver 2 (watchesBarrier m) m (fun s =>
    State.serveWatches { s with sync := { s.sync with watches := s.sync.watches ++
      [⟨watchesBarrier m, m.object.toNat, m.value.toNat, m.origin.toNat, m.ctx.toNat, m.tag.toNat, m.gen⟩] } })

/-- The waiter and identifier that a release matches: the context, tag, and an entry naming the object at its home with
the message's generation. -/
def State.releaseFor (s : State) (m : SyncMsg) : Option Nat :=
  let x := m.ctx.toNat
  let fits := fun id => let e := s.xl x id
    e.usable && e.remote && (e.kind == 1) == watchesBarrier m
      && decide (e.module = m.origin.toNat ∧ e.object = m.object.toNat) && e.gen == m.gen
  let tag := m.tag.toNat % barrierTag
  if tag = hostTag x then
    ((s.ctx x).openWaits.find? (fun d => d.opcode == 4 && fits d.ident)).map Cmd.ident
  else if tag < 2048 then
    let v := s.hiveSt (tag / 8)
    match v.queue (tag % 8) with
    | i :: _ =>
      match i.op with
      | .wait id _ => if i.held && fits id && (v.run.map (·.1)) == some x then some id else none
      | _ => none
    | [] => none
  else none

/-- The generation that a context's entries hold for a remote object; the message's own where none names it. -/
def State.entryGen (s : State) (m : SyncMsg) : BitVec 8 :=
  let x := m.ctx.toNat
  match (s.validIds x).find? (fun i => let e := s.xl x i
    e.remote && (e.kind == 1) == watchesBarrier m && decide (e.module = m.origin.toNat ∧ e.object = m.object.toNat)) with
  | some i => (s.xl x i).gen
  | none => m.gen

/-- A release: the watch's wait is met; a release that matches no held wait is dropped (10 R197, R202). -/
def State.takeRelease (s : State) (m : SyncMsg) : State :=
  if m.type.toNat ≠ 3 then s
  else if s.tooOld m then ((s.reportDiscard m s.moduleNo).countField (Off.synCtxSync m.ctx.toNat) 15 0 1).discardFault
    (some m.ctx.toNat)
  else
    match s.releaseFor m with
    | some id => { s with sync := { s.sync with released := s.sync.released ++ [(m.tag.toNat % barrierTag, id)] } }
    | none => s.dropMsg (some m.ctx.toNat) m.object.toNat m.origin.toNat m.gen (s.entryGen m)

/-- A barrier arrival: the child slot named in TAG arrives at its parent, if it is a participant (10 R205, R206). -/
def State.takeArrival (s : State) (m : SyncMsg) : State :=
  s.deliver 4 true m (fun s =>
    let n := m.object.toNat
    match s.partIndex n (.remote m.origin.toNat m.tag.toNat) with
    | some p => s.arriveAt n p
    | none => s.dropMsg (s.ownerOf true n) n m.origin.toNat m.gen (s.bar n).gen)

/-- A barrier release: the released count of a slot's parent, accepted with PARENT_GEN from the parent the slot names,
whatever its REMOTE_OK (10 R206). -/
def State.takeBarRelease (s : State) (m : SyncMsg) : State :=
  let n := m.object.toNat
  if m.type.toNat ≠ 5 then s
  else if s.tooOld m then s.discardHome true m
  else if s.acceptsRelease n m.origin.toNat m.tag.toNat m.gen true then
    let b := s.bar n
    (State.settle barDepth (s.setBar n { b with pw := max b.pw m.value.toNat }) n).serveWatches
  else s.dropMsg (s.ownerOf true n) n m.origin.toNat m.gen (BitVec.ofNat 8 (s.field (Off.synBarCfg n) 47 40))

/-- A message that this module sent to itself leaves the queue as it arrives. -/
def State.ownArrived (s : State) (m : SyncMsg) : State :=
  { s with sync := { s.sync with outbox := s.sync.outbox.filter (fun o => !(o.msg == m && o.dest == s.moduleNo)) } }

/-- The message is addressed to a counter or slot of a hive that moves (10 R200), or that the canal does not join to the sector
where it arrived (01 R7). -/
def State.msgWaits (s : State) (m : SyncMsg) (sector : Option Nat := none) : Bool :=
  let t := m.type.toNat
  decide (t = 1 ∨ t = 2 ∨ t = 4 ∨ t = 5)
    && s.homeAway (sector.getD (sectorOfObject (ofBarrier m) m.object.toNat)) (ofBarrier m) m.object.toNat

/-- A message arrives at this module, by a port of a sector: one for a moving hive is held (10 R200). -/
def State.takeMessage (s : State) (m : SyncMsg) (sector : Option Nat := none) : State :=
  if s.msgWaits m sector then s.hold (.message m sector)
  else match m.type.toNat with
  | 1 => s.takeSignal m
  | 2 => s.takeWatch m
  | 3 => s.takeRelease m
  | 4 => s.takeArrival m
  | 5 => s.takeBarRelease m
  | _ => s

/-- A message of one type arrives, as a row of the table names it. -/
def State.arrives (s : State) (type : Nat) (m : SyncMsg) : State :=
  if m.type.toNat = type then (s.ownArrived m).takeMessage m else s.ownArrived m

/-- SIGNAL_MESSAGE. -/
def execSignalMessage (m : SyncMsg) (s : State) : Out := .next (s.arrives 1 m)

/-- WATCH_MESSAGE. -/
def execWatchMessage (m : SyncMsg) (s : State) : Out := .next (s.arrives 2 m)

/-- RELEASE_MESSAGE. -/
def execReleaseMessage (m : SyncMsg) (s : State) : Out := .next (s.arrives 3 m)

/-- BARRIER_ARRIVAL_MESSAGE. -/
def execBarrierArrivalMessage (m : SyncMsg) (s : State) : Out := .next (s.arrives 4 m)

/-- BARRIER_RELEASE_MESSAGE. -/
def execBarrierReleaseMessage (m : SyncMsg) (s : State) : Out := .next (s.arrives 5 m)

/-- What becomes of the sender of a signal that was held: a refusal stops its run, or completes its command, with the status; a
barge's step fails (10 R193, R203). -/
def State.signalEnds (s : State) (x st : Nat) (sender : Sender) : State :=
  match sender with
  | .queue h _ pos => if st = stOk ∨ (s.hiveSt h).run.map (·.1) ≠ some x then s else s.failRun h pos st
  | .ring idx => s.complete x idx st 0
  | .barge _ => if st = stOk then s else s.stepFault x .fail stStepFailed

/-- What was held for a hive is delivered after its move, in its order (10 R193, R200). -/
def State.deliverHeld (s : State) : State :=
  let hs := s.sync.held
  hs.foldl (fun s h => match h with
    | .message m c => s.takeMessage m c
    | .signal x p inc sender =>
      if s.homeAway sender.sector false p then s.hold h
      else
        let (st, t) := s.addOrHold x p inc sender
        t.signalEnds x st sender
    | .arrival n c gen => if s.homeAway (sectorOfObject true c) true n then s.hold h else s.childArrival n c gen
    | .release c n gen w => if s.homeAway (sectorOfObject true n) true c then s.hold h else s.childRelease c n gen w)
    { s with sync := { s.sync with held := [] } }

/-- An outgoing message that is too old is discarded: counted as stray at its port, reported to both modules, and the sender's
step stopped. -/
def State.ageOutgoing (s : State) (i : Nat) : State :=
  match s.sync.outbox[i]? with
  | none => s
  | some o =>
    if !s.tooOld o.msg then s
    else
      let s := { s with sync := { s.sync with outbox := s.sync.outbox.eraseIdx i } }
      let s := match s.routeOf o.dest with
        | some p => s.stray p 1
        | none => s
      s.dropMessages o.dest [o.msg]

/-- The flit of a port without the messages that are too old. -/
def State.youngFlit (s : State) (p : Nat) (f : Bool × List Byte) : Bool × List Byte :=
  if f.1 && (msgsIn f.2).any s.tooOld then (true, padTo (flitBytes p) (msgsBytes ((msgsIn f.2).filter (fun m => !s.tooOld m))))
  else f

/-- A barge of a port without them. -/
def State.youngBarge (s : State) (p : Nat) (b : BargeSt) : BargeSt :=
  { b with line := b.line.map (fun l => { l with flit := l.flit.map (s.youngFlit p) })
           ready := b.ready.map (fun r => (r.1, s.youngFlit p r.2)) }

/-- The packets of a port without them; a SYNC packet that carried no other is gone. -/
def State.youngPacket (s : State) (k : Packet) : Option Packet :=
  if !(packetMsgs k).any s.tooOld then some k
  else match (packetMsgs k).filter (fun m => !s.tooOld m) with
    | [] => none
    | ms => some (withMsgs k ms)

/-- A LATE packet that carries messages, without those that are too old. -/
def State.youngLate (s : State) (t : PortSt) (k : Packet) : Packet :=
  if (t.lateMsgs k).2.any s.tooOld then
    { k with payload := padTo k.payload.length (msgsBytes ((t.lateMsgs k).2.filter (fun m => !s.tooOld m))) }
  else k

/-- The bytes of a packet under way without them: their places read unused, behind the packet's 16 header bytes. -/
def State.youngBytes (s : State) (msgs : Bool) (bs : List Byte) : List Byte :=
  if !msgs then bs
  else (bs.take 16) ++ ((pieces 16 bs.length (bs.drop 16)).map (fun b =>
    if b.length = 16 ∧ (msgOf b).type ≠ 0 ∧ s.tooOld (msgOf b) then List.replicate 16 0 else b)).flatten

/-- A port without the messages that are too old, in packets and in flits of its barges. -/
def State.youngPort (s : State) (p : Nat) (t : PortSt) : PortSt :=
  let holds := fun (k : Option Packet) => k.any (fun k => !(t.queued k).2.isEmpty)
  let out := s.youngBytes (holds t.outPkt) (t.outSent ++ t.outRest)
  { t with
    queue := t.queue.filterMap (fun k => if k.cls = 0 then some (s.youngLate t k) else s.youngPacket k)
    barges := t.barges.map (fun b => (b.1, s.youngBarge p b.2))
    outSent := out.take t.outSent.length, outRest := out.drop t.outSent.length
    inPart := s.youngBytes (holds t.inPkt) t.inPart }

/-- Messages that a port holds and that are too old are discarded. -/
def State.agePort (s : State) (p : Nat) : State :=
  let t := s.port p
  let inPackets := t.packets.map (fun k => ((t.queued k).1, (t.queued k).2.filter s.tooOld))
  let inBarges := t.barges.map (fun b => (((t.desc b.1).map (·.dest)).getD s.moduleNo, b.2.heldMsgs.filter s.tooOld))
  let old := (inPackets ++ inBarges).filter (fun e => !e.2.isEmpty)
  if old.isEmpty then s
  else
    old.foldl (fun u e => (u.stray p e.2.length).dropMessages e.1 e.2) (s.modPort p (s.youngPort p))

/-- Messages held for moving hives that are too old are discarded at their home. -/
def State.ageHeld (s : State) : State :=
  let old := fun (h : HeldMsg) => match h with
    | .message m _ => s.tooOld m
    | _ => false
  (s.sync.held.filter old).foldl (fun s h => match h with
    | .message m _ => s.discardHome (ofBarrier m) m
    | _ => s) { s with sync := { s.sync with held := s.sync.held.filter (fun h => !old h) } }

/-- MESSAGE_AGE_CHECK: once in a lock cycle every unit that holds messages discards those of 38 lock cycles and more
(10 R199). -/
def execMessageAgeCheck (u : AgeUnit) (s : State) : Out :=
  match u with
  | .outgoing i => .next (s.ageOutgoing i)
  | .port p => .next (s.agePort p.toNat)
  | .home => .next s.ageHeld

/-! ### Set-up -/

/-- REBIND: a write of an entry with REBIND set (10 R196, R198). -/
def execRebind (f : Func) (x : Ctx) (i : Fin 4096) (v : Word) (s : State) : Out :=
  if !s.barOpen then .next s
  else
    .next (s.writeXlate f.val x.val i.val (setBits v.toNat 58 58 1))

/-- REBIND_EFFECT: a rebind that waited out its 1 ms takes effect (10 R198). -/
def execRebindEffect (x : Ctx) (i : Fin 4096) (s : State) : Out :=
  match s.sync.rebinds.find? (fun r => r.x == x.val && r.id == i.val && s.rebindDue r.barrier r.object) with
  | none => .next s
  | some r =>
    let t := (s.setFlag (Off.synXlate x.val i.val) 59 false).rebindNow x.val r.barrier r.object
    .next { t with sync := { t.sync with rebinds := t.sync.rebinds.erase r } }

/-- XLATE_WRITE: a write of an entry without REBIND (10 R196). -/
def execXlateWrite (f : Func) (x : Ctx) (i : Fin 4096) (v : Word) (s : State) : Out :=
  if !s.barOpen then .next s
  else
    .next (s.writeXlate f.val x.val i.val (setBits v.toNat 58 58 0))

/-- BAR_CFG_WRITE: a write of SYN.BAR_CFG[n], or of SYN.BAR_PART[n][j] (10 R204, R206). -/
def execBarCfgWrite (f : Func) (n : Fin 4368) (j : Option (Fin 64)) (v : Word) (s : State) : Out :=
  if !s.barOpen then .next s
  else
    match j with
    | none => .next (s.writeBarCfg f.val n.val v.toNat)
    | some j => .next (s.writeBarPart f.val n.val j.val (v.toNat % 2 ^ 32))

end Sys2Proof.Machine
end

