-- ==== Sys2Proof/Machine/Links.lean ====
section
/-! DEFINITION. Lock tables: loading, arming, switching and retiring them (11 R220-R222, R229, R230; 13 R283). -/

namespace Sys2Proof.Machine

/-! ### Images (R220-R222) -/

/-- A barge descriptor of an image, as a number of 32 bytes. -/
def bargeOf (v : Nat) : Barge :=
  { kind := bits v 3 0, msg := v.testBit 4, cont := v.testBit 5, ctx := bits v 13 8, dest := bits v 29 16,
    counter := bits v 47 32, localCtr := bits v 63 48, addr := bits v 111 64, loc := bits v 159 112,
    length := bits v 191 160, fwdPort := bits v 198 192, fwdBarge := bits v 219 208 }

/-- A kind that transmits. -/
def Barge.sends (b : Barge) : Bool := b.kind == 1 || b.kind == 4 || b.kind == 6

/-- A kind with a window: SEND, RECEIVE, REDUCE. -/
def Barge.windowed (b : Barge) : Bool := b.kind == 1 || b.kind == 2 || b.kind == 5

/-- The windows of a barge. -/
def Barge.windows (b : Barge) : List (Nat × Nat) :=
  (if b.windowed then [(b.addr, b.length)] else []) ++ (if b.kind = 5 then [(b.loc, b.length)] else [])

/-- A descriptor has no non-zero reserved field, reserved encoding or value out of range (Tables 11-5, 11-6). -/
def bargeOk (target v : Nat) : Bool :=
  let b := bargeOf v
  let u := flitBytes target
  decide (1 ≤ b.kind ∧ b.kind ≤ 7) && bits v 7 6 == 0 && bits v 15 14 == 0 && bits v 31 30 == 0 && bits v 207 199 == 0
    && bits v 223 220 == 0 && bits v 255 224 == 0 && (!b.msg || b.kind == 1) && (b.kind == 5 || b.localCtr == 0)
    && (b.windowed || b.addr == 0) && (b.kind == 5 || b.loc == 0)
    && (!b.windowed || (decide (u ≤ b.length) && b.length % u == 0))

/-- A FORWARD_IN leads to a port of the same memory-and-link die. -/
def fwdOk (target v : Nat) : Bool :=
  let b := bargeOf v
  b.kind != 3 || (portExists b.fwdPort && sectorOf b.fwdPort == sectorOf target)

/-- The result of a failing check: status and the lock and barge indexes that RESULT shows (13 Table 13-4). -/
abbrev TableFail := Nat × Nat

/-- RESULT of a failing check. -/
def failAt (lock barge : Nat) : Nat := lock * 65536 + barge

/-- Neither index applies. -/
def failNone : Nat := failAt 0xFFFF 0xFFFF

/-- The first failing check of a slot's field. -/
def slotCheck (barges : List Barge) (lock : Nat) (tx : Bool) (v : Nat) : Option TableFail :=
  let i := v % 4096
  if bits v 14 12 ≠ 0 then some (stBadDescriptor, failAt lock 0xFFFF)
  else if !v.testBit 15 then none
  else
    match barges[i]? with
    | none => some (stBadDescriptor, failAt lock i)
    | some b => if b.sends == tx then none else some (stBadDescriptor, failAt lock i)

/-- The image of a lock table in a context's memory. -/
structure TableImage where
  target : Nat
  tag : Nat
  descs : List Nat
  /-- Transmit and receive fields, 40 per lock. -/
  fields : List (Nat × Nat)
deriving DecidableEq, Repr

/-- The image at an address. -/
def State.tableImage (s : State) (x a : Nat) : TableImage :=
  { target := s.loadNat x (a + 8) 1, tag := s.loadNat x (a + 12) 1
    descs := (List.range (s.loadNat x (a + 10) 2)).map (fun i => s.loadNat x (a + 163904 + 32 * i) 32)
    fields := (List.range 40960).map (fun k => (s.loadNat x (a + 64 + 4 * k) 2, s.loadNat x (a + 66 + 4 * k) 2)) }

/-- The checks of the header, before the rest of the image is read. -/
def State.headerCheck (s : State) (x a : Nat) : Option TableFail :=
  let n := s.loadNat x (a + 10) 2
  if s.loadNat x a 4 ≠ 0x4C4B5442 then some (stBadDescriptor, failNone)
  else if s.loadNat x (a + 4) 2 ≠ 1 then some (stVersionMismatch, failNone)
  else if s.loadNat x (a + 9) 1 ≠ 0 ∨ s.loadNat x (a + 13) 51 ≠ 0 ∨ n = 0 ∨ 4096 < n ∨ !portExists (s.loadNat x (a + 8) 1) then
    some (stBadDescriptor, failNone)
  else if !s.mayAccess x a (163904 + 32 * n) then some (stBadAddress, failNone)
  else none

/-- The checks of locks and barges, in that order; then the windows. -/
def State.imageCheck (s : State) (m : TableImage) : Option TableFail :=
  let bs := m.descs.map bargeOf
  let barge := fun (ok : Nat → Bool) (st : Nat) => (List.range m.descs.length).findSome? (fun i =>
    if ok (m.descs.getD i 0) then none else some (st, failAt 0xFFFF i))
  let slots := (List.range m.fields.length).findSome? (fun k =>
    let f := m.fields.getD k (0, 0)
    (slotCheck bs (k / 40) true f.1).orElse (fun _ => slotCheck bs (k / 40) false f.2))
  let window := fun (v : Nat) => let b := bargeOf v
    b.windows.all (fun w => !isHostAddr w.1 && s.mayAccess b.ctx w.1 w.2)
  (barge (fun v => bargeOk m.target v) stBadDescriptor).orElse (fun _ =>
    slots.orElse (fun _ =>
      (barge (fun v => fwdOk m.target v) stBadDescriptor).orElse (fun _ => barge window stBadAddress)))

/-- The table that an image describes. -/
def TableImage.table (m : TableImage) : LockTable :=
  let side := fun (f : Nat × Nat → Nat) => (List.range m.fields.length).filterMap (fun k =>
    let v := f (m.fields.getD k (0, 0))
    if v.testBit 15 then some (k, some (v % 4096)) else none)
  { tag := m.tag, loaded := true, barges := m.descs.map bargeOf, tx := side (·.1), rx := side (·.2) }

/-- A table assigns no slot. -/
def LockTable.free (l : LockTable) : Bool := l.tx.isEmpty && l.rx.isEmpty

/-! ### Switches (R229, R230) -/

/-- A switch is armed, and its lock cycle. -/
def State.switchPending (s : State) : Bool := s.flag Off.lnkTableSelect 30
def State.switchAt (s : State) : Nat := s.field Off.lnkTableAt 45 0

/-- A port is among those that switch. -/
def State.inMask (s : State) (p : Nat) : Bool :=
  if isCanal p then s.flag Off.lnkTableSelect 28 else s.flag Off.lnkTableSelect p

/-- A switch at lock cycle `at` is at least 4 lock cycles ahead (R230). -/
def State.armInTime (s : State) (lc : Nat) : Bool := decide (s.clk.frame + 4096 ≤ 1024 * lc)

/-- Barges on a port from a lock cycle on would meet a link self-test (R238). -/
def State.meetsTest (s : State) (p lc : Nat) : Bool := s.lnk.tests.any (fun t => t.port == p && decide (lc ≤ t.last))

/-- The LATE packets waiting at a port that fill slots of the table before the one in force (R230). -/
def PortSt.oldLate (t : PortSt) : List Packet :=
  t.queue.filter (fun k => k.cls == 0
    && decide (0 < (t.since + 2 ^ 39 - bits k.fields.toNat 63 25) % 2 ^ 39 ∧ (t.since + 2 ^ 39 - bits k.fields.toNat 63 25) % 2 ^ 39 < 2 ^ 38))

/-- What is left to deliver or to send of a buffer's barges that the other does not continue. -/
def PortSt.leftovers (t : PortSt) (buf : Nat) : List (Nat × BargeSt) :=
  t.barges.filter (fun b => b.1 / 4096 == buf && !(b.2.line.isEmpty && b.2.ready.isEmpty && b.2.owes.isEmpty))

/-- The inactive buffer cannot be written: armed, or still serving late flits (R222, R230). -/
def State.bufferBusy (s : State) (p : Nat) : Bool :=
  (s.switchPending && s.inMask p) || (s.port p).oldSince.isSome

/-- A loaded table stands in the inactive buffer, its barges at the start. -/
def State.putTable (s : State) (p : Nat) (l : LockTable) : State :=
  s.modPort p (fun t =>
    let buf := 1 - t.active
    { t.setTable buf l with barges := t.barges.filter (fun b => b.1 / 4096 != buf) })

/-- A ring command arms a port's switch (13 R283): the status, and the state. A refused ARM sets LATE (R230). -/
def State.armPort (s : State) (p lc : Nat) : Nat × State :=
  if (s.switchPending && decide (s.switchAt ≠ lc)) || !s.armInTime lc
      || (s.meetsTest p lc && !((s.port p).table (1 - (s.port p).active)).free) then
    (stBusy, s.setFlag Off.lnkTableSelect 29 true)
  else
    let s := (s.setReg Off.lnkTableAt lc).setFlag Off.lnkTableSelect 30 true
    (stOk, s.setFlag Off.lnkTableSelect (if isCanal p then 28 else p) true)

/-- LOAD_LOCK_TABLE: the image is checked whole, written to the inactive buffer, and its switch armed (R222, 13 R283). -/
def execLoadLockTable (x : Ctx) (s : State) : Out :=
  match s.startableOp x.val 0x11 with
  | none => .next s
  | some d =>
    let a := d.addr 64
    let done := fun (s : State) (st r : Nat) => Host.Outcome.next (s.complete x.val d.idx st r)
    if (isHostAddr a && !s.hostReady x.val a) || !s.reachesAll 0 [a] then .next s
    else
      match s.headerCheck x.val a with
      | some (st, r) => done s st r
      | none =>
        let m := s.tableImage x.val a
        let s := s.chargeAll [(a, 163904 + 32 * m.descs.length)]
        match s.imageCheck m with
        | some (st, r) => done s st r
        | none =>
          if s.bufferBusy m.target then done s stBusy failNone
          else
            let t := s.putTable m.target m.table
            if !d.arm then done t stOk 0
            else
              let (st, u) := t.armPort m.target d.armAt
              done u st (if st = stOk then 0 else failNone)

/-- A port takes its other buffer from a frame on: continued barges keep their state, others start again (R229). -/
def PortSt.switched (t : PortSt) (first now : Nat) : PortSt :=
  let new := 1 - t.active
  let kept := (t.barges.filter (fun b => b.1 / 4096 == t.active && t.continues new (b.1 % 4096))).map
    (fun b => (4096 * new + b.1 % 4096, b.2))
  let old := t.barges.filter (fun b => b.1 / 4096 == t.active && !t.continues new (b.1 % 4096))
  { t with active := new, since := first, oldSince := some now
           barges := (old ++ kept).foldl (fun m b => sput {} m b.1 b.2) [] }

/-- The switch of one port, with the messages that waited for its barges (R229). -/
def State.switchPort (s : State) (first p : Nat) : State :=
  let t := (s.port p).switched first s.clk.now
  let moved := fun (o : OutMsg) => match o.via with
    | some (q, i, _) => decide (q = p) && !t.continues t.active i
    | none => false
  let s := s.modPort p (fun _ => t)
  { s with sync := { s.sync with outbox := s.sync.outbox.map (fun o => if moved o then { o with via := none } else o) } }

/-- A port has a loaded table in either buffer, or has run. -/
def State.switchPorts (s : State) : List Nat :=
  portCodes.filter (fun p => s.inMask p && portExists p)

/-- TABLE_SWITCH: from the first frame of lock cycle AT the armed ports, and the canal, use their other buffers (R229). -/
def State.tableSwitch (s : State) : State :=
  if s.switchPending && s.clk.lock && decide (1024 * s.switchAt ≤ s.clk.frame) then
    (s.switchPorts.foldl (fun s p => s.switchPort (1024 * s.switchAt) p) s).setFlag Off.lnkTableSelect 30 false
  else s

/-- TABLE_SWITCH. -/
def execTableSwitch (s : State) : Out := .next s.tableSwitch

/-- What a write of LNK.TABLE_SELECT does: ARM arms the switch, or is refused with LATE, as it is while a switch is
still armed (R229, R230, R238; 18 R367). -/
def State.writeTableSelect (s : State) (f : Nat) (v : Word) : State :=
  let off := Off.lnkTableSelect
  if !s.mayWrite f .pf 0 0 then (s.ignored f off v.toNat)
  else
    let s := s.putReg f off 0x1000FFFF 0x20000000 (v.toNat % 2 ^ 32)
    if !v.toNat.testBit 31 then s
    else
      let clash := s.switchPorts.any (fun p =>
        s.meetsTest p s.switchAt && !((s.port p).table (1 - (s.port p).active)).free)
      (if s.armInTime s.switchAt && !clash && !s.switchPending then s.setFlag off 30 true else s.setFlag off 29 true)

/-- TABLE_SELECT_ARM. -/
def execTableSelectArm (f : Func) (v : Word) (s : State) : Out :=
  .next (if s.barOpen then s.writeTableSelect f.val v else s)

/-! ### What a port discards (R199, R230) -/

/-- Flits of a barge held here. -/
def BargeSt.held (b : BargeSt) : Nat := (b.line.filter (fun l => l.flit.isSome)).length + b.ready.length

/-- Barges of a port are discarded with what they hold: counted, their messages reported, and the steps of their contexts
fail. -/
def State.dropBarges (s : State) (p : Nat) (bs : List (Nat × BargeSt)) : State :=
  let t := s.port p
  let s := s.stray p ((bs.map (fun b => b.2.held)).sum)
  let s := bs.foldl (fun s b =>
    match t.desc b.1 with
    | some d => (s.dropMessages d.dest b.2.heldMsgs).discardFault (some d.ctx)
    | none => s) s
  s.modPort p (fun t => { t with barges := t.barges.filter (fun b => !bs.any (fun d => d.1 == b.1)) })

/-- LATE packets waiting at a port are discarded with what they carry: counted, their messages reported, and the steps of their
barges' contexts fail (R199, R230). -/
def State.dropPackets (s : State) (p buf : Nat) (ks : List Packet) : State :=
  let t := s.port p
  let s := ks.foldl (fun s k =>
    (s.dropMessages (t.queued k).1 (t.queued k).2).discardFault
      (((t.table buf).barges[bits k.fields.toNat 18 7]?).map (·.ctx))) (s.stray p ks.length)
  s.modPort p (fun t => { t with queue := t.queue.filter (fun k => !ks.contains k) })

/-- OLD_TABLE_RETIRE: with nothing late or owed left, or after 1 ms, the old buffer is free; what is left is discarded
(R230). -/
def execOldTableRetire (p : PortCode) (s : State) : Out :=
  let t := s.port p.toNat
  match t.oldSince with
  | none => .next s
  | some since =>
    let left := t.leftovers (1 - t.active)
    whenReady ((left.isEmpty && t.oldLate.isEmpty) || decide (since + 1000000000 ≤ s.clk.now)) s
      (((s.dropPackets p.toNat (1 - t.active) t.oldLate).dropBarges p.toNat left).modPort p.toNat (fun t =>
        { t.setTable (1 - t.active) { t.table (1 - t.active) with loaded := false } with oldSince := none }))

end Sys2Proof.Machine
end

