-- ==== Sys2Proof/Machine/Messages.lean ====
section
/-! DEFINITION. Firmware messages and mailboxes: format, checks, acknowledgement (14 R301-R308), and the state of the module
that they ask about. -/

namespace Sys2Proof.Machine

/-! ### The module's condition -/

/-- BOOT_STEP, and recovery (14 R292, R294). -/
def State.bootStep (s : State) : Nat := s.field Off.hifModuleStat 3 0
def State.recovery (s : State) : Bool := s.flag Off.fwlFwStat 60

/-- The state with BOOT_STEP set. -/
def State.setBoot (s : State) (n : Nat) : State := s.setField Off.hifModuleStat 3 0 n

/-- The main domain is up: the rails are, and the cores it holds run (14 R288; DEDUCED). -/
def State.mainUp (s : State) : Bool := s.pwr.rails && decide (5 ≤ s.bootStep)

/-- The towpath answers: from step 3 of boot (14 Table 14-4). -/
def State.towpathUp (s : State) : Bool := decide (3 ≤ s.bootStep) || s.recovery

/-- The lowest state is in force (15 R326), and the hardware thermal limits (16 R344). -/
def State.lowest (s : State) : Bool := s.flag Off.pwrLimitStat 29
def State.hot (s : State) : Bool := s.flag Off.thmStat 0
def State.halted (s : State) : Bool := s.flag Off.thmStat 1
def State.flowStopped (s : State) : Bool := s.flag Off.thmStat 2

/-- TJ_TARGET, clamped to 80 to 100 degC (16, THM.TJ_CFG). -/
def State.tjTarget (s : State) : Nat := max 80 (min 100 (s.field Off.thmTjCfg 7 0))

/-- A power or thermal emergency (14 R299): an HV_IN that is absent lies outside 360 to 420 V too (log 26). -/
def State.emergency (s : State) : Bool :=
  s.pwr.alert.isSome || s.lowest || s.hot || s.halted || s.flowStopped || s.pwr.hvOut || !s.pwr.hv

/-- F is at least a number of hundredths of NOMINAL (16 R342). -/
def State.nominal (s : State) : Nat := max 60 (min 100 (s.field Off.thmFlowCfg 23 16))
def State.flowAtLeast (s : State) (hundredths : Nat) : Bool :=
  decide (hundredths * s.nominal * s.thm.flow.2 ≤ 1000 * s.thm.flow.1)

/-- THERMTRIP_N is low (16 R347). -/
def State.tripped (s : State) : Bool := s.thm.trip.isSome || s.thm.trayTrip

/-- The causes of an emergency (14 R299), and of a wait of boot step 4 (14 R293, 19 R383): CONV_ALERT_N, the lowest state, THM.STAT.HOT and
HALT, the flow-stop sequence, HV_IN, THERMTRIP_N, and less than half of the nominal flow, from bit 0 up (log 47). -/
def State.causeBits (s : State) : Nat :=
  ([s.pwr.alert.isSome, s.lowest, s.hot, s.halted, s.flowStopped, s.pwr.hvOut || !s.pwr.hv, s.tripped, !s.flowAtLeast 50].zipIdx.map
    (fun e => b2n e.1 * 2 ^ e.2)).sum

/-- FWL.FW_STAT.EMERGENCY and its copy follow; the second out of emergency starts when one ends. -/
def State.showEmergency (s : State) : State :=
  let e := s.emergency
  let s := if e then s else if s.flag Off.fwlFwStat 61 then { s with fw := { s.fw with calmSince := s.clk.now } } else s
  (s.setFlag Off.fwlFwStat 61 e).setFlag Off.hifModuleStat 14 e

/-! ### Mailboxes (14 Table 14-8) -/

/-- A firmware core's number. -/
def coreNo : Core → Nat
  | .security => 0
  | .power => 1
  | .scheduler => 2
  | .hiveControl => 3

/-- The key of a mailbox. -/
def boxKey : MailboxId → Nat
  | .hostIn x => x.val
  | .hostOut x => 64 + x.val
  | .toHive p => 128 + p.val
  | .fromHive p => 448 + p.val
  | .cores a b => 768 + 4 * coreNo a + coreNo b
  | .towpath c => 784 + coreNo c

/-- A mailbox, and the state with one changed. -/
def State.box (s : State) (k : Nat) : Mailbox := sget {} s.mail.boxes k
def State.modBox (s : State) (k : Nat) (f : Mailbox → Mailbox) : State :=
  { s with mail := { s.mail with boxes := smod {} s.mail.boxes k f } }

/-- A message is put in an empty mailbox. -/
def State.putBox (s : State) (k : Nat) (src : MsgSrc) (m : Msg) : State :=
  s.modBox k (fun b => { b with msg := some m, full := true, src := some src, result := none, arrivedLc := s.lcNow, armOnAck := false })

/-- The message that 64 bytes of a slot spell (Table 14-9). -/
def msgOfBytes (bs : List Byte) : Msg :=
  let v := leNat (bs.take 8)
  let len := bits v 63 48
  { major := BitVec.ofNat 8 v, minor := BitVec.ofNat 8 (v / 256), type := BitVec.ofNat 15 (bits v 30 16)
    reply := v.testBit 31, seq := BitVec.ofNat 16 (bits v 47 32), len := BitVec.ofNat 16 len
    payload := (bs.drop 8).take len }

/-- A mailbox message is for a core: the receiver of a mailbox. -/
def boxReceiver (k : Nat) : Option Core :=
  if k < 64 then some .scheduler
  else if 128 ≤ k ∧ k < 448 then some .hiveControl
  else if 448 ≤ k ∧ k < 768 then some .scheduler
  else if 768 ≤ k ∧ k < 788 then
    match k % 4 with
    | 0 => some .security
    | 1 => some .power
    | 2 => some .scheduler
    | _ => some .hiveControl
  else none

end Sys2Proof.Machine

namespace Sys2Proof

open Sys2Proof.Machine

/-- The 64 bytes of a slot that spell a message (Table 14-9). -/
def Msg.slotBytes (m : Msg) : List Byte :=
  (natLe (m.major.toNat + 256 * m.minor.toNat) 2 ++ natLe (m.type.toNat + 0x8000 * b2n m.reply) 2 ++ natLe m.seq.toNat 2
    ++ natLe m.len.toNat 2 ++ m.payload ++ List.replicate (56 - m.payload.length) 0).take 64

/-! ### Checks (14 R306, Table 14-10) -/

/-- A row of the catalogue: accepted from the fleet manager, from a host; allowed under MAJOR 2; served on AUX only. -/
structure MsgRow where
  type : Nat
  fleet : Bool
  host : Bool
  major2 : Bool
  aux : Bool
  owner : Core
deriving DecidableEq, Repr

/-- Table 14-10. The owner of a type is the core whose duties of Table 14-1 it falls under (DEDUCED). -/
def msgRows : List MsgRow := [
  ⟨0x0001, true, true, true, true, .security⟩, ⟨0x0002, true, true, true, true, .security⟩,
  ⟨0x0003, true, false, true, true, .security⟩, ⟨0x0010, true, false, false, false, .power⟩,
  ⟨0x0011, true, false, false, false, .power⟩, ⟨0x0020, true, false, false, false, .scheduler⟩,
  ⟨0x0021, true, false, false, false, .scheduler⟩, ⟨0x0022, false, false, false, true, .scheduler⟩,
  ⟨0x0023, false, false, false, true, .scheduler⟩, ⟨0x0024, false, false, false, true, .scheduler⟩,
  ⟨0x0025, false, false, false, true, .scheduler⟩, ⟨0x0030, true, true, false, true, .security⟩,
  ⟨0x0040, false, false, true, true, .scheduler⟩, ⟨0x0050, true, false, false, false, .security⟩,
  ⟨0x0051, false, false, false, true, .scheduler⟩]

/-- The catalogue's row of a message. -/
def Msg.row (m : Msg) : Option MsgRow := msgRows.find? (fun r => r.type == m.type.toNat)

/-- `n` payload bytes from an offset, as a number; bytes beyond LEN read zero. -/
def Msg.get (m : Msg) (o n : Nat) : Nat := leNat ((List.range n).map (fun i => (m.payload.take m.len.toNat).getD (o + i) 0))

/-- Payload bytes that a type's defined fields take, of those that must be there. -/
def msgNeeds (type : Nat) : Nat :=
  if type = 0x0003 then 2 else if type = 0x0010 then 12 else if type = 0x0011 then 8 else if type = 0x0020 then 18
  else if type = 0x0021 then 16 else if type = 0x0030 then 32 else if type = 0x0050 then 2 else 0

/-- The first payload byte at or after an offset, below a bound, that is not zero. -/
def Msg.firstSet (m : Msg) (lo hi : Nat) : Option Nat := (List.range (hi - lo)).findSome? (fun i =>
  if m.get (lo + i) 1 ≠ 0 then some (lo + i) else none)

/-- The payload offset of the first field that is reserved and not zero, or holds a reserved encoding (R3, Table 14-11). -/
def Msg.faulty (m : Msg) (src : MsgSrc) : Option Nat :=
  match m.type.toNat with
  | 0x0010 => m.firstSet 12 m.len.toNat
  | 0x0021 => if m.get 8 1 = 0 ∨ 3 < m.get 8 1 then some 8 else m.firstSet 9 10
  | 0x0030 => match src with
    | .host _ => if m.get 32 6 % 64 ≠ 0 then some 32 else none
    | _ => m.firstSet 32 38
  | 0x0050 => if 1 < m.get 0 1 then some 0 else if 15 < m.get 1 1 then some 1 else none
  | _ => none

/-- The most payload bytes of a transport. -/
def msgLimit : MsgSrc → Nat
  | .host _ => 56
  | _ => 1016

/-- A return code from a status and DETAIL (R301). -/
def retCode (status detail : Nat) : BitVec 16 := BitVec.ofNat 16 (status + 256 * detail)

/-- A row of the catalogue is accepted from a source. -/
def MsgRow.fromOk (r : MsgRow) : MsgSrc → Bool
  | .fleet _ => r.fleet
  | .host _ => r.host
  | .peer _ => false

/-- The first check of R306 that a message fails. -/
def Msg.check (m : Msg) (src : MsgSrc) : Option (BitVec 16) :=
  let two := m.major.toNat == 2
  if (m.major.toNat ≠ 2 ∧ m.major.toNat ≠ 3) ∨ (two ∧ (0x0100 ≤ m.type.toNat ∨ m.row.any (fun r => !r.major2))) then
    some (retCode stVersionMismatch 0)
  else
    match m.row with
    | none => some (retCode stBadDescriptor 2)
    | some r =>
      if msgLimit src < m.len.toNat ∨ (m.len.toNat < msgNeeds r.type ∧ r.fromOk src) then some (retCode stBadDescriptor 6)
      else
        match m.faulty src with
        | some o => some (retCode stBadDescriptor (8 + o))
        | none => if r.fromOk src then none else some (retCode stBadContext 0)

/-! ### Acknowledgement (14 R301, R303, R307) -/

/-- Where a source's message stands until it is acknowledged: a host's in its own mailbox, another's in the mailbox of the
owning core. -/
def Msg.boxOf (m : Msg) : MsgSrc → Nat
  | .host x => boxKey (.hostIn x)
  | _ => boxKey (.towpath ((m.row.map (·.owner)).getD .scheduler))

/-- A reply to a host stands in its outbound mailbox, under the request's MAJOR, MINOR and SEQ (R306). -/
def Msg.replyOf (m : Msg) (payload : List Byte) : Msg :=
  { m with reply := true, len := BitVec.ofNat 16 payload.length, payload := payload }

end Sys2Proof

namespace Sys2Proof.Machine

/-- An acknowledgement is of this source and of the receiver that owns the message. -/
def LastAck.isFor (a : LastAck) (src : MsgSrc) (m : Msg) : Bool :=
  decide (a.src = src ∧ a.msg.boxOf src = m.boxOf src)

/-- What the receiver of a message last acknowledged from its source. -/
def State.lastAck (s : State) (src : MsgSrc) (m : Msg) : Option LastAck := s.mail.last.find? (fun a => a.isFor src m)

/-- The acknowledgement is kept for repeats of the message (R307). -/
def State.keepAck (s : State) (a : LastAck) : State :=
  { s with mail := { s.mail with last := a :: s.mail.last.filter (fun b => !b.isFor a.src a.msg) } }

/-- A budget is armed for a lock cycle, and a clock setting with its mode (15 R337, R338). -/
def State.armBudget (s : State) (t rate lc : Nat) : State :=
  let s : State := { s with pwr := { s.pwr with armed := some (t, rate) } }
  ((s.setReg Off.pwrBudgetAt (lc % 2 ^ 46 + 2 ^ 63)).setField Off.pwrBudget 31 16 t).setField Off.pwrBudget 15 0 rate
def State.armFreq (s : State) (setting mode lc : Nat) : State :=
  s.setReg Off.pwrFreqAt (lc % 2 ^ 46 + setting * 2 ^ 56 + mode * 2 ^ 62 + 2 ^ 63)

/-- A change that waited for its acknowledgement is armed for the next lock cycle (15 R339). -/
def State.armAcked (s : State) (k : Nat) (m : Msg) : State :=
  if !(s.box k).armOnAck then s
  else if m.type = 0x10 then s.armBudget (m.get 0 4) (m.get 4 2) (s.lcNow + 1)
  else s.armFreq (m.get 0 1) (m.get 1 1) (s.lcNow + 1)

/-- The receiver writes the acknowledgement of a mailbox: the code stands in the acknowledge register and FULL is clear; to a
host, vector 0 fires and a reply stands in its outbound mailbox; to the fleet manager or a module it is sent. -/
def State.acknowledge (s : State) (k : Nat) (src : MsgSrc) (m : Msg) (code : BitVec 16) (reply : List Byte) : State :=
  let s := ((s.armAcked k m).keepAck ⟨src, m, code, reply⟩).modBox k (fun b =>
    { b with full := false, result := none, ack := some code, valid := true, armOnAck := false })
  let s := s.send (.ack src code reply)
  match src with
  | .host x =>
    let s := s.irq (s.funcOf x.val) 0
    if reply.isEmpty then s else s.modBox (64 + x.val) (fun b => { b with msg := some (m.replyOf reply), full := true })
  | _ => s

/-- A mailbox's receiver decides on the message in it, and the acknowledgement waits to be written. -/
def State.decided (s : State) (k : Nat) (code : BitVec 16) (reply : List Byte) : State :=
  s.modBox k (fun b => { b with result := some (code, reply) })

/-- What acting on a message gives: the state, the code and the reply. -/
structure Acted where
  s : State
  code : BitVec 16 := 0
  reply : List Byte := []
deriving DecidableEq, Repr

/-- A message is refused with a status. -/
def State.refuseMsg (s : State) (status detail : Nat) : Acted := { s := s, code := retCode status detail }

/-- What stands before acting: recovery answers IDENTIFY alone (R294); the checks of R306; a repeat gets its code again
(R307); with the main domain down only some types are served (R288). `none`: act on it. -/
def State.beforeActing (s : State) (src : MsgSrc) (m : Msg) : Option Acted :=
  match m.check src with
  | some c => some { s := s, code := c }
  | none =>
    match s.lastAck src m with
    | some a =>
      if a.msg = m then some { s := s, code := a.code, reply := a.reply }
      else if !s.mainUp && m.row.any (fun r => !r.aux) then some (s.refuseMsg stBusy 1) else none
    | none => if !s.mainUp && m.row.any (fun r => !r.aux) then some (s.refuseMsg stBusy 1) else none

/-- What a receiver answers to a message: what stands before acting, nothing to a reply, else what acting gives. -/
def State.answerTo (s : State) (src : MsgSrc) (m : Msg) (act : State → Acted) : Acted :=
  (s.beforeActing src m).getD (if m.reply then { s := s } else act s)

/-- The core that owns a message runs. -/
def State.ownerCoreRuns (s : State) (m : Msg) : Bool := m.row.all (fun r => !s.fw.restarting.contains r.owner)

/-- A message of one type arrives: a host's stands in its mailbox, another's is put in the owning core's if that is empty; the
core acts on it, or it is held while the core restarts (R302, R305, 15 R339). A type that the catalogue reserves is
acknowledged as such, whichever row brings it (00 R3). -/
def State.messageArrives (s : State) (type : Nat) (src : MsgSrc) (m : Msg) (act : State → Acted) : State :=
  let k := m.boxOf src
  let b := s.box k
  let fresh := match src with
    | .host _ => b.full && decide (b.msg = some m) && b.result.isNone
    | _ => !b.full
  if (decide (m.type.toNat ≠ type) && m.row.isSome) || !s.towpathUp || (s.recovery && decide (type ≠ 1)) || !fresh then s
  else
    let s := match src with
      | .host _ => s
      | _ => s.putBox k src m
    if !s.ownerCoreRuns m then s
    else
      let r := s.answerTo src m act
      r.s.decided k r.code r.reply

end Sys2Proof.Machine
end

