-- ==== Sys2Proof/Machine/SelfTest.lean ====
section
/-! DEFINITION. Self-test and calibrate (09 R190, R191; 13 R285). -/

namespace Sys2Proof.Machine

/-- Items of module scope, and the items an ITEMS field selects, in order. -/
def itemsOf (items : Nat) : List Nat := (List.range 7).filter (fun i => items.testBit i)

/-- The dies that a spare-scope command names (13 R285). -/
def diesOf (mask : Nat) : List Nat := (List.range 64).filter (fun d => mask = 0 || mask.testBit d)

/-- A context is idle or suspended (09 R191): no command but the self-test itself is in progress. A run's command is suspended
once its queues are empty. -/
def CtxSt.quiet (c : CtxSt) : Bool :=
  c.sweep.isNone && c.cmds.all (fun d => decide (d.phase ≠ .started) || d.opcode == 0x13 || d.suspended)

/-- About 0.5 s of a link test, in lock cycles (09 Table 9-7). -/
def linkTestCycles : Nat := 19074

/-- The port's lock table carries no barges from the test's first lock cycle to its end: in the buffer in force, until a switch
that is armed, and in the buffer that the switch brings (R191, 11 R238). -/
def State.portClear (s : State) (p first : Nat) : Bool :=
  let t := sget ({} : PortSt) s.lnk.ports p
  let free := fun (l : LockTable) => l.tx.isEmpty && l.rx.isEmpty
  let now := free (if t.active = 0 then t.table0 else t.table1)
  let next := free (if t.active = 0 then t.table1 else t.table0)
  let armed := s.flag Off.lnkTableSelect 30 && s.flag Off.lnkTableSelect p
  let at_ := s.field Off.lnkTableAt 45 0
  if armed && decide (at_ ≤ first) then next
  else now && (!armed || decide (first + linkTestCycles < at_) || next)

/-- What keeps a SELF_TEST from starting: another one, a context at work for module scope, a link test named too late or on a
port with barges. -/
def State.testBusy (s : State) (d : Cmd) : Bool :=
  let module := decide (4 ≤ d.items)
  s.hive.test.isSome || (module && s.ctxs.any (fun c => !c.2.quiet))
    || (d.items.testBit 5 && (!s.portClear (d.f 75 72) d.testAt || decide (d.testAt < s.lockCycle + 4)))

/-- A hive slot is retired: recorded in flash, reported and logged (09 R189). -/
def State.retireSlot (s : State) (p step : Nat) : State :=
  let add := fun (v : Device) => { v with repair := { v.repair with gen := v.repair.gen + 1, slots := p :: v.repair.slots } }
  { s with fw := { s.fw with dev0 := add s.fw.dev0, dev1 := add s.fw.dev1 } }.note 4 true 0x10 0x0501 [p, step] none 0 p

/-- A SELF_TEST starts: the spares of its dies are held; a die without one is skipped. -/
def State.startTest (s : State) (x : Nat) (d : Cmd) : State :=
  let spare := decide (d.items < 4)
  let dies := if spare then diesOf d.dieMask else []
  let have_ := dies.filter (fun e => (s.spareSlot e).isSome)
  let codes := (dies.filter (fun e => (s.spareSlot e).isNone)).foldl (fun m e => sput 0 m e 3) ([] : SMap Nat)
  let t : SelfTest := { x := x, idx := d.idx, items := d.items, dies := have_, codes := codes }
  let s := s.start x d.idx
  let s := { s with hive := { s.hive with
    test := some t, spareHeld := have_.foldl (fun m e => sput false m e true) s.hive.spareHeld } }
  if d.items.testBit 5 then
    { s with lnk := { s.lnk with tests := s.lnk.tests ++ [⟨d.f 75 72, d.testAt, d.testAt + linkTestCycles⟩] } }
  else s

/-- A stored unit of a slot cannot be read. -/
def State.slotBad (s : State) (p : Nat) : Bool :=
  s.mem.bad.any (fun e => decide (0x11000000000 + p * 0x2000000 ≤ e.1 ∧ e.1 < 0x11000000000 + (p + 1) * 0x2000000))

/-- The module has the die's code in the test under way. -/
def State.setTestCode (s : State) (d c : Nat) : State :=
  { s with hive := { s.hive with test := s.hive.test.map (fun t => { t with codes := sput 0 t.codes d c }) } }

/-- A die's spare runs an item. The march reads and writes its store through the physical window, where it meets a word that
cannot be read, and leaves its contents (R191); whether the slot passes otherwise is a matter of the part, a free value. One that
passes calibration keeps its values, which the spec does not give; one that fails is retired. -/
def State.testDie (s : State) (i d : Nat) : State :=
  match s.hive.test, s.spareSlot d with
  | some t, some k =>
    let p := 5 * d + k
    if !sget false s.hive.spareHeld d ∨ sget 0 t.codes d = 2 then s
    else if s.freeBelow 2 = 0 ∧ (i ≠ 0 ∨ !s.slotBad p) then
      let s := (s.drawn.setTestCode d 1).drawn
      if i = 1 then { s with hive := { s.hive with calib := sput 0 s.hive.calib p (s.freeBelow (2 ^ 32)) } } else s
    else
      let s := (s.drawn.setTestCode d 2).retireSlot p ((s.ctx t.x).step + 1)
      { s with hive := { s.hive with
          failed := sput false s.hive.failed p true, spareHeld := sput false s.hive.spareHeld d false } }
  | _, _ => s

/-- A module item runs; one that fails is reported to the fleet manager. The calibration of converters and droop clears an
estimator fault (15 R332). -/
def State.testModule (s : State) (i : Nat) : State :=
  match s.hive.test with
  | none => s
  | some _ =>
    let code := if s.freeBelow 2 = 0 then 1 else 2
    let s := (s.setTestCode (64 + i) code).drawn
    let s := if i = 6 then { s.setFlag Off.pwrLimitStat 30 false with pwr := { s.pwr with differSince := none, agreeSince := none } } else s
    if code = 2 then s.noteFree 3 true 0x00 [i] else s

/-- One item of the test in progress runs. -/
def State.testItem (s : State) (t : SelfTest) (i : Nat) : State :=
  let s := if i < 2 then t.dies.foldl (fun s d => s.testDie i d) s else s.testModule i
  { s with hive := { s.hive with test := s.hive.test.map (fun t => { t with ran := t.ran + 1 }) } }

/-- The 128-byte result of a test (13 R285). -/
def SelfTest.bytes (t : SelfTest) : List Byte :=
  (List.range 64).map (fun d => BitVec.ofNat 8 (sget 0 t.codes d))
    ++ (List.range 5).map (fun i => BitVec.ofNat 8 (sget 0 t.codes (66 + i))) ++ List.replicate 59 0

/-- RESULT (13 Table 13-4): an item failed, was skipped, was aborted. -/
def SelfTest.result (t : SelfTest) : Nat :=
  let has := fun (c : Nat) => t.codes.any (fun e => e.2 == c)
  b2n (has 2) + 2 * b2n (has 3) + 4 * b2n (has 4)

/-- The test is over: the spares return to rotation, a port is free. -/
def State.freeTest (s : State) (t : SelfTest) : State :=
  { s with hive := { s.hive with test := none, spareHeld := [] }
           lnk := { s.lnk with tests := if t.items.testBit 5 then [] else s.lnk.tests } }

/-- Where a test's result goes. -/
def State.testResultAddr (s : State) (t : SelfTest) : Nat := ((s.ctx t.x).cmd t.idx).elim 0 Cmd.resultAddr

/-- The test ends: its result is written, unless that would change a range that a sweep protects (08 R146). -/
def State.endTest (s : State) (t : SelfTest) : State :=
  let a := s.testResultAddr t
  (if s.isProtected a 128 then s else (s.stores t.x a t.bytes).chargeAll [(a, 128)] true).freeTest t

/-- A cancelled test: what has not run has code 0x05 (13 R285). -/
def State.cancelTest (s : State) : State :=
  match s.hive.test with
  | none => s
  | some t =>
    let left := (itemsOf t.items).drop t.ran
    let codes := if t.items < 4 then
        t.dies.foldl (fun m d => if sget 0 m d = 0 ∨ (sget 0 m d = 1 ∧ !left.isEmpty) then sput 0 m d 5 else m) t.codes
      else left.foldl (fun m i => sput 0 m (64 + i) 5) t.codes
    s.endTest { t with codes := codes }

/-- The test may run its next item: not suspended, no hardware limit for a spare (16 R349) nor its die's limiter
(15 R325), the host there for the result, and a link test's lock cycle come. -/
def State.testReady (s : State) (t : SelfTest) (d : Cmd) : Bool :=
  let limited := s.field Off.thmStat 2 0 ≠ 0 || t.dies.any (fun e => sget false s.pwr.testHeld e)
  !d.suspended && !s.fail.moved && !(decide (t.items < 4) && limited) && s.reachesAll 0 [d.resultAddr]
    && (!isHostAddr d.resultAddr || s.hostReady t.x d.resultAddr) && (!d.items.testBit 5 || decide (d.testAt ≤ s.lockCycle))

/-- The test in progress takes its next step: an item, or its end. -/
def State.testStep (s : State) (t : SelfTest) : State :=
  match (s.ctx t.x).cmd t.idx with
  | none => s.cancelTest
  | some d =>
    if !s.testReady t d then s
    else
      match (itemsOf t.items)[t.ran]? with
      | some i => s.testItem t i
      | none => (s.endTest t).complete t.x t.idx (if s.isProtected d.resultAddr 128 then stBadAddress else stOk) t.result

/-- SELF_TEST: it starts, runs one item after another, and writes its result. -/
def execSelfTest (x : Ctx) (s : State) : Out :=
  match s.startableOp x.val 0x13 with
  | some d => .next (if s.testBusy d then s.complete x.val d.idx stBusy 0 else s.startTest x.val d)
  | none =>
    match s.hive.test with
    | some t => whenReady (decide (t.x = x.val)) s (s.testStep t)
    | none => .next s

end Sys2Proof.Machine
end

