-- ==== Sys2Proof/Machine/Failover.lean ====
section
/-! DEFINITION. Rank moves, takeover and job actions (09 R179, R182-R184; 12 R258; 14 R308). -/

namespace Sys2Proof.Machine

/-! ### The messages -/

/-- A lock cycle named by the fleet manager is at least 128 lock cycles ahead. -/
def State.aheadBy (s : State) (n lc : Nat) : Bool := decide (s.lockCycle + n ≤ lc)

/-- What a RANK_MOVE does: its job's context waits for Lt; a later one for the same rank replaces it. -/
def State.actRankMove (s : State) (m : Msg) : Acted :=
  match s.jobCtx (m.get 16 2) with
  | none => s.refuseMsg stBadContext 0
  | some x =>
    if !s.aheadBy 128 (m.get 10 6) then s.refuseMsg stBusy 0
    else
      let mv : RankMove := ⟨x, m.get 0 2, m.get 2 2, m.get 4 6, m.get 10 6⟩
      { s := { s with fail := { s.fail with
          moves := s.fail.moves.filter (fun o => !(o.x == mv.x && o.rank == mv.rank)) ++ [mv] } } }

/-- What a JOB_ACTION does: its job's context acts at Lr, if it is in the step named. -/
def State.actJobAction (s : State) (m : Msg) : Acted :=
  match s.jobCtx (m.get 0 2) with
  | none => s.refuseMsg stBadContext 0
  | some x =>
    if !s.aheadBy 128 (m.get 10 6) then s.refuseMsg stBusy 0
    else if m.get 2 6 = (s.ctx x).step + 1 then
      { s := s.modCtx x (fun c => { c with jobAct := some (m.get 8 1, m.get 10 6) }) }
    else { s := s }

/-- RANK_MOVE. -/
def execRankMove (src : MsgSrc) (m : Msg) (s : State) : Out :=
  .next (s.messageArrives 0x20 src m (fun s => s.actRankMove m))

/-- JOB_ACTION. -/
def execJobAction (src : MsgSrc) (m : Msg) (s : State) : Out :=
  .next (s.messageArrives 0x21 src m (fun s => s.actJobAction m))

/-! ### Takeover (09 R182) -/

/-- A port takes part in the switch at Lt: a table stands loaded in its inactive buffer, and it has not switched then. -/
def State.takesTables (s : State) (lt p : Nat) : Bool :=
  let t := s.port p
  portExists p && (t.table (1 - t.active)).loaded && t.oldSince.isNone && decide (t.since ≠ 1024 * lt)

/-- Step 1: the takeover tables come into force. -/
def State.takeoverTables (s : State) (lt : Nat) : State :=
  let s := if s.switchPending && decide (s.switchAt = lt) then s.tableSwitch else s
  (portCodes.filter (s.takesTables lt)).foldl (fun s p => s.switchPort (1024 * lt) p) s

/-- The context of a mirrored source whose state stands at step D: the one with the rank move's own number, else another
(log 31). -/
def MirrorSt.atStep (m : MirrorSt) (x d : Nat) : Option Nat :=
  let fits := fun (c : MirCtx) => c.inStep && decide (c.applied = d)
  if fits (m.ctx x) then some x else (m.ctxs.find? (fun c => fits c.2)).map (·.1)

/-- The lost source whose rank the standby takes, and the source's context: one reported lost that stands at step D, that of
the lost rank's module where a rank map names it (09 R181, R183; log 31). -/
def State.lostSource (s : State) (mv : RankMove) : Option (Nat × Nat) :=
  let map := (s.ctx mv.x).rankMap
  let lost := (List.range 16).filter (fun p => s.mirValid p && decide ((s.mirror p).state = 3)
    && (decide (map = 0) || decide (s.mirSource p = s.rankModule mv.x map mv.rank)))
  lost.findSome? (fun p => ((s.mirror p).atStep mv.x mv.d).map (fun y => (p, y)))

/-- The module of the lost rank: the source that the standby takes over, else as the context's last rank map says. -/
def State.lostModule (s : State) (mv : RankMove) : Option Nat :=
  match if mv.standby = s.moduleNo then s.lostSource mv else none with
  | some (p, _) => some (s.mirSource p)
  | none =>
    let map := (s.ctx mv.x).rankMap
    if map = 0 then none else some (s.rankModule mv.x map mv.rank)

/-- Step 2: the lost module's frames and records are discarded from here on. -/
def State.silence (s : State) (mv : RankMove) : State :=
  match s.lostModule mv with
  | some m => { s with fail := { s.fail with silenced := m :: s.fail.silenced } }
  | none => s

/-- The layers of a context as before its last committed step. -/
def State.undoLayers (s : State) (x : Nat) : State :=
  let was := (s.ctx x).undoLayers
  { s with layers := smerge {} (s.hasLayer x) was s.layers, layersC := smerge {} (s.hasLayer x) was s.layersC }

/-- The committed step is undone: every byte it replaced, with both halves of its overflow maps, its layers and its COMMIT contents
return; UNDO goes to the partner, no COMMIT counts the step's records any more, a resynchronisation under way starts again, and the
step's commands are to run again (09 R177, R179). -/
def State.undoStep (s : State) (x : Nat) : State :=
  let c := s.ctx x
  let s := (s.restoreCommitted x).undoLayers x
  let s := c.undo.foldl (fun s p => s.stores x p.1 p.2) s
  let s := s.emit { kind := kUndo, ctx := x, step := c.step }
  let s := s.modExp (fun e => { e with
    recs := e.recs.map (fun r => if r.ctx = x ∧ r.step = c.step then { r with dead := true } else r)
    resyncPos := if e.resync then 0 else e.resyncPos, resyncEnd := if e.resync then none else e.resyncEnd })
  let s := match c.table with
    | some t => s.setField (Off.updCtxNorm x) 63 32 (s.loadNat x ((s.swHdr x t).state + 8) 4)
    | none => s
  s.modCtx x (fun c => { c with
    step := c.step - 1, undo := [], undoLayers := [], unacked := none, crcFirst := 0, attempt := 0
    cmds := c.cmds.map (fun d => if d.past && !d.final then { d with past := false } else d) })

/-- Steps 3 and 4 on a module of the job: the step in progress is abandoned for a replay, and a module one step ahead goes
back. -/
def State.takeoverStep (s : State) (mv : RankMove) : State :=
  let s := s.abandonStep mv.x .replay
  let s := if (s.ctx mv.x).state = 5 then s.setCtxState mv.x 1 else s
  if (s.ctx mv.x).step = mv.d + 1 then s.undoStep mv.x else s

/-! ### The standby (09 R183) and the module that lost its rank (R184) -/

/-- Bytes move within device memory. -/
def State.moveBytes (s : State) (src dst n : Nat) : State :=
  { s with mem := { s.mem with dev := s.mem.dev.setBytes dst (s.mem.dev.bytes src n) } }

/-- The live half of an overflow map takes its committed half, and the numerics image of a source's context its layers. -/
def State.mirrorState (s : State) (x p y : Nat) : State :=
  let m := s.mirror p
  let s := m.tensors.foldl (fun s t => s.moveBytes t.map (t.map - t.bytes) t.bytes) s
  s.takeImage x (m.ctx y).image

/-- The sweep table of a context that is known here: of its last sweep, or of one waiting on its ring. -/
def CtxSt.knownTable (c : CtxSt) : Option Nat :=
  c.table.orElse (fun _ => (c.cmds.find? (fun d => d.opcode == 6)).map Cmd.sweepTable)

/-- A source's ranges go from where the mirror placed them to their source addresses (R178, R183). -/
def State.moveHeld (s : State) (p : Nat) : State :=
  let disp := s.mirDisp p
  if disp = 0 then s
  else { s with mem := { s.mem with dev := (s.mirror p).held.foldl (fun (d : Memory) r =>
    d.setBytes (r.1 - disp) (s.mem.dev.bytes r.1 r.2)) s.mem.dev } }

/-- Every working-copy target of a context's sweep table is derived again; with no table known, when one first is, and while
re-derivation is held, when it may go on (09 R183; 16 R345; log 31). -/
def State.deriveCopies (s : State) (x : Nat) : State :=
  match (s.ctx x).knownTable with
  | some t =>
    if s.mayRederive x t (s.tgts x t) then
      (s.mendTargets x t (List.range (s.swHdr x t).targets)).modCtx x (fun c => { c with owesTargets := false })
    else s.modCtx x (fun c => { c with owesTargets := true })
  | none => s.modCtx x (fun c => { c with owesTargets := true })

/-- The standby takes the rank: mirrored ranges go to their source addresses, other sources are given up, the numerics image,
maps and targets are restored, and the job rank is taken. -/
def State.standbyTakes (s : State) (mv : RankMove) : State :=
  let s := match s.lostSource mv with
    | none => s
    | some (p, y) =>
      let s := s.moveHeld p
      let s := (List.range 16).foldl (fun (s : State) q =>
        if q = p ∨ !s.mirValid q then s else (s.setFlag (Off.updMirrorIn q) 63 false).modMirror q (fun _ => {})) s
      s.mirrorState mv.x p y
  ((s.deriveCopies mv.x).setField (Off.ctxJob mv.x) 29 16 mv.rank).modCtx mv.x (fun c => { c with
    step := mv.d, undo := [], undoLayers := [] })

/-- The module runs job work of its own: a context of it has a step under way (09 R180). -/
def State.ownWork (s : State) : Bool := (s.ctxs.map (·.1)).any s.stepOpen

/-- The host state of a context that lost its host is discarded: its rings, entries and commands (12 R264). -/
def State.dropHostState (s : State) (x : Nat) : State :=
  let st := (s.ctx x).state
  if st = 2 ∨ st = 3 ∨ st = 4 then
    (s.modCtx x (fun c => { c with
      cmds := [], entries := [], tail := 0, fetch := 0, released := 0, cqTail := 0, cqHead := 0, irqCount := 0, irqSince := none
      read := none, drain := none })).setCtxState x 0
  else s

/-- A module whose rank has moved ends every run and sweep, disables its links and idles until reset. -/
def State.rankMoved (s : State) : State :=
  let s := (s.ctxs.map (·.1)).foldl (fun s x => if (s.ctx x).stepCmds.isEmpty then s else s.abandonStep x .moved) s
  let s := (s.ctxs.map (·.1)).foldl State.dropHostState s
  let s := s.hive.test.elim s s.freeTest
  let s := (List.range 16).foldl (fun s p => s.modPort p (fun t => { t with state := 6 })) s
  { s with fail := { s.fail with moved := true } }

/-- The working copies that a takeover owes are derived where the sweep table is known by now. -/
def State.deriveOwed (s : State) : State :=
  ((s.ctxs.map (·.1)).filter (fun x => (s.ctx x).owesTargets)).foldl State.deriveCopies s

/-- TAKEOVER: at Lt the module does its part in the move of a rank (09 R182-R184). -/
def execTakeover (s : State) : Out :=
  match s.fail.moves.find? (fun mv => decide (mv.lt ≤ s.lockCycle)) with
  | none => .next s.deriveOwed
  | some mv =>
    if !s.clk.lock then .next s
    else
      let s : State := { s with fail := { s.fail with moves := s.fail.moves.erase mv } }
      if mv.rank = s.rank mv.x ∧ mv.standby ≠ s.moduleNo then .next s.rankMoved
      else
        let free := !s.ownWork
        let s := ((s.takeoverTables mv.lt).silence mv).takeoverStep mv
        .next (if mv.standby = s.moduleNo && free then s.standbyTakes mv else s)

end Sys2Proof.Machine
end

