-- ==== Sys2Proof/Machine/HostLoss.lean ====
section
/-! DEFINITION. The host link and what happens when a context loses its host: triggers, PARKED and HELD, resets of a
function, failed host accesses (06 R117; 12 R241, R261-R265; 14 R293, R305; 18 R369). -/

namespace Sys2Proof.Machine

/-! ### Loss (12 R261-R263) -/

/-- A context loses its host: it stops its host requests and drains; the data of a read under way will be discarded. -/
def State.hostLost (s : State) (cause x : Nat) : State :=
  let st := (s.ctx x).state
  if st = 0 then s
  else
    let s := s.modCtx x (fun c => { c with cause := BitVec.ofNat 4 cause, read := none })
    if st = 1 ∨ st = 5 ∨ st = 6 then s.setCtxState x 2 else s

/-- Every context of a function loses its host. -/
def State.funcLost (s : State) (cause f : Nat) : State := (s.ctxsOf f).foldl (fun s x => s.hostLost cause x) s

/-- HEARTBEAT_EXPIRY: no write to the doorbell page for PERIOD_MS; 0 disables the trigger. -/
def execHeartbeatExpiry (x : Ctx) (s : State) : Out :=
  let c := s.ctx x.val
  let ms := s.field (Off.ctxHbCfg x.val) 15 0
  whenReady (decide (ms ≠ 0 ∧ c.lastBeat + ms * 1000000000 ≤ s.clk.now) && (c.state == 1 || c.state == 5 || c.state == 6)) s
    (s.hostLost 1 x.val)

/-- COMPLETION_TIMEOUT: a read that the module issued for the context has not completed in time (R261), or a request was held
that long (17 R363). -/
def execCompletionTimeout (x : Ctx) (s : State) : Out :=
  whenReady (s.hostOk x.val) s ((s.countField (Off.hifFuncStat (s.funcOf x.val)) 47 32 1).funcLost 2 (s.funcOf x.val))

/-- BUS_MASTER_DISABLE: Bus Master Enable is cleared in a function's Command register. -/
def execBusMasterDisable (f : Func) (s : State) : Out :=
  whenReady (s.flag (Off.hifFuncStat f.val) 63) s ((s.setFlag (Off.hifFuncStat f.val) 63 false).funcLost 3 f.val)

/-- D3HOT_ENTRY: a function enters D3hot. -/
def execD3hotEntry (f : Func) (s : State) : Out :=
  whenReady (!s.flag (Off.hifFuncStat f.val) 62) s ((s.setFlag (Off.hifFuncStat f.val) 62 true).funcLost 4 f.val)

/-- VF Enable is cleared: the contexts of every VF lose their host. -/
def State.vfOff (s : State) : State :=
  if s.flag (Off.hifFuncStat 0) 61 then
    ((List.range 16).drop 1).foldl (fun s f => s.funcLost 5 f) (s.setFlag (Off.hifFuncStat 0) 61 false)
  else s

/-- VF_DISABLE. -/
def execVfDisable (s : State) : Out := .next s.vfOff

/-! ### Function resets (12 R265, 14 R305, 18 R369) -/

/-- A receiver's mailbox is cleared: the sender of a message in it reads ABORTED (14 R305). -/
def State.clearBox (s : State) (k : Nat) : State :=
  s.modBox k (fun b => if b.full then { b with msg := none, full := false, src := none, result := none, ack := some 0x0040, valid := true } else b)

/-- A context's ring, host-window, heartbeat and interrupt registers. -/
def ctxHostRegs (x : Nat) : List Nat :=
  [Off.ctxSqBase x, Off.ctxCqBase x, Off.ctxRingCfg x, Off.ctxIrqCfg x, Off.ctxHostBase x, Off.ctxHostSize x, Off.ctxHbCfg x]

/-- They return to reset. -/
def State.clearCtxRegs (s : State) (x : Nat) : State := (ctxHostRegs x).foldl (fun s o => s.setReg o (regReset o)) s

/-- A function's configuration returns to reset, with its MSI-X table and pending bits, its counts, its IDE streams and its DOE
mailbox. -/
def State.clearFunction (s : State) (f : Nat) : State :=
  let s := (s.ctxsOf f).foldl State.clearCtxRegs s
  { s.setReg (Off.hifFuncStat f) 0 with io := { s.io with
      msix := s.io.msix.filter (fun e => e.1 / 260 != f)
      msixPending := s.io.msixPending.filter (fun e => e.1 / 65 != f)
      cfg := s.io.cfg.filter (fun e => e.1 != f)
      streams := s.io.streams.filter (fun e => e.1 / 4 != f)
      spdm := s.io.spdm.filter (fun e => e.1 != 1 + f) } }

/-- FUNCTION_LEVEL_RESET. That of the physical function clears VF Enable with the rest of its configuration. -/
def execFunctionLevelReset (f : Func) (s : State) : Out :=
  let s := s.funcLost 6 f.val
  let s := if f.val = 0 then s.vfOff else s
  .next ((s.ctxsOf f.val).foldl (fun s x => s.clearBox (64 + x)) (s.clearFunction f.val))

/-- The link falls: every context loses its host and every function is reset. -/
def State.linkLost (s : State) : State :=
  let s := (List.range 16).foldl (fun s f => s.funcLost 7 f) s
  ((List.range 16).foldl State.clearFunction s).setReg Off.hifLinkStat 0

/-- PERST: PERST_N is asserted. -/
def execPerst (s : State) : Out := .next { s.linkLost with io := { s.linkLost.io with perst := true } }

/-- LINK_DOWN: hot reset, or the Data Link Layer goes down. -/
def execLinkDown (s : State) : Out := .next s.linkLost

/-! ### The link and configuration (12 R241, 14 R293) -/

/-- The link has trained: a generation and a width that the model leaves free; in FLIT mode at 64 GT/s and above, which the
standard requires there, and as it was negotiated below (PRESUMED, log 20). -/
def State.linkTrains (s : State) : State :=
  if s.flag Off.hifLinkStat 1 then s
  else
    let g := 1 + s.freeBelow 7
    let w := 1 + s.drawn.freeBelow 16
    let flit := if 6 ≤ g then 1 else s.drawn.drawn.freeBelow 2
    s.drawn.drawn.drawn.setReg Off.hifLinkStat (flit + 2 + 2 ^ 32 * w + 2 ^ 40 * w + 2 ^ 48 * g)

/-- PERST_N_DEASSERTED: the link trains. -/
def execPerstNDeasserted (s : State) : Out :=
  let t : State := { s with io := { s.io with perst := false } }
  .next (if s.pwr.aux then t.linkTrains else t)

/-- Bytes of a BAR (12 Table 12-2). -/
def barSize (i : Nat) : Nat := [0x4000000, 0x40000, 0x100000].getD i 1

/-- The address that a BAR of either kind holds: its low bits, below its size, read zero. -/
def barAt (i : Nat) (a : BitVec 64) : Nat := a.toNat / barSize i * barSize i

/-- The codes of Completion Timeout Value for the default range and for ranges A to D (12 Table 12-1; the codes are the
standard's, log 20). -/
def timeoutCodes : List Nat := [0, 1, 2, 5, 6, 9, 10, 13, 14]

/-- What a request of the host is rejected for: an option that 12 Table 12-1 does not list (00 R6), or a Max Payload or Max Read
Request Size beyond it. -/
def rejectsConfig : ConfigAccess → Bool
  | .maxPayload c => decide (2 < c.toNat)
  | .maxReadRequest c => decide (5 < c.toNat)
  | .timeoutRange c => !timeoutCodes.contains c.toNat
  | .unlisted .needed => true
  | _ => false

/-- What a configuration write does: a VF has no BARs of its own there, since the VF BARs of the physical function's SR-IOV
capability place them (R244); an option that is not listed and that the standard lets a device lack has no effect. -/
def State.configEffect (s : State) (f : Nat) : ConfigAccess → State
  | .read => s
  | .busMasterEnable => s.setFlag (Off.hifFuncStat f) 63 true
  | .d0 => s.setFlag (Off.hifFuncStat f) 62 false
  | .vfEnable => if f = 0 then s.setFlag (Off.hifFuncStat 0) 61 true else s
  | .maxPayload c => s.modCfg f (fun g => { g with payload := c.toNat })
  | .maxReadRequest c => s.modCfg f (fun g => { g with readRequest := c.toNat })
  | .timeoutRange c => s.modCfg f (fun g => { g with timeout := c.toNat })
  | .bar i a => if f = 0 then s.modCfg 0 (fun g => { g with bars := g.bars.set i.val (barAt i.val a) }) else s
  | .vfBar i a => if f = 0 then s.modCfg 0 (fun g => { g with vfBars := g.vfBars.set i.val (barAt i.val a) }) else s
  | .l0p w =>
    if w.toNat ∈ [1, 2, 4, 8, 16] ∧ w.toNat ≤ s.field Off.hifLinkStat 47 40 then s.setField Off.hifLinkStat 39 32 w.toNat else s
  | .unlisted _ => s

/-- CONFIG_REQUEST: it arrives over a trained link; Request Retry Status until step 6 of boot, then it completes. A VF answers
once VF Enable is set. -/
def execConfigRequest (f : Func) (a : ConfigAccess) (s : State) : Out :=
  if s.io.perst || !s.pwr.aux then .next s
  else
    let s := s.linkTrains
    if s.bootStep < 6 then .next (s.send (.completion f.val 3))
    else if f.val ≠ 0 && !s.flag (Off.hifFuncStat 0) 61 then .next (s.send (.completion f.val 1))
    else if rejectsConfig a then .next ((s.noteFree 2 false 0x50 []).send (.completion f.val 1))
    else .next ((s.configEffect f.val a).send (.completion f.val 0))

/-! ### PARKED and HELD (R263) -/

/-- Host-window addresses that a command itself accesses. -/
def Cmd.hostAddrs (d : Cmd) : List Nat :=
  match d.opcode, d.sub with
  | 0x02, _ => d.dma.hostEnds
  | 0x10, 0 => [d.tailAddr].filter isHostAddr
  | 0x10, 2 => [d.buf].filter isHostAddr
  | 0x10, 3 => [d.buf].filter isHostAddr
  | 0x10, 4 => [d.list].filter isHostAddr
  | 0x11, _ => [d.addr 64].filter isHostAddr
  | 0x13, _ => [d.resultAddr].filter isHostAddr
  | 0x20, 1 => [d.mgmtAddr].filter isHostAddr
  | _, _ => []

/-- The host-window ends of the transfer at the head of a hive's D queue. -/
def State.headEnds (s : State) (h : Nat) : List Nat :=
  match (s.hiveSt h).queue 4 with
  | i :: _ => match i.op with
    | .dma d => d.hostEnds
    | _ => []
  | [] => []

/-- The hives that run programs of a context. -/
def CtxSt.runHives (c : CtxSt) : List Nat := (c.runs.map Run.hives).flatten

/-- The command that has started, or may, and accesses the host. -/
def State.hostCmd (s : State) (x : Nat) : Option Cmd :=
  match (s.ctx x).cmds.find? (fun d => decide (d.phase = .started) && !d.hostAddrs.isEmpty) with
  | some d => some d
  | none => (s.startable x).bind (fun d => if d.hostAddrs.isEmpty then none else some d)

/-- A unit of a context that has lost its host waits on it: a queue or command on an access, the step on descriptors not yet
fetched, the ring on space for completion entries. -/
def State.waitsHost (s : State) (x : Nat) : Bool :=
  let c := s.ctx x
  c.runHives.any (fun h => !(s.headEnds h).isEmpty) || (s.hostCmd x).isSome || c.drain.isSome || c.replayReady
    || (!c.stepCmds.isEmpty && (c.stepCmds.all (fun d => d.opcode != 6) || c.cqFull))

/-- CONTEXT_PARKED: a draining context has no step in progress, or one that must wait for the host; a joined one is then reported,
with a cause that the spec does not name (R264). -/
def execContextParked (x : Ctx) (s : State) : Out :=
  let c := s.ctx x.val
  if c.state ≠ 2 ∨ c.sweep.isSome then .next s
  else if s.waitsHost x.val then
    let s := s.setCtxState x.val 4
    .next (if s.joined x.val then s.drawn.reportHeld x.val (s.freeBelow 256) else s)
  else if c.stepCmds.isEmpty && c.abandon.isNone then .next (s.setCtxState x.val 3)
  else .next s

/-! ### A failed access (06 R117) -/

/-- HOST_ACCESS_FAILURE: a host read or write of a hive's transfer or of a command gets Unsupported Request or Completer Abort, so
that its run or command fails with BAD_ADDRESS. -/
def execHostAccessFailure (x : Ctx) (st : CplStatus) (s : State) : Out :=
  if st = .ok || !s.hostOk x.val then .next s
  else
    let t := s.hostError (s.funcOf x.val)
    match (s.ctx x.val).runHives.find? (fun h => !(s.headEnds h).isEmpty) with
    | some h => match (s.hiveSt h).queue 4 with
      | i :: rest => .next ((((t.setHive h ((t.hiveSt h).setQueue 4 rest)).failRun h i.pos stBadAddress)).drainQueues h)
      | [] => .next s
    | none => match s.hostCmd x.val with
      | some d => .next (t.complete x.val d.idx stBadAddress 0)
      | none => match (s.ctx x.val).runHives.find? (fun h => (s.hiveSt h).hostAt.isSome) with
        | some h =>
          let v := t.hiveSt h
          .next (((t.setHive h { v with hostAt := none }).failRun h (v.hostAt.getD 0) stBadAddress).drainQueues h)
        | none => .next s

end Sys2Proof.Machine
end

