-- ==== Sys2Proof/Machine/Attach.lean ====
section
/-! DEFINITION. Setting up rings and reattaching (12 R248, R266). -/

namespace Sys2Proof.Machine

/-- A ring set-up write is ignored: CTX.RING_ERR.CFG. -/
def State.cfgErr (s : State) (x : Nat) : State := s.setFlag (Off.ctxRingErr x) 0 true

/-- A ring size is 6 to 16. -/
def sizeOk (n : Nat) : Bool := decide (6 ≤ n ∧ n ≤ 16)

/-- The rings of a context start empty, its indices at zero. -/
def State.startRings (s : State) (x sq cq : Nat) : State :=
  s.modCtx x (fun c => { c with
    sqBase := s.field (Off.ctxSqBase x) 63 12 * 4096, cqBase := s.field (Off.ctxCqBase x) 63 12 * 4096
    sqLog := sq, cqLog := cq, tail := 0, fetch := 0, released := 0, cqTail := 0, cqHead := 0, read := none
    cmds := [], entries := [], irqCount := 0, irqSince := none, lastBeat := s.clk.now, attempt := 0, crcFirst := 0
    drain := none, abandon := none, fault := none, replayReady := false, badDma := none, badLines := [], jobAct := none
    heldReported := false, cqHeld := false, stepStart := s.clk.now, limitedAt := s.clk.limited })

/-- EN is written 1 while the rings are off: they start, or a context that kept its indices takes its bases at reattachment. -/
def State.enableRings (s : State) (f x v sq cq : Nat) : State :=
  let c := s.ctx x
  let set := s.putReg f (Off.ctxRingCfg x) 0x80001F1F 0 v
  if c.state = 0 then (set.startRings x sq cq).setCtxState x 1
  else if sq = c.sqLog ∧ cq = c.cqLog then set else s.cfgErr x

/-- A command of the context that was submitted has not completed: it is still to be fetched, or fetched again, or it is under way. -/
def CtxSt.unsettled (c : CtxSt) : Bool :=
  c.cmds.any Cmd.live || c.tail != c.fetch || c.fault.isSome || c.abandon.isSome || c.drain.isSome || c.replayReady

/-- A write of CTX.RING_CFG by a function that may write it. -/
def State.writeRingCfg (s : State) (f x v : Nat) : State :=
  let off := Off.ctxRingCfg x
  let old := s.reg off
  let c := s.ctx x
  let sq := bits v 4 0
  let cq := bits v 12 8
  if v.testBit 31 && !(sizeOk sq && sizeOk cq) then s.cfgErr x
  else if old.testBit 31 then
    if sq ≠ bits old 4 0 ∨ cq ≠ bits old 12 8 then s.cfgErr x
    else if v.testBit 31 then s.noteReserved f off v
    else if c.unsettled ∨ c.state = 3 ∨ c.state = 4 then s.cfgErr x
    else (((s.setFlag off 31 false).noteReserved f off v).modCtx x (fun c => { c with entries := [], read := none })).setCtxState x 0
  else if v.testBit 31 then s.enableRings f x v sq cq
  else s.putReg f off 0x1F1F 0 v

/-- RING_CFG_WRITE. A context that the protection set-up leaves disabled has no rings. -/
def execRingCfgWrite (f : Func) (x : Ctx) (v : Word) (s : State) : Out :=
  if !s.barOpen then .next s
  else if !s.mayWrite f.val .ctx x.val 0 || !s.ctxEnabled x.val then
    .next (s.ignored f.val (Off.ctxRingCfg x.val) (v.toNat % 2 ^ 32))
  else .next (s.writeRingCfg f.val x.val (v.toNat % 2 ^ 32))

/-! ### Reattachment (R266, Table 12-8) -/

/-- A reattachment is accepted: the context is parked, held or in a ring fault, its ring registers are set, and the module's rank has
not moved, with which its host state is gone (R264). -/
def State.mayAttach (s : State) (x : Nat) : Bool :=
  let st := (s.ctx x).state
  (st == 3 || st == 4 || st == 6) && s.flag (Off.ctxRingCfg x) 31 && !s.fail.moved

/-- The written bases and EN take effect, and the context is attached in a state. -/
def State.attach (s : State) (x : Nat) (st : BitVec 4) : State :=
  (s.modCtx x (fun c => { c with
    sqBase := s.field (Off.ctxSqBase x) 63 12 * 4096, cqBase := s.field (Off.ctxCqBase x) 63 12 * 4096
    read := none, cqHeld := false })).setCtxState x st

/-- An ACTION written to CTX.ATTACH: accepted, or ignored with REFUSED. -/
def State.attachWrite (s : State) (f x action : Nat) (effect : State → State) : State :=
  if !s.barOpen then s
  else if !s.mayWrite f .ctx x 0 then s.ignored f (Off.ctxAttach x) action
  else if s.mayAttach x then effect s
  else s.setFlag (Off.ctxAttach x) 2 true

/-- A joined context's held step is reported for its job to decide (12 R258). -/
def State.holdForJob (s : State) (x : Nat) (a : Abandon) : State :=
  if (s.ctx x).stepCmds.isEmpty then s.attach x 1
  else
    let s := (s.attach x 5).stepFault x a a.status
    (s.modCtx x (fun c => { c with heldReported := true })).reportHeld x a.status

/-- ATTACH_RESUME: held units go on, and fetching continues; a step that waits for its job still does. -/
def execAttachResume (f : Func) (x : Ctx) (s : State) : Out :=
  .next (s.attachWrite f.val x.val 1 (fun s =>
    s.attach x.val (if (s.ctx x.val).fault.isSome && (s.ctx x.val).heldReported then 5 else 1)))

/-- ATTACH_REPLAY: the held step is replayed. -/
def execAttachReplay (f : Func) (x : Ctx) (s : State) : Out :=
  .next (s.attachWrite f.val x.val 2 (fun s =>
    if s.joined x.val then s.holdForJob x.val .replay
    else
      let s := s.attach x.val 1
      if (s.ctx x.val).stepCmds.isEmpty || (s.ctx x.val).ending then s else s.abandonStep x.val .replay))

/-- ATTACH_CANCEL: the held step is abandoned and its commands complete with CANCELLED. -/
def execAttachCancel (f : Func) (x : Ctx) (s : State) : Out :=
  .next (s.attachWrite f.val x.val 3 (fun s =>
    if s.joined x.val then s.holdForJob x.val .cancel
    else
      let s := s.attach x.val 1
      if (s.ctx x.val).stepCmds.isEmpty then s
      else (s.modCtx x.val (fun c => { c with replayReady := false })).abandonStep x.val .cancel))

end Sys2Proof.Machine
end

