-- ==== Sys2Proof/Machine/Doorbell.lean ====
section
/-! DEFINITION. Doorbells, descriptor reads, completion writes and their interrupts (12 R248-R252). -/

namespace Sys2Proof.Machine

/-- Slots of a submission ring; a ring that is not enabled has none. -/
def CtxSt.sqSize (c : CtxSt) : Nat := if c.state = 0 then 0 else 2 ^ c.sqLog

/-- Slots of a completion ring. -/
def CtxSt.cqSize (c : CtxSt) : Nat := if c.state = 0 then 0 else 2 ^ c.cqLog

/-- A write to the doorbell page of a context not assigned to the function is ignored and logged (12 R245); any other
counts as a heartbeat (R249). -/
def State.doorbell (s : State) (f x off v : Nat) (effect : State → State) : State :=
  if !s.barOpen then s
  else if s.funcOwns f (some x) then effect (s.modCtx x (fun c => { c with lastBeat := s.clk.now }))
  else s.ignored f off v

/-- A refused doorbell value sets a bit of CTX.RING_ERR and is logged (12 R249). -/
def State.ringErr (s : State) (f x bit off v : Nat) : State := (s.setFlag (Off.ctxRingErr x) bit true).ignored f off v

/-- SQ_TAIL: the new submission tail, accepted under 12 R249. -/
def execSqTail (f : Func) (x : Ctx) (t : BitVec 32) (s : State) : Out :=
  .next (s.doorbell f.val x.val (0x1000 * x.val) t.toNat (fun s =>
    let c := s.ctx x.val
    if (t - c.released).toNat ≤ c.sqSize ∧ (t - c.fetch).toNat ≤ (t - c.released).toNat then
      s.modCtx x.val (fun c => { c with tail := t })
    else s.ringErr f.val x.val 1 (0x1000 * x.val) t.toNat))

/-- CQ_HEAD: completion entries consumed, accepted under 12 R249. -/
def execCqHead (f : Func) (x : Ctx) (h : BitVec 32) (s : State) : Out :=
  .next (s.doorbell f.val x.val (0x1000 * x.val + 4) h.toNat (fun s =>
    if ((s.ctx x.val).cqTail - h).toNat ≤ (s.ctx x.val).cqSize then s.modCtx x.val (fun c => { c with cqHead := h })
    else s.ringErr f.val x.val 2 (0x1000 * x.val + 4) h.toNat))

/-- HEARTBEAT: any value keeps the context attached (12 Table 12-3). -/
def execHeartbeat (f : Func) (x : Ctx) (v : BitVec 32) (s : State) : Out :=
  .next (s.doorbell f.val x.val (0x1000 * x.val + 8) v.toNat id)

/-! ### Descriptor reads -/

/-- The module runs: step 7 of boot is done (18 R370). -/
def State.booted (s : State) : Bool := s.field Off.hifModuleStat 3 0 == 7

/-- Fetched commands not yet completed, without those that a replay fetches again. -/
def CtxSt.unfinished (c : CtxSt) : Nat := (c.cmds.filter (fun d => d.live && !d.stale)).length

/-- Descriptors the next read takes (12 R250). -/
def CtxSt.readSize (c : CtxSt) : Nat := min (min 16 (c.tail - c.fetch).toNat) (1024 - c.unfinished)

/-- DESCRIPTOR_FETCH: a read of up to 16 descriptors from FETCH is issued (12 R250, R262). -/
def execDescriptorFetch (x : Ctx) (s : State) : Out :=
  let c := s.ctx x.val
  whenReady (s.booted && !s.fail.moved && s.hostOk x.val && decide (c.state ≠ 6) && c.read.isNone
      && (!c.replayReady || c.drain.isSome) && decide (0 < c.readSize)
      && !s.ideHolds (s.funcOf x.val) (c.sqBase + 64 * (c.fetch.toNat % 2 ^ c.sqLog))) s
    (s.modCtx x.val (fun c => { c with read := some (c.fetch, c.readSize, s.clk.now) }))

/-- The descriptor in the slot of a submission index. -/
def State.slotDesc (s : State) (c : CtxSt) (idx : BitVec 32) : BitVec 512 :=
  BitVec.ofNat 512 (s.mem.host.nat (c.sqBase + 64 * (idx.toNat % 2 ^ c.sqLog)) 64)

/-- A command completes at its arrival while its step is being abandoned; the sweep ends that (12 R256, R260). -/
def State.drainCmd (s : State) (x idx st : Nat) (sweep : Bool) : State :=
  let s := s.complete x idx st 0
  let s := if st = stStepReplayed then s else s.modCmd x idx (fun d => { d with past := true })
  if sweep then s.modCtx x (fun c => { c with drain := none, attempt := if st = stStepReplayed then c.attempt else 0 }) else s

/-- A descriptor arrives: a slot read before keeps a service command and takes a step command anew (12 R256); a failed
check completes it at once (13 R268). -/
def State.arrive1 (s : State) (x : Nat) (idx : BitVec 32) : State :=
  let c := s.ctx x
  let d : Cmd := { idx := idx.toNat, desc := s.slotDesc c idx, since := s.clk.now }
  match c.cmd idx.toNat with
  | some old =>
    if !old.isStep then s
    else
      let s := s.modCmd x idx.toNat (fun _ => d)
      match c.drain with
      | some st => s.drainCmd x d.idx st (d.opcode == 6)
      | none =>
        let st := s.descCheck x d
        if st = stOk then s else s.complete x d.idx st 0
  | none =>
    let s := s.modCtx x (fun c => { c with cmds := c.cmds ++ [d] })
    match d.isStep, c.drain with
    | true, some st => s.drainCmd x d.idx st (d.opcode == 6)
    | _, _ =>
      let st := s.descCheck x d
      if st = stOk then s else s.complete x d.idx st 0

/-- Consecutive descriptors arrive. -/
def State.arriveAll : Nat → State → Nat → BitVec 32 → State
  | 0, s, _, _ => s
  | k + 1, s, x, idx => State.arriveAll k (s.arrive1 x idx) x (idx + 1)

/-- DESCRIPTOR_ARRIVAL: the outstanding read returns its descriptors and FETCH passes them, or it fails and the context
stops in RING_FAULT (12 R250). -/
def execDescriptorArrival (x : Ctx) (st : CplStatus) (s : State) : Out :=
  match (s.ctx x.val).read with
  | none => .next s
  | some (idx, n, _) =>
    let t := s.modCtx x.val (fun c => { c with read := none })
    match st with
    | .ok =>
      let t := t.modCtx x.val (fun c => { c with fetch := idx + BitVec.ofNat 32 n })
      .next (State.arriveAll n t x.val idx)
    | st =>
      let t := t.hostError (t.funcOf x.val)
      .next (((t.setFlag (Off.ctxRingErr x.val) 3 true).note 4 false 0x50 0x0A01
        [idx.toNat, if st = .unsupported then 1 else 2] (some x.val)).setCtxState x.val 6)

/-! ### Completion writes -/

/-- The 16 bytes of a completion entry written at a completion index (13 Table 13-3). -/
def Entry.bytes (e : Entry) (c : CtxSt) : List Byte :=
  let phase := 1 - c.cqTail.toNat / 2 ^ c.cqLog % 2
  natLe e.idx 4 ++ natLe e.status 1 ++ natLe (e.replay % 16) 1 ++ natLe e.opcode 1 ++ natLe phase 1
    ++ natLe e.tag.toNat 4 ++ natLe e.result.toNat 4

/-- Vector 1 + x fires for the entries written since its last interrupt (12 R252). -/
def State.fireIrq (s : State) (x : Nat) : State :=
  if s.flag (Off.ctxIrqCfg x) 0 then
    (s.modCtx x (fun c => { c with irqCount := 0, irqSince := none })).irq (s.funcOf x) (1 + x)
  else s

/-- Entries per interrupt. -/
def State.irqEvery (s : State) (x : Nat) : Nat := max 1 (s.field (Off.ctxIrqCfg x) 15 8)

/-- The first held entry may be written: the host is up, the ring has space, and no earlier write failed. -/
def State.mayWriteEntry (s : State) (x : Nat) : Bool :=
  let c := s.ctx x
  s.hostOk x && !s.ideHolds (s.funcOf x) (c.cqBase + 16 * (c.cqTail.toNat % 2 ^ c.cqLog)) && !c.cqHeld && decide ((c.cqTail - c.cqHead).toNat < c.cqSize)

/-- COMPLETION_WRITE: the next entry is written with its phase bit and CQ_TAIL advances; a failed write is held and
stops the context (12 R251, R252). -/
def execCompletionWrite (x : Ctx) (st : CplStatus) (s : State) : Out :=
  let c := s.ctx x.val
  match c.entries with
  | [] => .next s
  | e :: rest =>
    if !s.mayWriteEntry x.val then .next s
    else
      match st with
      | .ok =>
        let a := c.cqBase + 16 * (c.cqTail.toNat % 2 ^ c.cqLog)
        let t : State := { s with mem := { s.mem with host := s.mem.host.setBytes a (e.bytes c) } }
        let t := t.modCtx x.val (fun c => { c with entries := rest, cqTail := c.cqTail + 1, irqCount := c.irqCount + 1,
                                                   irqSince := some (c.irqSince.getD s.clk.now)
                                                   guards := c.guards.filter (fun g => !(e.opcode == 6 && g.1 == e.idx)) })
        .next (if e.intr || decide (t.irqEvery x.val ≤ c.irqCount + 1) then t.fireIrq x.val else t)
      | st =>
        let t := (s.modCtx x.val (fun c => { c with cqHeld := true })).hostError (s.funcOf x.val)
        .next (((t.setFlag (Off.ctxRingErr x.val) 4 true).note 4 false 0x50 0x0A02
          [c.cqTail.toNat, if st = .unsupported then 1 else 2, e.idx] (some x.val)).setCtxState x.val 6)

/-- IRQ_TIMEOUT: TIMEOUT_US has passed since the first entry not yet signalled; 0 disables it (12 R252). -/
def execIrqTimeout (x : Ctx) (s : State) : Out :=
  let us := s.field (Off.ctxIrqCfg x.val) 31 16
  match (s.ctx x.val).irqSince with
  | some t => whenReady (decide (us ≠ 0 ∧ t + us * 1000000 ≤ s.clk.now) && s.hostOk x.val) s (s.fireIrq x.val)
  | none => .next s

end Sys2Proof.Machine
end

