-- ==== Sys2Proof/Machine/Domain.lean ====
section
/-! DEFINITION. The main domain's collapse, the module reset (14 R291, 15 R319, R320), and the lowest state with what forces
it (15 R326, R327; 16 R344, R345, R347). -/

namespace Sys2Proof.Machine

/-! ### Collapse and reset -/

/-- The stacks after their supply was lost: what was repaired, and the pages retired, are in the repair record. -/
def State.keptRepairs (s : State) : SMap StackSt :=
  (s.stks.filter (fun e => !e.2.repairsUsed.isEmpty || !e.2.softRows.isEmpty)).map (fun e =>
    (e.1, { repairsUsed := e.2.repairsUsed, softRows := e.2.softRows }))

/-- The converters turn off and the main domain collapses: every context is abandoned, the transmitters fall silent, the host
sees the link fall; the standby domain goes on (15 R320). -/
def State.collapse (s : State) : State :=
  let s := s.moveLock false
  let s := { s with
    mem := { host := s.mem.host }, hive := {}, stks := s.keptRepairs, combs := [], sync := {}
    ctxs := [], layers := [], layersC := [], fail := {}, lnk := { refLost := s.lnk.refLost }
    pwr := { s.pwr with rails := false }, staged := [] }
  (s.setReg Off.hifLinkStat 0).setBoot (min 3 s.bootStep)

/-- The senders whose messages stand in a core's mailbox at a module reset, told ABORTED; a host reads it in its own (14 R305). -/
def State.abortedAcks (s : State) : List Output :=
  if s.pwr.aux then s.mail.boxes.filterMap (fun b =>
    if b.2.full ∧ 64 ≤ b.1 then b.2.src.map (fun c => Output.ack c 0x0040 []) else none)
  else []
def State.abortedBoxes (s : State) : SMap Mailbox :=
  if s.pwr.aux then (s.mail.boxes.filter (fun b => b.2.full && decide (b.1 < 64))).map (fun b => (b.1, { ack := some 0x0040, valid := true })) else []

/-- How long CONV_ALERT_N has been low. -/
def State.alertLength (s : State) : Nat := s.pwr.alert.elim 0 (fun t => s.clk.now - t + s.pwr.alertPast)

/-- A module reset: every memory and register is cleared and every context abandoned. Flash and fuses stay, and the log memory
while AUX_12V does; soft repairs become hard, as the repair record has them (07 R139); so do the levels that others drive on the pins (14 R291).
The sender of a message in a mailbox reads ABORTED (14 R305). -/
def State.moduleReset (s : State) (keepLog crash : Bool) : State :=
  { State.reset with
    pending := s.pending
    out := s.abortedAcks ++ s.out
    mail := { boxes := s.abortedBoxes }
    clk := { free := s.clk.free }, mem := { host := s.mem.host }
    lnk := { refLost := s.lnk.refLost }
    log := { mem := if keepLog then s.log.mem else [], crashSource := crash && keepLog }
    fw := { dev0 := s.fw.dev0, dev1 := s.fw.dev1, fuses := s.fw.fuses }
    pwr := { aux := s.pwr.aux, hv := s.pwr.hv, hvOut := s.pwr.hvOut, alert := s.pwr.alert.map (fun _ => 0)
             alertPast := s.alertLength, faults := s.pwr.faults }
    thm := { trayTrip := s.thm.trayTrip }
    io := { perst := s.io.perst } }

/-! ### The lowest state (15 Table 15-4) -/

/-- What forces the lowest state: the alert line, or a hardware thermal limit (15 R326). -/
def State.forced (s : State) : Bool := s.pwr.alert.isSome || s.hot || s.flowStopped || s.halted

/-- Every compute die's issue rate. -/
def State.setIssue (s : State) (n : Nat) : State :=
  (List.range 64).foldl (fun s d => s.setField (Off.pwrDieStat d) 4 0 n) s

/-- The lowest state comes into force: 0.70 GHz, issue 2/16 on every die, 8/16 of each stack. -/
def State.enterLowest (s : State) : State :=
  let s := (s.setFlag Off.pwrLimitStat 29 true).setField Off.pwrMode 21 16 14
  ((s.setField Off.pwrLimitStat 12 8 2).setField Off.pwrLimitStat 20 16 8).setIssue 2

/-- After a change of what forces the lowest state: it is entered, or the hold before its end starts (R326, R327). -/
def State.limitsMoved (s : State) (before : Bool) : State :=
  let s := if s.forced && !s.lowest then s.enterLowest else s
  let s := if before && !s.forced then { s with pwr := { s.pwr with released := s.clk.now } } else s
  s.showEmergency

/-- A power or thermal log entry 0x0801 (15 Table 15-7, 16 Table 16-3). -/
def State.powerLog (s : State) (sev : Nat) (fm : Bool) (source : Nat) (args : List Nat) (unit : Nat := 0) : State :=
  s.note sev fm source 0x0801 args none 0 unit

/-! ### Thermal limits (16 R344, R345, R347) -/

/-- A temperature as a log argument. -/
def tempArg (t : Int) : Nat := (t % (2 ^ 64 : Int)).toNat

/-- The hottest working junction sensor and its reading. -/
def State.hottest (s : State) : Option (Nat × Int) :=
  s.thm.temps.foldl (fun m e => match e.2 with
    | none => m
    | some t =>
      if sget false s.thm.failed e.1 then m
      else match m with
        | some (_, u) => if u < t then some (e.1, t) else m
        | none => some (e.1, t)) none

/-- TMAX and the last reading of a stack that has trained. -/
def State.stackTemps (s : State) : List (Nat × Nat × Nat) :=
  ((List.range 32).filter (fun k => (s.stk k).trained)).map (fun k =>
    (k, s.field (Off.memTherm k) 23 16, s.field (Off.memTherm k) 15 8))

/-- Whether a limit is in force, from its entry and release points for junctions, and for stacks above TMAX. -/
def State.limitAt (s : State) (now : Bool) (enter leave : Int) (above : Nat) (keep : Int) : Bool :=
  let j := (s.hottest).map (·.2)
  let st := s.stackTemps
  let trig := j.any (fun t => decide (enter ≤ t)) || st.any (fun e => decide (e.2.1 + above ≤ e.2.2))
  let clear := j.all (fun t => decide (t ≤ leave)) && st.all (fun e => decide ((e.2.2 : Int) ≤ e.2.1 + keep))
  trig || (now && !clear)

/-- The rails are taken away: THERMTRIP_N goes low and the main domain collapses (16 R347). -/
def State.thermtrip (s : State) (unit temp : Nat) : State :=
  if s.thm.trip.isSome then s
  else
    let s := (s.powerLog 5 true 0x03 [0x45, unit, temp]).send (.pin "THERMTRIP_N" false)
    { s.collapse with thm := { s.collapse.thm with trip := some s.clk.now } }

/-- HOT, HALT and CRIT follow the readings; `unit` and `temp` name the sensor or stack just read (16 Table 16-1). -/
def State.thermalLimits (s : State) (unit : Nat) (temp : Int) : State :=
  let before := s.forced
  let hot := s.limitAt s.hot 105 100 0 (-2)
  let halt := s.limitAt s.halted 112 107 3 0
  let s := if hot = s.hot then s else (s.setFlag Off.thmStat 0 hot).powerLog 4 true 0x03 [0x43, unit, tempArg temp]
  let s := if halt = s.halted then s else (s.setFlag Off.thmStat 1 halt).powerLog 5 true 0x03 [0x44, unit, tempArg temp]
  let s := { s with hive := { s.hive with halt := halt } }
  let s := s.limitsMoved before
  if (s.hottest).any (fun t => decide (125 ≤ t.2)) then s.thermtrip unit (tempArg temp) else s

end Sys2Proof.Machine
end

