-- ==== Sys2Proof/Machine/Sha.lean ====
section
/-! DEFINITION. SHA-256 and the check of an RSASSA-PSS signature with it, as 17 R352 names them: both are published standards. -/

namespace Sys2Proof.Machine

/-! ### SHA-256 -/

/-- The round constants: the first 32 bits of the fractions of the cube roots of the first 64 primes. -/
def shaKs : List Nat := [
  0x428a2f98, 0x71374491, 0xb5c0fbcf, 0xe9b5dba5, 0x3956c25b, 0x59f111f1, 0x923f82a4, 0xab1c5ed5,
  0xd807aa98, 0x12835b01, 0x243185be, 0x550c7dc3, 0x72be5d74, 0x80deb1fe, 0x9bdc06a7, 0xc19bf174,
  0xe49b69c1, 0xefbe4786, 0x0fc19dc6, 0x240ca1cc, 0x2de92c6f, 0x4a7484aa, 0x5cb0a9dc, 0x76f988da,
  0x983e5152, 0xa831c66d, 0xb00327c8, 0xbf597fc7, 0xc6e00bf3, 0xd5a79147, 0x06ca6351, 0x14292967,
  0x27b70a85, 0x2e1b2138, 0x4d2c6dfc, 0x53380d13, 0x650a7354, 0x766a0abb, 0x81c2c92e, 0x92722c85,
  0xa2bfe8a1, 0xa81a664b, 0xc24b8b70, 0xc76c51a3, 0xd192e819, 0xd6990624, 0xf40e3585, 0x106aa070,
  0x19a4c116, 0x1e376c08, 0x2748774c, 0x34b0bcb5, 0x391c0cb3, 0x4ed8aa4a, 0x5b9cca4f, 0x682e6ff3,
  0x748f82ee, 0x78a5636f, 0x84c87814, 0x8cc70208, 0x90befffa, 0xa4506ceb, 0xbef9a3f7, 0xc67178f2]

/-- The initial hash words: those of the square roots of the first 8 primes. -/
def shaInit : List Nat := [
  0x6a09e667, 0xbb67ae85, 0x3c6ef372, 0xa54ff53a, 0x510e527f, 0x9b05688c, 0x1f83d9ab, 0x5be0cd19]

/-- A word rotated right. -/
def rotr32 (x n : Nat) : Nat := (x >>> n) ||| ((x <<< (32 - n)) % 2 ^ 32)

/-- The four functions of rotations. -/
def shaBig0 (x : Nat) : Nat := rotr32 x 2 ^^^ rotr32 x 13 ^^^ rotr32 x 22
def shaBig1 (x : Nat) : Nat := rotr32 x 6 ^^^ rotr32 x 11 ^^^ rotr32 x 25
def shaSmall0 (x : Nat) : Nat := rotr32 x 7 ^^^ rotr32 x 18 ^^^ (x >>> 3)
def shaSmall1 (x : Nat) : Nat := rotr32 x 17 ^^^ rotr32 x 19 ^^^ (x >>> 10)

/-- The message schedule, newest word first, grown by `k` words. -/
def shaSchedule : Nat → List Nat → List Nat
  | 0, w => w
  | k + 1, w => shaSchedule k (((shaSmall1 (w.getD 1 0) + w.getD 6 0 + shaSmall0 (w.getD 14 0) + w.getD 15 0) % 2 ^ 32) :: w)

/-- One round over the working words a to h. -/
def shaRound (v : List Nat) (kw : Nat) : List Nat :=
  match v with
  | [a, b, c, d, e, f, g, h] =>
    let t := h + shaBig1 e + ((e &&& f) ^^^ ((2 ^ 32 - 1 - e) &&& g)) + kw
    [(t + shaBig0 a + ((a &&& b) ^^^ (a &&& c) ^^^ (b &&& c))) % 2 ^ 32, a, b, c, (d + t) % 2 ^ 32, e, f, g]
  | _ => v

/-- Big-endian words of a block's bytes. -/
def beWords : Nat → List Byte → List Nat
  | 0, _ => []
  | k + 1, bs => ((bs.take 4).foldl (fun a b => 256 * a + b.toNat) 0) :: beWords k (bs.drop 4)

/-- The hash words after a block. -/
def shaBlock (hs : List Nat) (block : List Byte) : List Nat :=
  let w := (shaSchedule 48 (beWords 16 block).reverse).reverse
  let v := (shaKs.zip w).foldl (fun v e => shaRound v (e.1 + e.2)) hs
  (hs.zip v).map (fun e => (e.1 + e.2) % 2 ^ 32)

/-- The hash words after `n` blocks. -/
def shaBlocks : Nat → List Nat → List Byte → List Nat
  | 0, hs, _ => hs
  | n + 1, hs, bs => shaBlocks n (shaBlock hs (bs.take 64)) (bs.drop 64)

/-- The bytes of a number, most significant first. -/
def natBe (v n : Nat) : List Byte := (natLe v n).reverse

/-- SHA-256 of a byte string, its first byte the most significant of the digest. -/
def sha256 (bs : List Byte) : BitVec 256 :=
  let n := bs.length
  let pad := bs ++ 0x80#8 :: List.replicate ((119 - n % 64) % 64) 0 ++ natBe (8 * n) 8
  BitVec.ofNat 256 ((shaBlocks (pad.length / 64) shaInit pad).foldl (fun a w => 2 ^ 32 * a + w) 0)

/-! ### RSASSA-PSS with SHA-256, MGF1-SHA-256 and a 32-byte salt -/

/-- The bytes of a digest, most significant first. -/
def digestBytes (d : BitVec 256) : List Byte := natBe d.toNat 32

/-- A digest as a number whose least significant byte is its first, as SEC.MEAS holds it (18). -/
def digestNat (d : BitVec 256) : Nat := leNat (digestBytes d)

/-- Squared `k` times modulo `n`. -/
def squares (n : Nat) : Nat → Nat → Nat
  | 0, x => x
  | k + 1, x => squares n k (x * x % n)

/-- The mask of 11 blocks from a seed. -/
def mgf1 (seed : List Byte) : List Byte :=
  ((List.range 11).map (fun c => digestBytes (sha256 (seed ++ natBe c 4)))).flatten.take 351

/-- A 3,072-bit signature verifies over a digest under a modulus and the exponent 65,537. -/
def pssOk (modulus signature : Nat) (digest : BitVec 256) : Bool :=
  let em := natBe (squares modulus 16 signature * signature % modulus) 384
  let h := (em.drop 351).take 32
  let db := ((em.take 351).zip (mgf1 h)).map (fun e => e.1 ^^^ e.2)
  let db := (db.take 1).map (· &&& 0x7F#8) ++ db.drop 1
  let salt := db.drop 319
  decide (signature < modulus) && (em.drop 383 == [0xBC#8]) && !(em.getD 0 0).getLsbD 7
    && (db.take 319 == List.replicate 318 0#8 ++ [1#8])
    && h == digestBytes (sha256 (List.replicate 8 0 ++ digestBytes digest ++ salt))

end Sys2Proof.Machine
end

