-- ==== Sys2Proof/Machine/Services.lean ====
section
/-! DEFINITION. The messages that identify, inspect, reset and steer the module, and attestation (14 R306-R308,
Table 14-11; 15 R337-R339; 17 R356, R357). -/

namespace Sys2Proof.Machine

/-! ### IDENTIFY and HEALTH -/

/-- The version of the running image of a class; 0 while it is not loaded. -/
def State.versionOf (s : State) (cls : Nat) : Nat :=
  ((s.fw.loaded.find? (fun i => i.cls.toNat == cls)).map (fun i => i.version.toNat)).getD 0

/-- The versions of the security, power, scheduler and hive images. -/
def State.versions (s : State) : List Byte := ([1, 2, 3, 4].map (fun c => natLe (s.versionOf c) 4)).flatten

/-- The running slot: 0 A, 1 B. -/
def State.slot (s : State) : Nat := s.field Off.fwlFwStat 59 59

/-- The identity record. -/
def State.identity (s : State) : List Byte :=
  [0x41#8, 0x48#8, 0x59#8, 0x2D#8, 0x34#8, 0x38#8, 0x33#8, 0x32#8] ++ natLe s.fw.fuses.serial.toNat 16 ++ natLe s.moduleNo 2
    ++ natLe (s.fw.traySlot.toNat + 4 * s.fw.trayId.toNat) 1 ++ natLe s.slot 1 ++ s.versions ++ natLe 0 12

/-- The FP32 nearest to a ratio, as 4 bytes. -/
def f32Bytes (n : Int) (d : Nat) : List Byte :=
  natLe (f32Div (.fin (decide (n < 0)) n.natAbs 0) (.fin false d 0)).toNat 4

/-- The module's eight readings of 14 Table 14-12 in FP32: input voltage and current, module power, inlet, outlet, flow, hottest junction
and hottest stack. -/
def State.readings (s : State) : List (List Byte) :=
  let dv := s.field Off.pwrMeas 15 0
  [f32Bytes dv 10, if dv = 0 then f32Bytes 0 1 else f32Bytes (10 * s.field Off.pwrMeas 63 48) dv, f32Bytes (s.field Off.pwrMeas 47 32) 1
  , f32Bytes (s.thm.inlet.getD 0) 10, f32Bytes (s.thm.outlet.getD 0) 10, f32Bytes s.thm.flow.1 s.thm.flow.2
  , f32Bytes (((s.hottest).map (·.2)).getD 0) 1, f32Bytes (s.field Off.thmStat 39 32) 1]

/-- IDENTIFY. -/
def State.actIdentify (s : State) : Acted := { s := s, reply := s.identity }

/-- UPD.EXP_STAT.STATE: off, in step, resynchronising, or the partner lost (09). -/
def State.expState (s : State) : Nat :=
  let e := s.fail.exp
  if !s.flag Off.updExpCtrl 0 then 0 else if e.lost then 3 else if e.resync then 2 else 1

/-- How many of the 64 contexts are in each of the states 0 to 6 of 12 Table 12-7. -/
def State.stateCounts (s : State) : List Nat :=
  (List.range 7).map (fun k => ((List.range 64).filter (fun x => (s.ctx x).state.toNat == k)).length)

/-- HEALTH: FWL.FW_STAT, the emergency causes, the counts of contexts by state and UPD.EXP_STAT.STATE, at places that the spec does not
give (log 47). -/
def State.actHealth (s : State) : Acted :=
  { s := s
    reply := natLe (s.reg Off.fwlFwStat) 8 ++ natLe s.causeBits 2 ++ (s.stateCounts.map (natLe · 1)).flatten ++ natLe s.expState 1 }

/-- RESET_MODULE: the reset is due DELAY_MS after. -/
def State.actReset (s : State) (m : Msg) : Acted :=
  { s := { s with mail := { s.mail with resetAt := some (s.clk.now + m.get 0 2 * 1000000000) } } }

/-! ### SET_BUDGET and SET_FREQ (15 R337-R339) -/

/-- A change for lock cycle `at_` is armed unless that is less than 64 lock cycles ahead on arrival, or has passed when a message
held in its mailbox is acted on; 0 is the first boundary after the acknowledgement, on this module alone. -/
def State.armAt (s : State) (type at_ : Nat) (arm : State → Nat → State) : Acted :=
  let k := boxKey (.towpath .power)
  if at_ = 0 then { s := s.modBox k (fun b => { b with armOnAck := true }) }
  else if at_ < (s.box k).arrivedLc + 64 ∨ at_ ≤ s.lcNow then (s.powerLog 3 false 0x02 [0x07, type, at_]).refuseMsg stBusy 0
  else { s := arm s at_ }

/-- SET_BUDGET. -/
def State.actSetBudget (s : State) (m : Msg) : Acted :=
  if m.get 0 4 < 600 ∨ 4800 < m.get 0 4 then s.refuseMsg stBadDescriptor 8
  else s.armAt 0x10 (m.get 6 6) (fun s lc => s.armBudget (m.get 0 4) (m.get 4 2) lc)

/-- SET_FREQ. -/
def State.actSetFreq (s : State) (m : Msg) : Acted :=
  if m.get 0 1 < 14 ∨ 28 < m.get 0 1 then s.refuseMsg stBadDescriptor 8
  else if 1 < m.get 1 1 then s.refuseMsg stBadDescriptor 9
  else s.armAt 0x11 (m.get 2 6) (fun s lc => s.armFreq (m.get 0 1) (m.get 1 1) lc)

/-! ### Measurements and ATTEST (17 R356, R357) -/

/-- A measurement register, and the state with one replaced. -/
def State.meas (s : State) (i : Nat) : Nat :=
  s.reg (Off.secMeas i 0) + s.reg (Off.secMeas i 1) * 2 ^ 64 + s.reg (Off.secMeas i 2) * 2 ^ 128 + s.reg (Off.secMeas i 3) * 2 ^ 192
def State.setMeas (s : State) (i : Nat) (d : BitVec 256) : State :=
  let v := digestNat d
  (List.range 4).foldl (fun s w => s.setReg (Off.secMeas i w) (bits v (64 * w + 63) (64 * w))) s

/-- A measurement as it is read: those of the main domain are zero while that is down. -/
def State.measured (s : State) (i : Nat) : Nat :=
  if !s.mainUp && (i == 3 || i == 4 || i == 5 || i == 7) then 0 else s.meas i

/-- The first 384 bytes of an attestation report. -/
def State.reportBody (s : State) (nonce : Nat) : List Byte :=
  natLe 0x41545354 4 ++ natLe 1 2 ++ natLe 0 2 ++ natLe nonce 32 ++ natLe (s.field Off.secBootStat 31 0) 8
    ++ natLe s.fw.fuses.serial.toNat 16 ++ ((List.range 10).map (fun i => natLe (s.measured i) 32)).flatten

/-- The signature of the security core's engine with a key, over the SHA-256 of bytes: 384 bytes. -/
def State.signed (s : State) (key : Nat) (bs : List Byte) : List Byte :=
  let g := Config.sign s.fw.fuses.deviceKeys key (sha256 bs)
  (g ++ List.replicate 384 0).take 384

/-- The attestation report for a nonce. -/
def State.report (s : State) (nonce : Nat) : List Byte := s.reportBody nonce ++ s.signed 1 (s.reportBody nonce)

/-- ATTEST: a host gets the report in its host window, at an address aligned to 64 bytes, another in the reply (log 22). -/
def State.actAttest (s : State) (src : MsgSrc) (m : Msg) : Acted :=
  let r := s.report (m.get 0 32)
  match src with
  | .host x =>
    let a := m.get 32 6
    if isHostAddr a && s.mayAccess x.val a 768 then { s := s.stores x.val a r } else s.refuseMsg stBadAddress 0
  | _ => { s := s, reply := r }

/-! ### The commands -/

/-- IDENTIFY. -/
def execIdentify (src : MsgSrc) (m : Msg) (s : State) : Out := .next (s.messageArrives 0x01 src m State.actIdentify)

/-- HEALTH. -/
def execHealth (src : MsgSrc) (m : Msg) (s : State) : Out := .next (s.messageArrives 0x02 src m State.actHealth)

/-- RESET_MODULE. -/
def execResetModule (src : MsgSrc) (m : Msg) (s : State) : Out :=
  .next (s.messageArrives 0x03 src m (fun s => s.actReset m))

/-- SET_BUDGET. -/
def execSetBudget (src : MsgSrc) (m : Msg) (s : State) : Out :=
  .next (s.messageArrives 0x10 src m (fun s => s.actSetBudget m))

/-- SET_FREQ. -/
def execSetFreq (src : MsgSrc) (m : Msg) (s : State) : Out :=
  .next (s.messageArrives 0x11 src m (fun s => s.actSetFreq m))

/-- A report for a host waits while the module may not write to it: the host is lost, or a stream holds the request
(12 R262, 17 R363). -/
def State.attestReady (s : State) (src : MsgSrc) (m : Msg) : Bool :=
  match src with
  | .host x =>
    let a := m.get 32 6
    m.reply || !isHostAddr a || !s.mayAccess x.val a 768
      || ((s.hostOk x.val || ((s.ctx x.val).state == 0 && s.hostUp (s.funcOf x.val))) && !s.ideHolds (s.funcOf x.val) (s.busAddr x.val a))
  | _ => true

/-- ATTEST. -/
def execAttest (src : MsgSrc) (m : Msg) (s : State) : Out :=
  .next (if s.attestReady src m then s.messageArrives 0x30 src m (fun s => s.actAttest src m) else s)

end Sys2Proof.Machine
end

