-- ==== Sys2Proof/Machine/Firmware.lean ====
section
/-! DEFINITION. Images and their verification, staging over PLDM, fuses, and activations (14 R289, R297-R300; 13 R286;
17 R351-R356). -/

namespace Sys2Proof

open Machine

/-! ### Signature trailers and settings regions (17 R352, R355; 14 Table 14-5) -/

/-- The hash of a trailer's key: its bytes 0 to 387. -/
def Trailer.keyHash (t : Trailer) : BitVec 256 := sha256 (natLe t.modulus.toNat 384 ++ natLe t.exponent.toNat 4)

/-- The reserved bytes are zero and the exponent is 65,537. -/
def Trailer.plain (t : Trailer) : Bool := t.reserved == 0 && t.exponent == 65537

/-- The signature verifies over a digest. -/
def Trailer.verifies (t : Trailer) (digest : BitVec 256) : Bool := pssOk t.modulus.toNat t.signature.toNat digest

/-- The bytes of a settings record. -/
def SettingsRecord.bytes (r : SettingsRecord) : List Byte :=
  natLe r.offset.toNat 4 ++ natLe r.width.toNat 1 ++ natLe r.flags.toNat 1 ++ natLe r.reserved.toNat 2 ++ natLe r.value.toNat 8

/-- The header of a settings image is sound, and its DIGEST is that of its records (14 R296, Table 14-5). -/
def Settings.headerOk (t : Settings) : Bool :=
  t.magic == 0x53544753 && t.format == 1 && t.pad == 0 && t.reserved == 0 && decide (t.count.toNat ≤ 16000)
    && decide (t.count.toNat = t.records.length)
def Settings.digestOk (t : Settings) : Bool := decide (t.digest = sha256 (t.records.map SettingsRecord.bytes).flatten)

end Sys2Proof

namespace Sys2Proof.Machine

/-! ### Flash devices and verification (17 R352, R353) -/

/-- The flash device of a slot, and the state with one changed. -/
def State.device (s : State) (k : Nat) : Device := if k = 0 then s.fw.dev0 else s.fw.dev1
def State.modDevice (s : State) (k : Nat) (f : Device → Device) : State :=
  if k = 0 then { s with fw := { s.fw with dev0 := f s.fw.dev0 } } else { s with fw := { s.fw with dev1 := f s.fw.dev1 } }

/-- The image of a class in a slot's directory of 128 entries, those that are VALID. -/
def Device.image (d : Device) (cls : Nat) : Option Image :=
  (d.images.take 128).find? (fun i => i.flags.getLsbD 0 && i.cls.toNat == cls)

/-- The boot header names a slot that may boot. -/
def Device.bootable (d : Device) : Bool := d.magic == 0x42594148 && d.format == 1 && d.valid

/-- The reason for which Dravric's keys do not vouch for a digest: 2 trailer, 3 key hash, 4 key revoked, 5 signature; 0 passes. -/
def Fuses.trailerCode (u : Fuses) (t : Trailer) (digest : BitVec 256) : Nat :=
  let k := t.keyIndex.toNat
  if !t.plain || decide (3 < k) then 2
  else if u.rootHash.getD k 0 ≠ t.keyHash then 3
  else if k ≠ 3 ∧ u.revoke.getLsbD k then 4
  else if t.verifies digest then 0
  else 5

/-- The reason for which an image fails verification, as SEC.BOOT_STAT.LAST_FAIL numbers it: 1 length or offset, 2 trailer, 3 key
hash, 4 key revoked, 5 signature, 6 SVN; 0 passes. A class whose image is missing fails on its length. -/
def Fuses.failCode (u : Fuses) : Option Image → Nat
  | none => 1
  | some i =>
    if i.length.toNat < 5120 ∨ 0x4000000 < i.offset.toNat + i.length.toNat ∨ i.offset.toNat % 4096 ≠ 0 then 1
    else
      let t := u.trailerCode i.trailer i.digest
      if t ≠ 0 then t
      else if i.svn.toNat < u.svnMin.getD (i.cls.toNat - 1) 0 ∨ 64 < i.svn.toNat then 6
      else 0

/-- A verification failure is logged, counted and reported (R353). -/
def State.verifyFailed (s : State) (cls slot code : Nat) : State :=
  ((s.note 5 true 0x01 0x0701 [cls, slot] none 0x60).setField Off.secBootStat 55 48 code).countField Off.secBootStat 47 32 1

/-- The first class of a list whose image in a slot fails, and why. -/
def State.firstFail (s : State) (slot : Nat) (classes : List Nat) : Option (Nat × Nat) :=
  classes.findSome? (fun c => let k := s.fw.fuses.failCode ((s.device slot).image c); if k = 0 then none else some (c, k))

/-! ### The running images (14 R300, 17 R354, R356) -/

/-- A core's image class, and its bit in CORES. -/
def coreClass : Core → Nat
  | .security => 1
  | .power => 2
  | .scheduler => 3
  | .hiveControl => 4
def coreBit (c : Core) : Nat := coreClass c - 1

/-- FW_STAT shows the versions of the running images. -/
def State.showVersions (s : State) : State :=
  let major := fun c => s.versionOf c / 2 ^ 24
  (((s.setField Off.fwlFwStat 55 48 (major 1)).setField Off.fwlFwStat 47 40 (major 2)).setField Off.fwlFwStat 39 32 (major 3)).setField
    Off.fwlFwStat 31 24 (major 4)

/-- Measurement 9: the SHA-256 of the directory SVN of each running class, five values of 4 bytes. -/
def State.measureSvns (s : State) : State :=
  s.setMeas 9 (sha256 (([1, 2, 3, 4, 5].map (fun c =>
    natLe (((s.fw.loaded.find? (fun i => i.cls.toNat == c)).map (fun i => i.svn.toNat)).getD 0) 4)).flatten))

/-- An image runs: its measurement replaces that of its class. -/
def State.loadImage (s : State) (i : Image) : State :=
  let s : State := { s with fw := { s.fw with loaded := s.fw.loaded.filter (fun j => decide (j.cls ≠ i.cls)) ++ [i] } }
  ((s.setMeas i.cls.toNat i.digest).measureSvns).showVersions

/-- A measurement changes. -/
def State.measCount (s : State) : State := s.setField Off.secBootStat 31 0 ((s.field Off.secBootStat 31 0 + 1) % 2 ^ 32)

/-- The SVN to which a class's minimum rises: both slots, of which none failed in this boot, hold an image of it that passes verification
and is at least so new, and one so new runs (R354). -/
def State.svnFloor (s : State) (c : Nat) : Nat :=
  let u := s.fw.fuses
  let old := u.svnMin.getD (c - 1) 0
  match (s.fw.dev0).image c, (s.fw.dev1).image c, s.fw.loaded.find? (fun i => i.cls.toNat == c) with
  | some a, some b, some r =>
    let v := min (min a.svn.toNat b.svn.toNat) r.svn.toNat
    if old < v ∧ s.fw.failedSlots = [] ∧ u.failCode (some a) = 0 ∧ u.failCode (some b) = 0 then v else old
  | _, _, _ => old

/-- SVN_MIN rises where it may, once a boot or an activation is complete. -/
def State.raiseSvn (s : State) : State :=
  { s with fw := { s.fw with fuses := { s.fw.fuses with svnMin := (List.range 5).map (fun k => s.svnFloor (k + 1)) } } }

/-! ### Staging over PLDM and fuses (14 Table 14-12; 17 R351, R353, R355) -/

/-- A PLDM or fuse request's answer: 0 done, 1 refused, 5 not supported. -/
def State.answer (s : State) (kind : String) (code : Nat) (payload : List Byte := []) : State := s.send (.response kind code payload)

/-- The security core runs and the towpath answers. -/
def State.securityUp (s : State) : Bool := s.pwr.aux && s.towpathUp && !s.fw.restarting.contains .security

/-- The reason for which a settings image fails its digest or the owner policy (R355), as LAST_FAIL numbers it: a header or digest
that fails counts as a signature (log 27); 7 where no image is taken. KEY_INDEX is ignored. -/
def Fuses.settingsCode (u : Fuses) (t : Settings) : Nat :=
  if !t.headerOk || !t.digestOk then 5
  else
    match u.ownerMode.toNat with
    | 0 => 0
    | 1 =>
      if !t.trailer.plain then 2
      else if t.trailer.keyHash ≠ u.ownerHash then 3
      else if t.trailer.verifies t.regionDigest then 0
      else 5
    | _ => 7

/-- A settings image that OWNER_MODE signed turns away is a verification failure. -/
def State.settingsFailed (s : State) (slot code : Nat) : State :=
  if s.fw.fuses.ownerMode = 1 then s.verifyFailed 0x10 slot code else s

/-- An image replaces the staged one of its class in a slot; the entry of one refused is not VALID. -/
def State.stage (s : State) (slot : Nat) (i : Image) (ok : Bool) : State :=
  let i : Image := { i with flags := i.flags &&& 0xFE ||| (if ok then 1 else 0) }
  s.modDevice slot (fun d => { d with images := d.images.filter (fun j => decide (j.cls ≠ i.cls)) ++ [i] })

/-- The answer to a PLDM request other than firmware update: the types, a reading, or a record, of which the crash log is one (14 R314,
Table 14-12). -/
def State.pldmData (s : State) : PldmQuery → List Byte
  | .discovery => [0, 2, 4, 5]
  | .sensor i => s.readings.getD i.val []
  | .fru false => s.identity
  | .fru true => if s.flag Off.fwlLogStat 63 then s.log.crash.flatMap LogRec.bytes else []

/-- PLDM_UPDATE_COMPONENT: verified on transfer, and staged in the inactive slot, written to both devices, or fused. Other PLDM
requests are answered too, but in recovery. -/
def execPldmUpdateComponent (c : Component) (s : State) : Out :=
  let unlisted := (s.noteFree 2 false 0x01 []).answer "PLDM" 5
  if !s.securityUp then .next s
  else
    match c with
    | .image i =>
      let k := 1 - s.slot
      if i.cls.toNat < 1 ∨ 5 < i.cls.toNat then .next unlisted
      else
        let bad := s.fw.fuses.failCode (some i)
        if bad = 0 then .next ((s.stage k i true).answer "PLDM" 0)
        else .next (((s.stage k i false).verifyFailed i.cls.toNat k bad).answer "PLDM" 1)
    | .settings t =>
      let bad := s.fw.fuses.settingsCode t
      if bad = 0 then
        .next (((s.modDevice 0 (fun d => { d with settings := some t })).modDevice 1 (fun d => { d with settings := some t })).answer
          "PLDM" 0)
      else .next ((s.settingsFailed (1 - s.slot) bad).answer "PLDM" 1)
    | .revocation mask digest trailer =>
      let u := s.fw.fuses
      let bad := u.trailerCode trailer digest
      if bad = 0 then
        .next (State.answer { s with fw := { s.fw with fuses := { u with revoke := u.revoke ||| (mask &&& 7) } } } "PLDM" 0)
      else .next ((s.verifyFailed 0 (1 - s.slot) bad).answer "PLDM" 1)
    | .query q => .next (if s.recovery then s else s.answer "PLDM" 0 (s.pldmData q))
    | .unlisted => .next unlisted

/-- OWNER_MODE_FUSE_WRITE: the owner writes its policy once; in recovery the towpath does not take it (14 R294). -/
def execOwnerModeFuseWrite (mode : BitVec 2) (hash : BitVec 256) (s : State) : Out :=
  let u := s.fw.fuses
  if !s.securityUp || s.recovery || decide (u.ownerMode ≠ 0 ∨ u.ownerHash ≠ 0) then .next s
  else .next (State.setField { s with fw := { s.fw with fuses := { u with ownerMode := mode, ownerHash := hash } } }
    Off.secBootStat 62 61 mode.toNat)

/-! ### Activation (14 R297-R300) -/

/-- The cores of a CORES mask, in the order in which they change. -/
def coresOf (cores : Nat) : List Core :=
  [Core.scheduler, .hiveControl, .power, .security].filter (fun c => cores.testBit (coreBit c))

/-- FW_STAT.ACTIVATION. -/
def State.showActivation (s : State) : State :=
  s.setField Off.fwlFwStat 63 62 (match s.fw.act with
    | none => 0
    | some a => if a.running then 2 else 1)

/-- The state with the activation replaced. -/
def State.setAct (s : State) (a : Option Activation) : State := State.showActivation { s with fw := { s.fw with act := a } }

/-- The image to change to hands its state to one of another format (R297). -/
def State.handoffDiffers (s : State) (slot : Nat) (c : Core) : Bool :=
  match (s.device slot).image (coreClass c), s.fw.loaded.find? (fun i => i.cls.toNat == coreClass c) with
  | some a, some b => decide (a.handoff ≠ b.handoff) && (c == .scheduler || c == .hiveControl)
  | _, _ => false

/-- The staged images are verified; a status other than OK refuses the activation. -/
def State.verifyStaged (s : State) (slot cores : Nat) : State × Nat :=
  match s.firstFail slot ((coresOf cores).map coreClass) with
  | some (c, k) => (s.verifyFailed c slot k, stAuthFail)
  | none => (s, if (coresOf cores).any (s.handoffDiffers slot) then stVersionMismatch else stOk)

/-- An activation begins. -/
def State.beginActivation (s : State) (slot cores : Nat) (cmd : Option (Nat × Nat)) : State :=
  State.setAct { s with fw := { s.fw with previous := s.fw.loaded } }
    (some { slot := slot, cores := cores, cmd := cmd, running := true, started := s.clk.now, todo := coresOf cores })

/-- The outcome of an activation: logged, sent, and the command that waits for it completes. The versions that the entry's A2
names do not fit it, and are left free. -/
def State.fwResult (s : State) (a : Activation) (status : Nat) : State :=
  let s := s.drawn.note 2 true 0x01 0x0702 [a.cores, a.slot, s.freeBelow (2 ^ 64)] none status
  let s := s.send (.towpath 0x0051 (natLe status 1 ++ natLe a.slot 1 ++ s.versions))
  let s := match a.cmd with
    | some (x, idx) => s.complete x idx status 0
    | none => s
  s.setAct none

/-- What a request to activate does: withdraw a deferred one, BUSY, deferral in an emergency, a refusal, whose outcome is logged and
sent like any other, or a start. -/
def State.requestActivation (s : State) (slot cores : Nat) (cmd : Option (Nat × Nat)) : State × Nat :=
  match s.fw.act with
  | some a => if cores = 0 then (if a.running then s else s.setAct none, stOk) else (s, stBusy)
  | none =>
    if cores = 0 then (s, stOk)
    else if s.emergency then (s.setAct (some { slot := slot, cores := cores }), stDeferred)
    else
      let (s, st) := s.verifyStaged slot cores
      (if st = stOk then s.beginActivation slot cores cmd else s.fwResult { slot := slot, cores := cores } st, st)

/-- FW_ACTIVATE: completes at once, or once the activation that it starts is complete (13 R286). -/
def execFwActivate (x : Ctx) (s : State) : Out :=
  match s.startableOp x.val 0x20 (some 5) with
  | none => .next s
  | some d =>
    let cores := d.f 83 80
    let (t, st) := (s.start x.val d.idx).requestActivation (d.f 72 72) cores (some (x.val, d.idx))
    .next (if st = stOk ∧ cores ≠ 0 then t else t.complete x.val d.idx st 0)

/-- The FW_ACTIVATE message: accepted, deferred or refused; FW_RESULT follows. -/
def State.actFwActivate (s : State) (m : Msg) : Acted :=
  let (t, st) := s.requestActivation (m.get 0 1) (m.get 1 1) none
  { s := t, code := retCode st (if st = stBusy then 2 else 0) }

/-- FW_ACTIVATE_MESSAGE. -/
def execFwActivateMessage (src : MsgSrc) (m : Msg) (s : State) : Out :=
  .next (s.messageArrives 0x50 src m (fun s => s.actFwActivate m))

/-- The module has been out of emergency for 1 s. -/
def State.calm (s : State) : Bool := !s.emergency && decide (s.fw.calmSince + 1000000000000 ≤ s.clk.now)

/-- ACTIVATION_START: a deferred activation starts (R299). -/
def execActivationStart (s : State) : Out :=
  match s.fw.act with
  | none => .next s
  | some a =>
    if a.running || !s.calm then .next s
    else
      let (t, st) := s.verifyStaged a.slot a.cores
      .next (if st = stOk then t.beginActivation a.slot a.cores none else t.fwResult a st)

/-- A core is reset: its mailboxes are cleared, and their senders read ABORTED (R305). -/
def State.resetCore (s : State) (c : Core) : State :=
  let keys := [Core.security, .power, .scheduler, .hiveControl].map (fun a => boxKey (.cores a c)) ++ [boxKey (.towpath c)]
  let s := keys.foldl (fun s k =>
    let b := s.box k
    let s := s.clearBox k
    match b.full, b.src with
    | true, some src => s.send (.ack src 0x0040 [])
    | _, _ => s) s
  let s : State := { s with fw := { s.fw with restarting := c :: s.fw.restarting } }
  if c = .security then { s with io := { s.io with spdm := [] } } else s

/-- SOLO_RESTART: the power or security core whose turn it is resets; not in an emergency, nor within 1 s of one that came
during the activation (R298, R299). -/
def execSoloRestart (c : Core) (s : State) : Out :=
  match s.fw.act with
  | none => .next s
  | some a =>
    whenReady (a.running && a.todo.head? == some c && (c == .power || c == .security) && !s.fw.restarting.contains c
      && !s.emergency && (s.calm || decide (s.fw.calmSince ≤ a.started))) s (s.resetCore c)

/-- Every core is ready: the slot's BOOT_GEN goes above the other's, and it is the running slot. -/
def State.activated (s : State) (a : Activation) : State :=
  let other := (s.device (1 - a.slot)).bootGen
  let s := s.modDevice a.slot (fun d => { d with
    valid := true, bootGen := BitVec.ofNat 32 (max d.bootGen.toNat (other.toNat + 1)) })
  ((s.setField Off.fwlFwStat 59 59 a.slot).raiseSvn).fwResult a stOk

/-- A core missed its bound: every core that has changed returns to its image by the same procedure, which for a solo restart clears
its mailboxes, and the outcome is INTERNAL. -/
def State.rolledBack (s : State) (a : Activation) : State :=
  let busy := s.fw.restarting
  let s := (a.changed.filter (fun c => c == .power || c == .security)).foldl State.resetCore s
  let s : State := { s with fw := { s.fw with restarting := busy } }
  let back := s.fw.previous.filter (fun i => a.changed.any (fun c => coreClass c == i.cls.toNat))
  (back.foldl (fun s i => (s.loadImage i).measCount) s).fwResult a stInternal

/-- CORE_READY: the core whose turn it is has changed its image, or has missed its bound (R300). -/
def execCoreReady (c : Core) (ok : Bool) (s : State) : Out :=
  match s.fw.act with
  | none => .next s
  | some a =>
    let solo := c == .power || c == .security
    if !a.running || a.todo.head? != some c || (solo && !s.fw.restarting.contains c) then .next s
    else
      let s : State := { s with fw := { s.fw with restarting := s.fw.restarting.erase c } }
      match ok, (s.device a.slot).image (coreClass c) with
      | true, some i =>
        let a := { a with todo := a.todo.drop 1, changed := a.changed ++ [c] }
        let s := ((s.loadImage i).measCount).setAct (some a)
        .next (if a.todo.isEmpty then s.activated a else s)
      | _, _ => .next (s.rolledBack a)

end Sys2Proof.Machine
end

