-- ==== Sys2Proof/Machine/Mailbox.lean ====
section
/-! DEFINITION. The mailbox windows of host contexts, and acknowledgements (12 R247; 14 R301-R305). -/

namespace Sys2Proof.Machine

/-- A non-posted write completes; a posted one has no completion. -/
def State.dmwrDone (s : State) (f : Nat) (dmwr : Bool) (code : Nat) : State :=
  if dmwr then s.send (.completion f code) else s

/-- A write of a message slot that cannot be taken: Completer Abort and a count, or OVERRUN. -/
def State.slotRefused (s : State) (f x : Nat) (dmwr : Bool) : State :=
  if dmwr then (s.countField (Off.hifFuncStat f) 15 0 1).send (.completion f 2)
  else s.modBox x (fun b => { b with overrun := true })

/-- A write of the message slot of a window: 64 bytes at its start, into an empty slot (12 R247). -/
def State.slotWrite (s : State) (f : Nat) (x : Ctx) (dmwr : Bool) (offset : Nat) (data : List Byte) : State :=
  if offset ≠ 0 ∨ data.length ≠ 64 then s.slotRefused f x.val dmwr
  else if (s.box x.val).full then
    let t := s.slotRefused f x.val dmwr
    if dmwr then t else t.noteFree 2 false 0x50 [] (some x.val)
  else (s.putBox x.val (.host x) (msgOfBytes data)).dmwrDone f dmwr 0

/-- A write beyond the slot: IN_ACK and IN_STATUS clear the bits written 1, other writes are ignored (14 Table 14-7). -/
def State.windowWrite (s : State) (f : Nat) (x : Ctx) (dmwr : Bool) (offset : Nat) (data : List Byte) : State :=
  let v := leNat data
  let s := if offset = 0x40 ∧ data.length = 4 ∧ v.testBit 31 then s.modBox x.val (fun b => { b with valid := false })
    else if offset = 0x44 ∧ data.length = 4 ∧ v.testBit 1 then s.modBox x.val (fun b => { b with overrun := false })
    else s
  s.dmwrDone f dmwr 0

/-- IN_SLOT: a host write in a mailbox window (12 R245, R247). How a DMWr to a foreign window completes the spec does not say. -/
def execInSlot (f : Func) (x : Ctx) (dmwr : Bool) (offset : Nat) (data : List Byte) (s : State) : Out :=
  if !s.barOpen then .next s
  else if !s.funcOwns f.val (some x.val) then
    .next (((s.ignored f.val (0x4000 * x.val + offset) (leNat (data.take 8))).drawn).dmwrDone f.val dmwr (s.freeBelow 3))
  else .next (if offset < 64 then s.slotWrite f.val x dmwr offset data else s.windowWrite f.val x dmwr offset data)

/-- OUT_ACK: the host acknowledges the message in its outbound mailbox (14 R303). -/
def execOutAck (f : Func) (x : Ctx) (v : BitVec 32) (s : State) : Out :=
  if !s.barOpen then .next s
  else if !s.funcOwns f.val (some x.val) then .next (s.ignored f.val (0x4000 * x.val + 0xC4) v.toNat)
  else if (s.box (64 + x.val)).full then
    .next ((s.modBox (64 + x.val) (fun b => { b with full := false, ack := some (v.setWidth 16) })).irq (s.funcOf x.val) 0)
  else .next s

/-- What acting on a message of the catalogue is. -/
def State.actOn (s : State) (src : MsgSrc) (m : Msg) : Option Acted :=
  match m.type.toNat with
  | 0x01 => some s.actIdentify
  | 0x02 => some s.actHealth
  | 0x03 => some (s.actReset m)
  | 0x10 => some (s.actSetBudget m)
  | 0x11 => some (s.actSetFreq m)
  | 0x20 => some (s.actRankMove m)
  | 0x21 => some (s.actJobAction m)
  | 0x30 => some (s.actAttest src m)
  | 0x50 => some (s.actFwActivate m)
  | _ => none

/-- The receiver acts on the message in a mailbox that it has not acted on (R306). -/
def State.actNow (s : State) (k : Nat) (src : MsgSrc) (m : Msg) : State :=
  if !s.attestReady src m && m.type.toNat == 0x30 then s
  else
    let r := s.answerTo src m (fun s => (s.actOn src m).getD { s := s })
    r.s.decided k r.code r.reply

/-- The receiver of a mailbox runs. -/
def State.receiverRuns (s : State) (k : Nat) : Bool :=
  match boxReceiver k with
  | some c => !s.fw.restarting.contains c && (decide (768 ≤ k) || s.mainUp)
  | none => false

/-- The reply to a host waits for its outbound mailbox to be empty (R302). -/
def State.replyFits (s : State) (src : MsgSrc) (reply : List Byte) : Bool :=
  match src with
  | .host x => reply.isEmpty || !(s.box (64 + x.val)).full
  | _ => true

/-- MAILBOX_ACK: the receiver writes its return code, once it has acted on the message (R301). -/
def execMailboxAck (m : MailboxId) (s : State) : Out :=
  let k := boxKey m
  let b := s.box k
  match b.full && s.receiverRuns k, b.msg, b.src with
  | true, some g, some src =>
    let s := if b.result.isSome then s else s.actNow k src g
    match (s.box k).result with
    | some (code, reply) => .next (if s.replyFits src reply then s.acknowledge k src g code reply else s)
    | none => .next s
  | _, _, _ => .next s

end Sys2Proof.Machine
end

