-- ==== Sys2Proof/Machine/Logging.lean ====
section
/-! DEFINITION. The log as commands: entries, the host ring's head, trace points (14 R310-R315). -/

namespace Sys2Proof.Machine

/-- LOG_ENTRY: a core or unit writes an entry; the log memory works while AUX_12V is present. -/
def execLogEntry (a : LogArgs) (s : State) : Out := whenReady s.pwr.aux s (s.logEntry a)

/-- The gap entry goes to the host ring whatever severity the ring takes (R313). -/
def State.noteGap (s : State) (seq : BitVec 32) (lost : Nat) : State :=
  let t := State.note { s with log := { s.log with gap := none } } 3 false 0x03 0x0F01 [seq.toNat, lost]
  if s.flag Off.fwlLogCfg 31 && decide (4 ≤ s.field Off.fwlLogCfg 10 8) then (t.log.mem.take 1).foldl State.logToRing t else t

/-- What a write of FWL.LOG_POS does: the host has consumed entries; where entries were lost, a gap entry comes first (R313). -/
def State.writeLogHead (s : State) (f : Nat) (v : Word) : State :=
  if !s.mayWrite f .pf 0 0 then s.ignored f Off.fwlLogPos v.toNat
  else
    let s := s.setField Off.fwlLogPos 31 0 (v.toNat % 2 ^ 32)
    match s.log.gap with
    | some (q, n) =>
      if s.logRingFull s.log.seq then s
      else s.noteGap q n
    | none => s

/-- LOG_HEAD_WRITE. -/
def execLogHeadWrite (f : Func) (v : Word) (s : State) : Out := .next (if s.barOpen then s.writeLogHead f.val v else s)

/-- The trace point exists (14 Table 14-15). -/
def traceExists (n : Nat) : Bool := decide (n < 1536)

/-- The SOURCE of a trace point's entries: by group; which unit of a group of several passes the point is left free. -/
def State.traceSource (s : State) (n : Nat) : Nat :=
  if n < 256 then 0x00 else if n < 512 then 0x10 else if n < 768 then 0x02 else if n < 1024 then 0x01
  else if n < 1280 then 0x20 + s.freeBelow 3 else 0x30 + s.freeBelow 2

/-- TRACE_POINT: an enabled point is passed. -/
def execTracePoint (n : Fin 4096) (args : List Word) (s : State) : Out :=
  whenReady (s.pwr.aux && traceExists n.val && s.flag (Off.fwlTraceEn (n.val / 32)) (n.val % 32)) s
    (s.drawn.note 0 false (s.traceSource n.val) (0xF000 + n.val) (args.map BitVec.toNat))

end Sys2Proof.Machine
end

