-- ==== Sys2Proof/Machine/Gf.lean ====
section
/-! DEFINITION. Reed-Solomon codes over a binary field, and the lanes of a link frame (11 R213, Table 11-1). -/

namespace Sys2Proof.Machine

/-- A binary field: its width and its polynomial. -/
structure Field2 where
  bits : Nat
  poly : Nat
deriving DecidableEq, Repr

/-- A product by the field's root. -/
def Field2.twice (f : Field2) (a : Nat) : Nat := if a.testBit (f.bits - 1) then (2 * a) ^^^ f.poly else 2 * a

/-- A product in the field: the first factor's multiples by the powers of the root, with fuel. -/
def Field2.mulFrom (f : Field2) : Nat → Nat → Nat → Nat
  | 0, _, _ => 0
  | k + 1, a, b => (if b.testBit 0 then a else 0) ^^^ f.mulFrom k (f.twice a) (b / 2)
def Field2.mul (f : Field2) (a b : Nat) : Nat := f.mulFrom f.bits a b

/-- A power in the field. -/
def Field2.pow (f : Field2) (a : Nat) : Nat → Nat
  | 0 => 1
  | n + 1 => f.mul a (f.pow a n)

/-- Two coefficient lists added, the highest power last. -/
def polyAdd : List Nat → List Nat → List Nat
  | [], q => q
  | p, [] => p
  | a :: p, b :: q => (a ^^^ b) :: polyAdd p q

/-- The polynomial with the roots α^0 to α^(n-1), the constant term first. -/
def Field2.generator (f : Field2) : Nat → List Nat
  | 0 => [1]
  | n + 1 =>
    let g := f.generator n
    polyAdd (g.map (f.mul (f.pow 2 n))) (0 :: g)

/-- The remainder of a message times x^n, divided by the generator of degree n; the message's highest power and the
remainder's come first. -/
def Field2.parity (f : Field2) (n : Nat) (msg : List Nat) : List Nat :=
  let g := (f.generator n).reverse.drop 1
  msg.foldl (fun r m =>
    let q := m ^^^ r.headD 0
    List.zipWith (fun a b => a ^^^ f.mul q b) (r.drop 1 ++ [0]) g) (List.replicate n 0)

/-! ### Link frames (11 R213, Table 11-2) -/

/-- The field of the RS(544,514) code of 802.3: ten bits, x^10 + x^3 + 1 (PRESUMED, log 29). -/
def linkField : Field2 := ⟨10, 0x409⟩

/-- The 5,140 bytes of frame data: frame control in bytes 0 to 19, and flit j from byte 20 + 128 j. -/
def frameData (f : Frame) : List Byte :=
  let map := (List.range 40).foldr (fun j n => 4 * n + (f.map.getD j 0).toNat) 0
  natLe f.frame.toNat 7 ++ natLe f.tag.toNat 1 ++ natLe map 10 ++ natLe f.credit.toNat 2
    ++ ((List.range 40).map (fun j => padTo 128 ((f.flits.getD j []).take 128))).flatten

/-- Bytes taken into symbols of ten bits, least significant bit first. -/
def symbolsOf (bs : List Byte) : List Nat :=
  (pieces 5 bs.length bs).flatMap (fun b => (List.range 4).map (fun i => leNat b / 1024 ^ i % 1024))

/-- The codeword of each lane: message symbol k goes on lane k mod 8 as its symbol k / 8, and 30 parity symbols follow. -/
def frameLanes (f : Frame) : List (List Nat) :=
  let ks := symbolsOf (frameData f)
  (List.range 8).map (fun l =>
    let m := (List.range 514).map (fun i => ks.getD (8 * i + l) 0)
    m ++ linkField.parity 30 m)

end Sys2Proof.Machine
end

