-- ==== Sys2Proof/Machine/Stacks.lean ====
section
/-! DEFINITION. Stack controllers: accesses and the outer code, repair, scrub, refresh, sluices, temperature and training
(07 R119-R123, R130-R139). -/

namespace Sys2Proof.Machine

/-! ### Partitions and sluices (07 R121-R123) -/

/-- The number of the sluice window of 64 frames. -/
def State.sluiceNo (s : State) : Nat := if s.clk.lock then s.clk.frame / 64 else s.clk.now / (64 * framePs)

/-- What a window leaves to the next: a command moves at once what the hardware spreads over windows, so time charged to a
partition beyond its maximum, and its part of what all were charged beyond the window, count there (log 33). -/
def StackSt.carry (k : StackSt) (time : Nat) : SMap Nat :=
  let used := (k.charged.map (·.2)).sum
  (k.charged.map (fun e => (e.1, max (e.2 - k.maxTime time e.1) (e.2 * (used - time) / used)))).filter (fun e => decide (e.2 ≠ 0))

/-- SLUICE_WINDOW: at each boundary of 64 frames the shares are counted afresh; requests that still wait keep waiting. -/
def execSluiceWindow (n : Stack) (s : State) : Out :=
  whenReady (decide ((s.stk n.val).window ≠ s.sluiceNo)) s
    (s.modStk n.val (fun k => { k with
      charged := k.carry (s.windowTime n.val), taken := 0, waits := k.asked, asked := [], window := s.sluiceNo }))

/-- What a write of COMMIT by the physical function does; one that is under way is not started again (18 R367). -/
def State.sluiceCommit (s : State) (f : Nat) (n : Stack) : State :=
  let off := Off.memSluiceCmd n.val
  if !s.mayWrite f .pf 0 0 ∨ s.flag off 2 then (s.ignored f off 1)
  else ((s.setFlag off 2 true).modStk n.val (fun k => { k with commit := true }))

/-- SLUICE_COMMIT. -/
def execSluiceCommit (f : Func) (n : Stack) (s : State) : Out :=
  .next (if s.barOpen then s.sluiceCommit f.val n else s)

/-- The settings written for a stack: partitions and sluices. -/
def State.written (s : State) (n : Nat) : List (Nat × Nat) × List (Nat × Nat) :=
  ((List.range 8).map (fun i => (s.field (Off.memPart n i) 6 0, s.field (Off.memPart n i) 38 32)),
   (List.range 8).map (fun i => (s.field (Off.memSluice n i) 6 0, s.field (Off.memSluice n i) 14 8)))

/-- The first check of a commit that fails, as log entry 0x0120 numbers it, and its partition (07 R123; which it names, log 46). -/
def sluiceCheck (parts shares : List (Nat × Nat)) : Option (Nat × Nat) :=
  let live := (List.range 8).filter (fun i => decide ((parts.getD i (0, 0)).2 ≠ 0))
  let ruled := (List.range 8).filter (fun i => i == 0 || live.contains i)
  let p := fun i => parts.getD i (0, 0)
  let overlap := live.find? (fun i => live.any (fun j => decide (j < i) && decide ((p i).1 < (p j).1 + (p j).2)
    && decide ((p j).1 < (p i).1 + (p i).2)))
  let beyond := live.find? (fun i => decide (96 < (p i).1 + (p i).2))
  let minima := (ruled.map (fun i => (shares.getD i (0, 0)).1)).sum
  let bad := ruled.find? (fun i => let (lo, hi) := shares.getD i (0, 0)
    decide (hi < lo ∨ hi = 0))
  match overlap, beyond, bad with
  | some i, _, _ => some (1, i)
  | none, some i, _ => some (2, i)
  | none, none, b =>
    if 64 < minima then some (3, 0)
    else b.map (fun i => (4, i))

/-- SLUICE_APPLY: at the next frame boundary the committed settings are applied together, or refused. -/
def execSluiceApply (n : Stack) (s : State) : Out :=
  if !(s.stk n.val).commit then .next s
  else
    let off := Off.memSluiceCmd n.val
    let s := (s.setFlag off 2 false).modStk n.val (fun k => { k with commit := false })
    let (parts, shares) := s.written n.val
    match sluiceCheck parts shares with
    | some (c, p) => .next ((s.setFlag off 1 true).note 3 false 0x20 0x0120 [n.val, c, p] none 0 n.val)
    | none => .next (s.modStk n.val (fun k => { k with parts := parts, shares := shares }))

/-! ### The outer code (07 R134-R136) -/

/-- Failed lanes without a spare in the pseudo-channel of an offset: lane numbers 0 to 35. -/
def StackSt.erased (k : StackSt) (off : Nat) : List Nat :=
  let pch := pchOf off
  (List.range 36).filter (fun l => sget false k.failedLanes (72 * (pch / 2) + 36 * (pch % 2) + l))

/-- CORR_LIMIT; 0b11 is treated as 0b10. -/
def State.corrLimit (s : State) (n : Nat) : Nat := min 2 (s.field (Off.memCtrl n) 1 0)

/-- The errors of an access by lane: symbols that differ from what was stored. -/
def errLanes (errs : List SymbolError) : List (Nat × Nat) :=
  ((List.range 36).map (fun l => (l, ((errs.filter (fun e => e.lane.val = l)).foldl (fun v e => v ^^^ e.value) 0#8).toNat))).filter
    (fun e => decide (e.2 ≠ 0))

/-- The field of the outer code: x^8 + x^4 + x^3 + x^2 + 1 (R135). -/
def outerField : Field2 := ⟨8, 0x11D⟩

/-- The field element at which a lane's symbol stands: lane 0 carries the highest power of the shortened code, the ECC lanes its
four lowest (log 33). -/
def lanePlace (l : Nat) : Nat := outerField.pow 2 (35 - l)

/-- The syndromes of an error pattern: its values at the roots α^0 to α^3 (R135). -/
def syndromes (es : List (Nat × Nat)) : List Nat :=
  (List.range 4).map (fun j => es.foldl (fun v e => v ^^^ outerField.mul e.2 (outerField.pow (lanePlace e.1) j)) 0)

/-- The product of x + p over places, the constant term first. -/
def locator (ps : List Nat) : List Nat := ps.foldl (fun q p => polyAdd (q.map (outerField.mul p)) (0 :: q)) [1]

/-- A polynomial applied to consecutive syndromes, from one on. -/
def overSyndromes (ss q : List Nat) (j : Nat) : Nat :=
  (List.zipWith outerField.mul q (ss.drop j)).foldl (· ^^^ ·) 0

/-- Errors in these lanes alone give the syndromes. -/
def explains (ss : List Nat) (ls : List Nat) : Bool :=
  (List.range (4 - ls.length)).all (fun j => overSyndromes ss (locator (ls.map lanePlace)) j == 0)

/-- The errors of lanes that give the syndromes. -/
def valuesAt (ss : List Nat) (ls : List Nat) : List (Nat × Nat) :=
  (ls.map (fun l =>
    let rest := (ls.filter (fun m => m != l)).map lanePlace
    let by_ := rest.foldl (fun v p => outerField.mul v (lanePlace l ^^^ p)) 1
    (l, outerField.mul (overSyndromes ss (locator rest) 0) (outerField.pow by_ 254)))).filter (fun e => decide (e.2 ≠ 0))

/-- Sets of `e` lanes from `l` on that are not failed. -/
def laneSets (gone : List Nat) : Nat → Nat → List (List Nat)
  | 0, _ => [[]]
  | e + 1, l => (List.range' l (36 - l)).flatMap (fun m =>
      if gone.contains m then [] else (laneSets gone e (m + 1)).map (m :: ·))

/-- The correction that the decoder makes of syndromes, if one lies within what it corrects: e errors beside f erased lanes with
2 e + f at most 4, and without a failed lane at most CORR_LIMIT of them (R134, R135). -/
def outerDecode (limit : Nat) (gone : List Nat) (ss : List Nat) : Option (List (Nat × Nat)) :=
  if 4 < gone.length then none
  else
    let most := if gone.isEmpty then limit else (4 - gone.length) / 2
    ((List.range (most + 1)).flatMap (fun e => (laneSets gone e 0).map (gone ++ ·))).findSome? (fun ls =>
      if explains ss ls then some (valuesAt ss ls) else none)

/-- A corrected access: counted, with its lanes, toward retraining after 256 corrected symbols of a lane within 1 s
(07 R133, R136). -/
def State.correctedAccess (s : State) (n off : Nat) (lanes : List Nat) : State :=
  let s := s.countField (Off.memErrStat n) 47 24 1
  let pch := pchOf off
  lanes.foldl (fun s l =>
    let key := 72 * (pch / 2) + 36 * (pch % 2) + l
    s.modStk n (fun k =>
      let times := (s.clk.now :: sget [] k.laneErrs key).take 256
      let due := decide (times.length = 256 ∧ s.clk.now ≤ times.getLastD 0 + 1000000000000)
      { k with laneErrs := sput [] k.laneErrs key times
               retrain := if due then sput false k.retrain (pch / 2) true else k.retrain })) s

/-- An access that the decoder reports: the unit cannot be read until it is written in full, its row is to be repaired, and it is
logged and reported. The unit that meets it fails when it reads it (07 R137). Which unit asks, in which step, the command does not
say: free values. -/
def State.reportedAccess (s : State) (a : Nat) : State :=
  let s : State := { s with mem := { s.mem with bad := sput false s.mem.bad a true } }
  let step := s.drawn.freeBelow (2 ^ 48)
  (s.drawn.drawn.reportStack a (s.freeBelow 256) step).wantRepair a step

/-- The unit holds what the decoder delivered: the errors and the correction leave a difference only where it miscorrected. Data
symbol k is byte k of the unit (log 33). -/
def State.writeBack (s : State) (a : Nat) (left : List (Nat × Nat)) : State :=
  left.foldl (fun s e => if e.1 < 32 then
    { s with mem := { s.mem with dev := s.mem.dev.setByte (a + e.1) (s.mem.dev.byte (a + e.1) ^^^ BitVec.ofNat 8 e.2) } } else s) s

/-- The outcome of a read at a stored address with the symbol errors it meets: clean, corrected and written back, or reported
(07 R135-R137). Errors that make another codeword are delivered unseen. -/
def State.readUnit (s : State) (n a : Nat) (errs : List SymbolError) : State :=
  let es := errLanes errs
  if sget false s.mem.bad a then s.reportedAccess a
  else if es.isEmpty then s
  else
    match outerDecode (s.corrLimit n) ((s.stk n).erased (a % 0x800000000)) (syndromes es) with
    | none => s.reportedAccess a
    | some [] => s.writeBack a es
    | some fix => (s.writeBack a (es ++ fix)).correctedAccess n (a % 0x800000000) (fix.map (·.1))

/-- A read that meets these errors is corrected. -/
def State.readCorrects (s : State) (n a : Nat) (errs : List SymbolError) : Bool :=
  let es := errLanes errs
  !sget false s.mem.bad a && !es.isEmpty && (match outerDecode (s.corrLimit n) ((s.stk n).erased (a % 0x800000000)) (syndromes es) with
    | some (_ :: _) => true
    | _ => false)

/-- The stack's reports of its inner code are counted and logged (R119). -/
def State.innerReport (s : State) (n a count : Nat) : State :=
  if count = 0 then s else (s.countField (Off.memErrStat n) 23 0 count).noteFree 1 false 0x20 [a, count] none 0 n

/-- The stack's offset is populated, the stack in use and the page not retired. -/
def State.unitOk (s : State) (n unit : Nat) : Bool :=
  decide (unit * 32 < 0x600000000) && !(s.stk n).dead && s.pagesOk (n * 0x800000000 + 32 * unit) 32

/-- An access is served: its bus time is charged to its partition (07 R121, R122). -/
def State.served (s : State) (n a : Nat) (w : Bool) : State := s.modStk n (fun k => k.charge a 32 w)

/-- STACK_ACCESS: one 32-byte access, charged to its partition, corrected or failed by the outer code (07 R120-R122, R135). A
command that fails parity is retried once, then handled as an uncorrectable access (R119). -/
def execStackAccess (n : Stack) (unit : BitVec 30) (data : Option (List Byte)) (m : StackMeets) (s : State) : Out :=
  let off := 32 * unit.toNat
  let a := n.val * 0x800000000 + off
  if !s.unitOk n.val unit.toNat then .next s
  else if !s.sluiceOpen n.val off then .next (s.waitsFor n.val off)
  else
    let s := (s.served n.val a data.isSome).innerReport n.val a m.inner.toNat
    if 2 ≤ m.parity.toNat then .next (s.reportedAccess a)
    else
      match data with
      | some bs =>
        .next { s with mem := { s.mem with dev := s.mem.dev.setBytes a (padTo 32 (bs.take 32)), bad := sput false s.mem.bad a false } }
      | none => .next (s.readUnit n.val a m.errs)

/-- PATROL_SCRUB: the scrub reads an access, outside every sluice (07 R138). -/
def execPatrolScrub (n : Stack) (unit : BitVec 30) (m : StackMeets) (s : State) : Out :=
  let a := n.val * 0x800000000 + 32 * unit.toNat
  if !s.unitOk n.val unit.toNat then .next s
  else
    let s := s.modStk n.val (fun k =>
      let (t, k) := k.touch a 1 false
      { k with patrolled := k.patrolled + 1, taken := k.taken + t })
    let s := s.innerReport n.val a m.inner.toNat
    .next (if 2 ≤ m.parity.toNat then s.reportedAccess a else s.readUnit n.val a m.errs)

/-- The SCRUB whose turn it is: the one in progress, or the startable one (12 Table 12-5). -/
def State.scrubTurn (s : State) (x : Nat) : Option Cmd :=
  match (s.ctx x).cmds.find? (fun d => decide (d.phase = .started) && d.opcode == 0x20 && d.sub == 2) with
  | some d => if d.suspended || s.fail.moved then none else some d
  | none => s.startableOp x 0x20 (some 2)

/-- SCRUB: the next access of the range is read, charged to the partition that holds it, its errors handled as the patrol's; after
the last the command completes with the count of corrected accesses (07 R121, R138, 13 Table 13-11). -/
def execScrub (k : ScrubStep) (s : State) : Out :=
  let x := k.context
  let m := k.meets
  match s.scrubTurn x.val with
  | none => .next s
  | some d =>
    let a := d.mgmtAddr + 32 * d.progress
    let n := a / 0x800000000
    let off := a % 0x800000000
    if d.mgmtLen ≤ 32 * d.progress then .next (s.complete x.val d.idx stOk (min d.units 0xFFFFFFFF))
    else
      let s := s.start x.val d.idx
      let count := fun (s : State) (k : Nat) =>
        s.modCmd x.val d.idx (fun d => { d with progress := d.progress + 1, units := d.units + k })
      if !s.unitOk n (off / 32) then .next (count s 0)
      else if !s.sluiceOpen n off then .next (s.waitsFor n off)
      else
        let t := (s.served n a false).innerReport n a m.inner.toNat
        .next (if 2 ≤ m.parity.toNat then count (t.reportedAccess a) 0
          else count (t.readUnit n a m.errs) (b2n (t.readCorrects n a m.errs)))

/-- REFRESH: a bank is refreshed, at the normal rate or at twice that (07 R132), or on the stack's refresh management request
(R119). -/
def execRefresh (r : BankRefresh) (s : State) : Out :=
  let n := r.stack
  let managed := r.managed
  if (s.stk n.val).dead then .next s
  else
    let times := if managed then 1 else 1 + b2n (s.flag (Off.memTherm n.val) 3)
    .next (s.modStk n.val (fun k => { k with
      refreshes := k.refreshes + (if managed then 0 else times), managed := k.managed + b2n managed
      taken := k.taken + times * Config.refreshTime }))

/-! ### Repair (07 R137, R139) -/

/-- What the mirror partner holds of a context: its sweep table's committed state and stamps, and the headers and committed maps
of its listed tensors (07 R137, 09 R168). -/
def State.heldAtPartner (s : State) (x : Nat) : List (Nat × Nat) :=
  (match (s.ctx x).table with
    | some t => s.mirroredExtents x t ++ (s.grps x t).map (fun g => (g.stamp, 8 * g.blocks))
    | none => []) ++ (s.ctx x).tensors.flatMap (fun a =>
      let h := s.hdr x a
      let n := (sget 0 (s.ctx x).tops h.map + 63) / 64 * 8
      [(a, 32), (h.map + n, n)])

/-- The mirror partner holds an access. -/
def State.partnerHolds (s : State) (a : Nat) : Bool :=
  s.mirrored && s.ctxs.any (fun e => (s.heldAtPartner e.1).any (fun r => decide (r.1 < a + 32 ∧ a < r.1 + r.2)))

/-- A page is retired in both devices and from now on (07 R139). -/
def State.retirePage (s : State) (a step : Nat) : State :=
  let add := fun (v : Device) => { v with repair := { v.repair with gen := v.repair.gen + 1, pages := a / 4096 :: v.repair.pages } }
  { s with mem := { s.mem with retired := sput false s.mem.retired (a / 4096) true }
           fw := { s.fw with dev0 := add s.fw.dev0, dev1 := add s.fw.dev1 } }.note
    4 true 0x20 0x0103 [a / 4096 * 4096, step] none 0 (a / 0x800000000)

/-- The row of an access is under soft repair: kept in the repair record of both devices, to be made hard at the next module reset
(07 R139). -/
def State.repairRow (s : State) (a : Nat) : State :=
  let add := fun (v : Device) => { v with repair := { v.repair with gen := v.repair.gen + 1, rows := v.repair.rows ++ [a] } }
  { s with fw := { s.fw with dev0 := add s.fw.dev0, dev1 := add s.fw.dev1 } }.modStk (a / 0x800000000) (fun k => { k with
    repairsUsed := smod 0 k.repairsUsed (bankKey a) (· + 1), softRows := k.softRows ++ [a] })

/-- Ring DMAs that waited for the repair of a row complete (07 R137). -/
def State.failBadDma (s : State) (a : Nat) : State :=
  s.ctxs.foldl (fun s e => match e.2.badDma with
    | some (i, u) =>
      if rowKey u = rowKey a then (s.modCtx e.1 (fun c => { c with badDma := none })).complete e.1 i stStepFailed 0 else s
    | none => s) s

/-- A sweep waits on the repair of a stack (08 R160). -/
def State.sweepWaits (s : State) (n : Nat) : Bool := s.ctxs.any (fun e => e.2.sweep.any (fun w => w.stopped.contains n))

/-- A mirrored sweep that waited on an access of a page now retired does not commit (07 R139). -/
def State.failRetired (s : State) (n a : Nat) : State :=
  s.ctxs.foldl (fun s e => match e.2.sweep with
    | some w =>
      if w.stopped.contains n && w.met.any (fun m => m / 4096 == a / 4096) then s.sweepFail e.1 w stStepFailed w.bits else s
    | none => s) s

/-- ROW_REPAIR: at the step boundary, or while a sweep waits for it, the row of uncorrectable accesses is repaired and those
are restored from the mirror partner where that holds them; with no repair left their pages are retired and takeover asked for. -/
def execRowRepair (n : Stack) (s : State) : Out :=
  match (s.stk n.val).repairs with
  | [] => .next s
  | (a, step) :: rest =>
    if !s.stepBoundary && !s.sweepWaits n.val then .next s
    else
      let same := fun (r : Nat × Nat) => rowKey r.1 == rowKey a
      let as := a :: (rest.filter same).map (·.1)
      let t := s.modStk n.val (fun k => { k with repairs := rest.filter (fun r => !same r) })
      if t.rowSpare a then
        let t := t.repairRow a
        let back := as.filter s.partnerHolds
        let t : State := { t with mem := { t.mem with bad := t.mem.bad.filter (fun e => !back.contains e.1) } }
        .next (t.failBadDma a)
      else
        let pages := (as.map (fun u => u / 4096 * 4096)).eraseDups
        let t := pages.foldl (fun s p => (s.retirePage p step).failRetired n.val p) t
        .next ((t.takeoverReq 0x32 n.val).failBadDma a)

/-! ### Temperature (07 R130) -/

/-- Thresholds of throttle steps 1 to 4, in tenths of a degree below TMAX. -/
def stepBelow : List Nat := [100, 75, 50, 25]

/-- The throttle step for a reading: entered at its threshold, left 2 degC below it. -/
def throttleStep (tmax temp cur : Nat) : Nat :=
  let at_ := fun (i : Nat) (slack : Nat) => decide (10 * tmax ≤ 10 * temp + stepBelow.getD i 0 + slack)
  ((List.range 4).filter (fun i => at_ i 0 || (decide (i < cur) && decide (10 * tmax < 10 * temp + stepBelow.getD i 0 + 20)))).foldl
    (fun m i => max m (i + 1)) 0

/-- STACK_TEMP_READ: the controller reads the stack's temperature and chooses its step; the thermal limits follow. -/
def execStackTempRead (n : Stack) (temp : BitVec 8) (s : State) : Out :=
  if !(s.stk n.val).trained then .next s
  else
    let off := Off.memTherm n.val
    let t := temp.toNat
    let cur := s.field off 2 0
    let next := throttleStep (s.field off 23 16) t cur
    let s := (s.setField off 15 8 t).setFlag off 3 (decide (85 < t))
    let s := s.modStk n.val (fun k => { k with nextStep := if next = cur then none else some next })
    let s := s.setField Off.thmStat 39 32 ((s.stackTemps.map (fun e => e.2.2)).foldl max 0)
    .next (s.thermalLimits (0x10000 + n.val) t)

/-- THROTTLE_STEP_CHANGE: at the next frame boundary the step is in force. -/
def execThrottleStepChange (n : Stack) (s : State) : Out :=
  match (s.stk n.val).nextStep with
  | none => .next s
  | some k => .next ((s.setField (Off.memTherm n.val) 2 0 k).modStk n.val (fun e => { e with nextStep := none }))

/-- STACK_CATASTROPHIC_TEMPERATURE: the indication on its own path drives CRIT (07 R119, 16 Table 16-1). -/
def execStackCatastrophicTemperature (n : Stack) (s : State) : Out :=
  if !s.pwr.rails then .next s
  else .next (s.thermtrip (0x10000 + n.val) (s.field (Off.memTherm n.val) 15 8))

/-! ### Training and lane repair (07 R119, R133, R134) -/

/-- Redundant lanes left in a channel: four bits show them. -/
def State.sparesLeft (s : State) (n c : Nat) : Nat := Config.laneSpares n c % 16 - sget 0 (s.stk n).sparesUsed c

/-- MEM.LANE_STAT of a channel shows its spares, repairs and failed lanes without a spare. -/
def State.showLanes (s : State) (n c : Nat) : State :=
  let failed := (List.range 72).filter (fun l => sget false (s.stk n).failedLanes (72 * c + l))
  let entry := fun i => match failed[i]? with
    | some l => 128 + l
    | none => 0
  s.setReg (Off.memLaneStat n c) (s.sparesLeft n c * 2 ^ 60 + min 15 (sget 0 (s.stk n).sparesUsed c) * 2 ^ 56
    + entry 0 + entry 1 * 2 ^ 8 + entry 2 * 2 ^ 16 + entry 3 * 2 ^ 24)

/-- The fleet manager is warned of a channel without a spare left. -/
def State.warnSpares (s : State) (n c : Nat) : State := if s.sparesLeft n c = 0 then s.noteFree 3 true 0x20 [c] none 0 n else s

/-- A failed lane is replaced by a spare and logged, or marked failed; a channel without a spare left warns; two failed lanes of
a pseudo-channel lead to takeover. Cause 0 is training, 1 the error count. -/
def State.repairLane (s : State) (n c lane cause : Nat) : State :=
  let s := if 0 < s.sparesLeft n c then
      let used := sget 0 (s.stk n).sparesUsed c
      let s := s.modStk n (fun k => { k with sparesUsed := sput 0 k.sparesUsed c (used + 1) })
      s.note 2 false 0x20 0x0102 [2 * c + lane / 36, lane, used, s.sparesLeft n c, cause] none 0 n
    else
      let s := s.modStk n (fun k => { k with failedLanes := sput false k.failedLanes (72 * c + lane) true })
      let two := decide (2 ≤ ((List.range 36).filter (fun l =>
        sget false (s.stk n).failedLanes (72 * c + lane / 36 * 36 + l))).length)
      s.modStk n (fun k => { k with wantTakeover := k.wantTakeover || two })
  (s.warnSpares n c).showLanes n c

/-- With no step in progress a takeover that is wanted is asked for at once (07 R134). -/
def State.askIfIdle (s : State) : State := if s.ctxs.all (fun e => e.2.stepCmds.isEmpty) then s.askWanted else s

/-- CHANNEL_RETRAIN: at the step boundary a channel that is due trains again, and its failing lanes are repaired. -/
def execChannelRetrain (n : Stack) (c : Fin 16) (lanes : List (Fin 72)) (s : State) : Out :=
  if !sget false (s.stk n.val).retrain c.val || !s.stepBoundary then .next s
  else
    let s := s.modStk n.val (fun k => { k with
      retrain := sput false k.retrain c.val false, laneErrs := k.laneErrs.filter (fun e => e.1 / 72 != c.val) })
    .next (lanes.foldl (fun s l => s.repairLane n.val c.val l.val 1) s).askIfIdle

/-- Step 7 of boot is done once every stack has trained or failed (14 Table 14-4): the boot is complete, and SVN_MIN rises where it may
(17 R354). -/
def State.stacksDone (s : State) : State :=
  if s.bootStep = 6 && (List.range 32).all (fun n => (s.stk n).trained || (s.stk n).dead) then (s.setBoot 7).raiseSvn else s

/-- STACK_TRAINING: at reset a stack's interface trains, its failed lanes are repaired and TMAX is read; a stack that does not
train is failed as a unit. -/
def execStackTraining (n : Stack) (t : StackTraining) (s : State) : Out :=
  if s.bootStep < 6 || (s.stk n.val).trained || (s.stk n.val).dead then .next s
  else if t.trained then
    let s := (s.modStk n.val (fun k => { k with trained := true })).setField (Off.memTherm n.val) 23 16 t.tmax.toNat
    let whole := (List.range 16).filter (fun c => t.failed.all (fun e => decide (e.1.val ≠ c)))
    let s := whole.foldl (fun s c => (s.warnSpares n.val c).showLanes n.val c) s
    .next ((t.failed.foldl (fun s e => s.repairLane n.val e.1.val e.2.val 0) s).askIfIdle).stacksDone
  else
    let s := (s.modStk n.val (fun k => { k with dead := true })).countField Off.hifModuleStat 13 8 1
    .next ((s.noteFree 4 true 0x20 [n.val] none 0 n.val).takeoverReq 0x32 n.val).stacksDone

end Sys2Proof.Machine
end

