-- ==== Sys2Proof/Machine/Frames.lean ====
section
/-! DEFINITION. Frames, packets and the delivery of flits (11 R213, R214, R223-R236, R239, R240; 09 R171). -/

namespace Sys2Proof.Machine

/-! ### Packets (R231-R233) -/

/-- The IDLE filler: one flit. -/
def idleBytes (n : Nat) : List Byte := padTo n [7]

/-- The class field of a LATE packet. -/
def lateFields (p barge slot frame : Nat) : Nat :=
  p + barge * 2 ^ 7 + slot * 2 ^ 19 + (frame % 2 ^ 39) * 2 ^ 25

/-- A flit goes out as a LATE packet, is kept for 1 ms, and counted (R226, R236). -/
def State.sendLate (s : State) (p barge frame slot : Nat) (msg : Bool) (bytes : List Byte) : State :=
  let t := s.port p
  let bytes := (s.youngFlit p (msg, bytes)).2
  let k := s.newPacket 0 (if isCanal p then s.moduleNo else t.neighbour) (lateFields p barge slot frame)
    bytes
  let s := s.modPort p (fun t => { t with
    queue := t.queue ++ [k]
    store := (t.store.filter (fun e => match e.late with
      | some at_ => decide (s.clk.now < at_ + 1000000000)
      | none => true)) ++ [⟨frame, slot, barge, msg, bytes, some s.clk.now⟩] })
  s.countField (if isCanal p then Off.canErrStat (p - 0x40) else Off.lnkErrStat p) 47 32 1

/-! ### The record stream in flits (09 R171, R172) -/

/-- The next whole record for a module: a reply first, then the stream in SEQ order to the partner; records that were dropped are
passed over. -/
def State.nextRecord (s : State) (dest : Nat) : Option (List Byte × State) :=
  match s.fail.exp.replies.find? (fun r => r.1 == dest) with
  | some r => some (r.2, (s.modExp (fun e => { e with replies := e.replies.erase r })).recordSent dest)
  | none =>
    if s.exporting && dest == s.partner then
      match s.fail.exp.recs.find? (fun r => decide ((r.seq - s.fail.exp.next).toNat < 2 ^ 31)) with
      | some r => some (r.bytes, (s.modExp (fun e => { e with next := r.seq + 1 })).recordSent dest)
      | none => none
    else none

/-- The bytes cut for a module, filled up to `n` while there are records, with fuel. -/
def State.fillStream (s : State) (dest n : Nat) : Nat → List Byte → List Byte × State
  | 0, bs => (bs, s)
  | k + 1, bs =>
    if n ≤ bs.length then (bs, s)
    else
      match s.nextRecord dest with
      | none => (bs, s)
      | some (r, t) => t.fillStream dest n k (bs ++ r)

/-- The next `n` bytes of the stream to a module, if there are any; zeros fill a flit whose first half ends the last record there is
(log 30). -/
def State.cutStream (s : State) (dest n : Nat) : Option (List Byte × State) :=
  let (bs, t) := s.fillStream dest n n (sget [] s.lnk.streamOut dest)
  if bs.isEmpty then none
  else some ((padTo n bs).take n, { t with lnk := { t.lnk with streamOut := sput [] t.lnk.streamOut dest (bs.drop n) } })

/-- Export slots per lock cycle toward the partner, in bytes (09 R171). -/
def State.exportShare (s : State) : Nat :=
  (s.lnk.ports.map (fun e => if !e.2.up then 0 else
    let l := e.2.table e.2.active
    (l.tx.filter (fun f => match f.2 with
      | some i => (l.barges[i]?).any (fun b => b.kind == 6 && b.dest == s.partner)
      | none => false)).length * 128)).sum

/-- With more in a spool than a lock cycle's export flits carry, the next record also goes as unscheduled packets
(09 R171). -/
def State.exportOverflow (s : State) (p : Nat) : State :=
  if s.exporting && s.routeOf s.partner == some p && !(s.port p).queue.any (fun k => k.cls == 4)
      && (List.range 32).any (fun k => decide (s.exportShare < s.spoolUsed k)) then
    match s.nextRecord s.partner with
    | none => s
    | some (r, t) =>
      t.modPort p (fun u => { u with queue := u.queue ++ (pieces 2032 r.length r).map (fun b => t.newPacket 4 t.partner 0 b) })
  else s

/-- A whole record from a module: to the source entry that names it, or as the partner's reply (09 R172, R175). -/
def State.takeStream (s : State) (m : Nat) (r : List Byte) : State :=
  match (List.range 16).find? (fun p => s.mirValid p && s.mirSource p == m) with
  | some p => s.recordReceive p r
  | none =>
    if s.exporting && m == s.partner && recOk r then
      let s := s.modExp (fun e => { e with heard := s.clk.now })
      if recKind r = kAck then s.takeAck (recStep r) (BitVec.ofNat 32 (recNat r 16 4))
      else if recKind r = kResend then s.takeResend (BitVec.ofNat 32 (recNat r 16 4))
      else s
    else s

/-- Whole records leave the bytes received from a module, with fuel; 64 bytes of zeros between them fill a flit. -/
def State.cutRecords (s : State) (m : Nat) : Nat → List Byte → State × List Byte
  | 0, bs => (s, bs)
  | k + 1, bs =>
    if bs.length < 64 ∨ bs.length < recSpan bs then (s, bs)
    else if (bs.take 64).all (· == 0) then s.cutRecords m k (bs.drop 64)
    else (s.takeStream m (bs.take (recSpan bs))).cutRecords m k (bs.drop (recSpan bs))

/-- Stream bytes arrive from a module, in export locks or in packets. -/
def State.streamBytes (s : State) (m : Nat) (packets : Bool) (bs : List Byte) : State :=
  let key := m + 16384 * b2n packets
  let all := sget [] s.lnk.streamIn key ++ bs
  let (t, rest) := s.cutRecords m all.length all
  { t with lnk := { t.lnk with streamIn := sput [] t.lnk.streamIn key rest } }

/-! ### Delivery in barge order (R225-R227, R235) -/

/-- Messages arrive at a port in order. -/
def State.takeMessages (s : State) (p : Nat) (ms : List SyncMsg) : State :=
  ms.foldl (fun s m => s.takeMessage m (some (sectorOf p))) s

/-- A counter of this module counts a flit of a port; a refused increment fails the barge's step (10 R193, R203). -/
def State.countFlit (s : State) (port x p : Nat) : State :=
  let (st, t) := s.addOrHold x p 1 (.barge port)
  if st = stOk then t else t.stepFault x .fail stStepFailed

/-- The key of the barge with an index whose head flit is here: the old buffer's first. -/
def PortSt.headKey (t : PortSt) (i : Nat) : Option Nat :=
  [4096 * (1 - t.active) + i, 4096 * t.active + i].find? (fun k => match (t.barge k).line with
    | l :: _ => l.flit.isSome
    | [] => false)

/-- The head flit of a barge's line, with the port after it left. -/
def State.popFlit (s : State) (p key : Nat) (counted : Bool) : State :=
  s.modPort p (fun t => t.modBarge key (fun b => { b with line := b.line.drop 1, n := b.n + b2n counted }))

/-- A flit of a FORWARD_IN barge passes to its FORWARD_OUT barge: one of an old table, while the sending port still serves its own
old table, to the barge of that (R226, R229, R230). -/
def State.passFlit (s : State) (old : Bool) (d : Barge) (l : Berth) (msg : Bool) (bs : List Byte) : State :=
  s.modPort d.fwdPort (fun t =>
    let buf := if old && t.oldSince.isSome then 1 - t.active else t.active
    t.modBarge (t.key buf d.fwdBarge) (fun b => { b with ready := b.ready ++ [(l.avail, msg, bs)] }))

/-- A port's sector reaches the addresses that a flit needs: the canal joins the two, and no hive concerned moves (01 R7,
06 R109). -/
def State.flitReaches (s : State) (p : Nat) (as : List Nat) : Bool :=
  s.reachesAll (sectorOf p) as && !as.any s.onMove

/-- The head flit of a barge is delivered, if its kind needs nothing else (R225). -/
def State.deliverHead (s : State) (p key : Nat) : State :=
  let t := s.port p
  match t.desc key, (t.barge key).line with
  | some d, l :: _ =>
    match l.flit with
    | none => s
    | some (msg, bs) =>
      let u := s.popFlit p key (!msg)
      if d.kind = 3 then u.passFlit (decide (key / 4096 ≠ t.active)) d l msg bs
      else if msg then u.takeMessages p (msgsIn bs)
      else if d.kind = 2 ∧ !s.flitReaches p [d.addr] then s
      else if d.kind = 2 then
        (u.stores d.ctx (d.addr + (flitBytes p * (t.barge key).n) % d.length) bs).countFlit p d.ctx d.counter
      else if d.kind = 7 then u.streamBytes t.neighbour false bs
      else s
  | _, _ => s

/-- FLIT_DELIVER. -/
def execFlitDeliver (p : PortCode) (b : BitVec 12) (s : State) : Out :=
  match (s.port p.toNat).headKey b.toNat with
  | none => .next s
  | some key => .next (s.deliverHead p.toNat key)

/-- The combined elements of a REDUCE flit (R227). -/
def State.reduced (s : State) (x loc : Nat) (bs : List Byte) : List Byte :=
  ((List.range (bs.length / 4)).map (fun j =>
    natLe (f32Add (BitVec.ofNat 32 (s.loadNat x (loc + 4 * j) 4)) (BitVec.ofNat 32 (leNat ((bs.drop (4 * j)).take 4)))).toNat
      4)).flatten

/-- REDUCE_COMBINE: with LOCAL ready, the head flit is added to it into ADDR (R227). -/
def execReduceCombine (p : PortCode) (b : BitVec 12) (s : State) : Out :=
  let t := s.port p.toNat
  match t.headKey b.toNat with
  | none => .next s
  | some key =>
    match t.desc key, (t.barge key).line with
    | some d, l :: _ =>
      match l.flit with
      | some (false, bs) =>
        let n := (t.barge key).n
        let o := (flitBytes p.toNat * n) % d.length
        if d.kind ≠ 5 ∨ s.stepCount d.localCtr ≤ n ∨ !s.flitReaches p.toNat [d.addr, d.loc] then .next s
        else
          match s.badIn (d.loc + o) bs.length with
          | some a => .next (s.uncorrectable d.ctx a (0x100 + p.toNat))
          | none =>
            .next (((s.popFlit p.toNat key true).stores d.ctx (d.addr + o) (s.reduced d.ctx (d.loc + o) bs)).countFlit
              p.toNat d.ctx d.counter)
      | _ => .next s
    | _, _ => .next s

/-- The FORWARD_IN flits of a port that have their turn pass on as they land. -/
def State.passForwards (s : State) (p : Nat) : State :=
  let t := s.port p
  let keys := (t.barges.filter (fun b => (t.desc b.1).any (fun d => d.kind == 3))).map
    (fun b => (b.1, (takeThrough (fun l => l.flit.isNone) b.2.line).length))
  keys.foldl (fun s k => (List.range k.2).foldl (fun s _ => s.deliverHead p k.1) s) s

/-! ### Landing (R235) -/

/-- Bytes of flits held in the landing buffer of a port, and where those in the spill area stand. -/
def PortSt.landed (t : PortSt) (unit : Nat) : Nat :=
  (t.barges.map (fun b => (b.2.line.filter (fun l => l.flit.isSome && l.spilled.isNone)).length * unit)).sum
def PortSt.spills (t : PortSt) : List Nat := t.barges.flatMap (fun b => b.2.line.filterMap (·.spilled))

/-- Bytes of the spill area of a port's sector; canal ports of a sector share one (R371). -/
def State.spillSize (s : State) (p : Nat) : Nat :=
  (if isCanal p then s.field (Off.canSpill (sectorOf p)) 26 16 else s.field (Off.lnkSpill p) 26 16) * 0x100000

/-- The flits' places that are taken in that area. -/
def State.spillTaken (s : State) (p : Nat) : List Nat :=
  if isCanal p then (List.range 4).flatMap (fun d => (s.port (0x40 + 4 * sectorOf p + d)).spills) else (s.port p).spills

/-- The first address of the spill area in the sector's comb die. -/
def State.spillBase (s : State) (p : Nat) : Nat :=
  let base := if isCanal p then s.field (Off.canSpill (sectorOf p)) 9 0 else s.field (Off.lnkSpill p) 9 0
  0x10000000000 + sectorOf p * 0x40000000 + base * 0x100000

/-- Where a further flit lands: in the buffer unless that is more than three quarters full, else at the lowest free place of the
spill area; `none` where neither has room (R235). -/
def State.landing (s : State) (p : Nat) : Option (Option Nat) :=
  let unit := flitBytes p
  if (s.port p).landed unit ≤ 0x600000 then some none
  else
    let taken := s.spillTaken p
    let free := ((List.range (taken.length + 1)).find? (fun k => !taken.contains k)).getD 0
    if (free + 1) * unit ≤ s.spillSize p then some (some free) else none

/-- The bytes of a spilled flit stand in the comb die. -/
def State.spill (s : State) (p : Nat) (at_ : Option Nat) (bs : List Byte) : State :=
  match at_ with
  | some k => s.stores 0 (s.spillBase p + k * flitBytes p) bs
  | none => s

/-- A flit of a barge is discarded for want of room, as is each further one: counted, its messages reported, and the step of the
barge's context failed (R235). -/
def State.loseFlit (s : State) (p key : Nat) (msg : Bool) (bs : List Byte) : State :=
  let d := (s.port p).desc key
  let cut := ((s.port p).barge key).cut
  let s := (s.stray p 1).dropMessages ((d.map (·.dest)).getD 0) (if msg then msgsIn bs else [])
  if cut then s
  else
    let s := s.modPort p (fun t => t.modBarge key (fun b => { b with cut := true }))
    match d with
    | some d => s.stepFault d.ctx .fail stStepFailed
    | none => s

/-- The frame from which a forward may use a flit received in a frame (R226). -/
def State.availFrom (s : State) (p frame : Nat) : Nat :=
  if isCanal p then frame + 1 else frame + 3 + ((s.port p).delay + 255) / 256

/-- A received flit is landed at its place, spilled, or discarded with the step of its context failed (R225, R235). -/
def State.land (s : State) (p key frame slot : Nat) (msg : Bool) (bs : List Byte) : State :=
  match if ((s.port p).barge key).cut then none else s.landing p with
  | some at_ => (s.spill p at_ bs).modPort p (fun t => t.modBarge key (fun b => { b with
      line := b.line ++ [{ frame := frame, slot := slot, flit := some (msg, bs), avail := s.availFrom p frame, spilled := at_ }] }))
  | none => s.loseFlit p key msg bs

/-- A place is kept for a flit that comes later. -/
def State.expectFlit (s : State) (p key frame slot asks : Nat) : State :=
  s.modPort p (fun t => t.modBarge key (fun b =>
    if b.cut then b else { b with line := b.line ++ [{ frame := frame, slot := slot, asks := asks, askedAt := s.clk.now }] }))

/-- Whether a LATE flit holds messages: on the canal its sender's store says; on a link nothing in the packet does, and the
answer is a free value. -/
def State.lateIsMsg (s : State) (p slot frame : Nat) : Bool :=
  match (if isCanal p then edgeEnd p else none) with
  | some q => (s.port q).store.any (fun e => e.msg && decide (e.slot = slot ∧ e.frame % 2 ^ 39 = frame))
  | none => decide (s.freeBelow 2 = 1)

/-- A LATE flit fills the place that waits for it (R225, R236). -/
def State.fillLate (s : State) (p slot frame : Nat) (bs : List Byte) : State :=
  let fits := fun (l : Berth) => l.flit.isNone && decide (l.slot = slot ∧ l.frame % 2 ^ 39 = frame)
  match (s.port p).barges.find? (fun b => b.2.line.any fits) with
  | none => s.stray p 1
  | some (key, _) =>
    let msg := s.lateIsMsg p slot frame
    let room := s.landing p
    let s := s.drawn.countField (if isCanal p then Off.canErrStat (p - 0x40) else Off.lnkErrStat p) 47 32 1
    match room with
    | some at_ => (s.spill p at_ bs).modPort p (fun t => t.modBarge key (fun b => { b with line := b.line.map (fun l =>
        if fits l then { l with flit := some (msg, bs), avail := s.clk.frame, spilled := at_ } else l) }))
    | none => (s.loseFlit p key msg bs).modPort p (fun t => t.modBarge key (fun b => { b with
        line := b.line.filter (fun l => !fits l) }))

/-! ### Unscheduled packets received (R231, R232) -/

/-- The data and message flits of a frame go again as LATE packets, from the stores (R236). -/
def State.resendFrame (s : State) (p frame : Nat) : State :=
  let es := (s.port p).store.filter (fun e => e.frame == frame)
  let once := es.filter (fun e => e.late.isNone || !es.any (fun o => o.late.isNone && o.slot == e.slot))
  once.foldl (fun s e => s.sendLate p e.barge e.frame e.slot e.msg e.bytes)
    (s.modPort p (fun t => { t with store := t.store.filter (fun e => !(once.contains e && e.late.isSome)) }))

/-- A management report from another module: the steps of a discarded message's sender and home here fail (10 R199); a norm
part or result goes to the context of its job (13 R278). -/
def State.takeMgmt (s : State) (m : Mgmt) : State :=
  match m with
  | .discard m => if m.origin.toNat = s.moduleNo then s.discardFault (s.senderCtx m) else s.homeFault m
  | .norm job p =>
    match s.jobCtx job with
    | some x => s.takePart x p
    | none => s

/-- Whole reports leave the bytes received from a module, with fuel. -/
def State.cutMgmt (s : State) : Nat → List Byte → State × List Byte
  | 0, bs => (s, bs)
  | k + 1, bs =>
    let n := leNat (bs.take 4)
    if bs.length < 5 ∨ bs.length < n then (s, bs)
    else
      let s := match mgmtOf (bs.take n) with
        | some m => s.takeMgmt m
        | none => s
      s.cutMgmt k (bs.drop (max n 5))

/-- Management bytes arrive from a module. -/
def State.mgmtBytes (s : State) (src : Nat) (bs : List Byte) : State :=
  let key := src + 32768
  let all := sget [] s.lnk.streamIn key ++ bs
  let (t, rest) := s.cutMgmt all.length all
  { t with lnk := { t.lnk with streamIn := sput [] t.lnk.streamIn key rest } }

/-- A packet whose destination is this module (R232). -/
def State.packetHere (s : State) (p : Nat) (k : Packet) : State :=
  match k.cls.toNat with
  | 0 => (s.fillLate p (bits k.fields.toNat 24 19) (bits k.fields.toNat 63 25) k.payload).passForwards p
  | 1 => s.resendFrame p (leNat (k.payload.take 7))
  | 2 => s.takeMessages p (packetMsgs k)
  | 3 => s.mgmtBytes k.src.toNat k.payload
  | 4 => s.streamBytes k.src.toNat true k.payload
  | _ => s

/-- A packet is discarded and counted; the messages of a SYNC packet are discarded under R199. -/
def State.strayPacket (s : State) (p : Nat) (k : Packet) : State :=
  (s.stray p 1).dropMessages k.dest.toNat (packetMsgs k)

/-- A packet for another module goes on: out of the port that LNK.ROUTE gives, with one hop less, or by the canal toward that
port's sector (R232, 01 R8). -/
def State.passOn (s : State) (p : Nat) (k : Packet) : State :=
  match s.routeOf k.dest.toNat with
  | none => s.strayPacket p k
  | some q =>
    if sectorOf p = sectorOf q then s.enqueue q [{ k with hops := k.hops - 1 }]
    else match s.canalHop (sectorOf p) (sectorOf q) with
      | some c => s.enqueue c [k]
      | none => s.strayPacket p k

/-- A packet arrives: for this module, on by its route with one hop less, or discarded (R232). -/
def State.packetIn (s : State) (p : Nat) (k : Packet) : State :=
  let s := if k.cls = 7 then s
    else s.modPort p (fun t => { t with returns := smod 0 t.returns k.cls.toNat (· + (k.flits.toNat + 1)) })
  if k.cls = 7 ∨ s.fail.silenced.contains k.src.toNat then s
  else if k.cls = 5 ∨ k.cls = 6 ∨ k.reserved ≠ 0 then s.strayPacket p k
  else if k.dest.toNat = s.moduleNo then s.packetHere p k
  else if k.hops = 0 then s.strayPacket p k
  else s.passOn p k

/-- PACKET_RECEIVE. -/
def execPacketReceive (p : PortCode) (k : Packet) (s : State) : Out :=
  whenReady (s.port p.toNat).up s (s.packetIn p.toNat k)

/-- An unscheduled flit joins the packet under way; a whole packet arrives. -/
def State.unscheduled (s : State) (p : Nat) (bs : List Byte) : State :=
  let all := (s.port p).inPart ++ bs
  let k := packetOf all
  if 128 * (k.flits.toNat + 1) ≤ all.length then (s.modPort p (fun t => { t with inPart := [] })).packetIn p k
  else s.modPort p (fun t => { t with inPart := all })

/-! ### Ports down (R237) -/

/-- LNK.PORT_STAT of a port. -/
def PortSt.stat (t : PortSt) (buf : Nat) : Nat :=
  t.state * 2 ^ 60 + t.neighbour % 2 ^ 14 * 2 ^ 46 + buf % 2 * 2 ^ 45 + t.peer % 16 * 2 ^ 40
    + (t.align % 256).toNat * 2 ^ 32 + t.delay % 2 ^ 16 * 2 ^ 16

/-- The LATE packets waiting at a port are discarded, and the packets partly sent or received are lost, with the messages in them
(R199, R237). -/
def State.dropLate (s : State) (p : Nat) : State :=
  let t := s.port p
  let lost := t.queue.filter (fun k => k.cls == 0) ++ t.outPkt.toList ++ t.inPkt.toList
  let s := lost.foldl (fun s k => s.dropMessages (t.queued k).1 (t.queued k).2) (s.stray p lost.length)
  s.modPort p (fun t => { t with queue := t.queue.filter (fun k => k.cls != 0), inPart := [], outSent := [], outRest := [] })

/-- Everything scheduled on a port is discarded, in both directions, and the steps of every context with a barge there fail
(R237). -/
def State.clearPort (s : State) (p : Nat) : State :=
  let t := s.port p
  let ctxs := ((t.table0.barges ++ t.table1.barges).map (·.ctx)).eraseDups
  let wire := t.wire.flatMap frameMsgs
  let s := ((s.dropLate p).dropBarges p t.barges).dropMessages s.moduleNo wire
  let s := ctxs.foldl (fun s x => s.discardFault (some x)) s
  s.modPort p (fun t => { t with wire := [], badRun := 0, sent := none, got := none,
                                 store := [], credit := [], returns := [] })

/-- A port goes DOWN: its scheduled flits go, it is logged and reported, and it is due to train again (R237). -/
def State.portDown (s : State) (p cause : Nat) : State :=
  let t := s.port p
  if t.state = 0 ∨ t.state = 6 then s
  else
    let s := (s.clearPort p).modPort p (fun t => { t with state := 0 })
    let s := s.note 4 true 0x30 0x0401 [p, cause, s.field (Off.lnkErrStat p) 62 48] none 0 p
    s.send (.towpath 0x0024 (natLe p 1 ++ natLe t.neighbour 2 ++ natLe ((s.port p).stat (t.bufFor s.clk.frame)) 8))

/-- A port goes DOWN for a reason whose code the spec does not give. -/
def State.portFails (s : State) (p : Nat) : State := s.drawn.portDown p (s.freeBelow 256)

/-- PORT_DOWN: a port's electrical lock or another cause that the port reports (R237). -/
def execPortDown (p : Sector) (cause : BitVec 8) (s : State) : Out := .next (s.portDown p.val cause.toNat)

/-! ### FRAME_RECEIVE (R214, R224, R236, R240) -/

/-- A RECOVERY packet names a frame to its sender (R236); its payload is the number, in seven bytes (log 29). -/
def State.askFrame (s : State) (p frame : Nat) : State :=
  s.enqueue p [s.newPacket 1 (if isCanal p then s.moduleNo else (s.port p).neighbour) 0 (natLe frame 7)]

/-- Every receive slot of a bad or missing frame is owed and asked for (R236). -/
def State.badFrame (s : State) (p frame : Nat) : State :=
  let t := s.port p
  let buf := t.bufFor frame
  let s := s.countField (Off.lnkErrStat p) 62 48 1
  let s := (List.range 40).foldl (fun s k =>
    match (t.table buf).rxAt frame k with
    | some i => s.expectFlit p (t.key buf i) frame k 1
    | none => s) s
  (s.askFrame p frame).modPort p (fun t => { t with badRun := t.badRun + 1, got := some frame })

/-- The frame that a port is receiving when none of its frames has arrived good yet: numbers agree hall-wide, so it is the one
that its neighbour began a delay and a frame ago (R216, R223; DEDUCED, log 29). -/
def State.frameDue (s : State) (p : Nat) : Nat := s.clk.frame - (((s.port p).delay + 255) / 256 + 1)

/-- A scheduled flit or an owed slot arrives in its slot (R224). -/
def State.slotIn (s : State) (p : Nat) (match_ : Bool) (f : Frame) (k : Nat) : State :=
  let t := s.port p
  let frame := f.frame.toNat
  let buf := t.bufFor frame
  let bs := f.flits.getD k []
  let kind := (f.map.getD k 2).toNat
  if kind = 2 then s.unscheduled p bs
  else if !match_ then
    (if kind = 3 then s else (s.stray p 1).dropMessages s.moduleNo (if kind = 1 then msgsIn bs else []))
  else
    match (t.table buf).rxAt frame k with
    | none =>
      if kind = 3 then s
      else (s.stray p 1).dropMessages s.moduleNo (if kind = 1 then msgsIn bs else [])
    | some i =>
      if kind = 3 then s.expectFlit p (t.key buf i) frame k 0
      else s.land p (t.key buf i) frame k (kind == 1) bs

/-- The flits of a good frame, its tag and its credit (R224, R231). -/
def State.goodFrame (s : State) (p : Nat) (f : Frame) : State :=
  let t := s.port p
  let same := isCanal p || decide (f.tag.toNat = (t.table (t.bufFor f.frame.toNat)).tag)
  let s := if same then s.modPort p (fun t => { t with state := if t.state = 5 then 3 else t.state })
    else (s.modPort p (fun t => { t with state := 5 })).noteFree 3 false 0x30 [p] none 0 p
  let s := (List.range 40).foldl (fun s k => s.slotIn p same f k) s
  let s := s.modPort p (fun t => { t with
    got := some f.frame.toNat, badRun := 0
    credit := smod 0 t.credit (f.credit.toNat % 8) (· + f.credit.toNat / 8) })
  s.passForwards p

/-- A link port takes a frame by number; missing ones before it are bad; the 64th bad frame in a row puts the port DOWN. -/
def State.linkFrame (s : State) (p : Nat) (f : Option Frame) : State :=
  let t := s.port p
  let down := fun (s : State) => if 64 ≤ (s.port p).badRun then s.portFails p else s
  match f, t.got with
  | none, some n => down (s.badFrame p (n + 1))
  | none, none => down (s.badFrame p (s.frameDue p))
  | some f, none => s.goodFrame p f
  | some f, some n =>
    if f.frame.toNat ≤ n then s
    else
      let s := down ((List.range (min (f.frame.toNat - n - 1) 64)).foldl (fun s i => s.badFrame p (n + 1 + i)) s)
      if (s.port p).up then s.goodFrame p f else s

/-- The slots of a canal frame that fail their CRC-32C: what has come does not give the CRC of what was sent (R240). -/
def failing (sent : Frame) (f : Option Frame) : List Nat :=
  (List.range 40).filter (fun k => match f with
    | some f => crc32c (f.flits.getD k []) != crc32c (sent.flits.getD k [])
    | none => true)

/-- A canal port takes the next frame of its edge: a failing slot is counted, and its flit comes again from the sender's
replay store, a packet's in its place (R240). -/
def State.canalFrame (s : State) (p : Nat) (f : Option Frame) : State :=
  match (s.port p).wire with
  | [] => s
  | sent :: rest =>
    if f.any (fun f => f.frame != sent.frame || f.map != sent.map) then s
    else
      let bad := failing sent f
      let owed := bad.filter (fun k => (sent.map.getD k 2).toNat < 2)
      let run := (s.port p).badRun
      let s := s.modPort p (fun t => { t with wire := rest })
      let s := s.countField (Off.canErrStat (p - 0x40)) 62 48 bad.length
      let s := s.goodFrame p { sent with
        map := (List.range 40).map (fun k => if owed.contains k then 3 else sent.map.getD k 2)
        flits := (List.range 40).map (fun k => if bad.contains k then sent.flits.getD k [] else
          ((f.map (·.flits)).getD []).getD k []) }
      let s := s.modPort p (fun t => { t with badRun := if bad.isEmpty then 0 else run + 1 })
      match edgeEnd p with
      | none => s
      | some q => owed.foldl (fun s k =>
          match (s.port q).store.find? (fun e => e.late.isNone && decide (e.frame = sent.frame.toNat ∧ e.slot = k)) with
          | some e => s.sendLate q e.barge e.frame e.slot e.msg e.bytes
          | none => s) s

/-- The symbols that the code corrected in each lane of a link frame are counted; CORR_KSYM shows their sum in thousands (R214). -/
def State.countSymbols (s : State) (p : Nat) (corrected : List Nat) : State :=
  if isCanal p then s
  else
    let s := s.modPort p (fun t => { t with corr := (List.range 8).foldl (fun m l => smod 0 m l (· + corrected.getD l 0)) t.corr })
    s.setField (Off.lnkErrStat p) 15 0 (min (((s.port p).corr.map (·.2)).sum / 1000) 65535)

/-- FRAME_RECEIVE: a frame arrives, or a lane's codeword is uncorrectable (`none`), with the symbols corrected in each lane. -/
def execFrameReceive (p : PortCode) (f : FrameArrival) (s : State) : Out :=
  let t := s.tableSwitch.countSymbols p.toNat f.corrected
  whenReady ((t.port p.toNat).up && t.clk.lock
      && (isCanal p.toNat || !t.fail.silenced.contains (t.port p.toNat).neighbour)) s
    (if isCanal p.toNat then t.canalFrame p.toNat f.frame else t.linkFrame p.toNat f.frame)

/-! ### FRAME_TRANSMIT (R223, R226, R231) -/

/-- The messages that go in one flit of a barge: those at the front of their queue whose data have been sent. -/
def State.msgsFor (s : State) (p i n : Nat) : List OutMsg :=
  (s.sync.outbox.filter (fun o => (o.via.map (fun v => (v.1, v.2.1))) == some (p, i))).takeWhile (fun o =>
    o.via.any (fun v => decide (v.2.2 ≤ n)) && s.joins o.sector (sectorOf p)) |>.take (flitBytes p / 16)

/-- The state without some outgoing messages, which leave by a port; those that go by the canal are still here. -/
def State.unqueue (s : State) (p : Nat) (ms : List OutMsg) : State :=
  let s := if isCanal p then s else s.depart (ms.map (·.msg))
  { s with sync := { s.sync with outbox := ms.foldl (fun q m => q.erase m) s.sync.outbox } }

/-- A forwarded flit is on its way to a FORWARD_OUT barge: passed to it and not yet sent, or held before its FORWARD_IN. -/
def State.forwardComing (s : State) (p i : Nat) : Bool :=
  (match (s.port p).barge ((s.port p).key (s.port p).active i) with
    | b => !b.ready.isEmpty)
  || s.lnk.ports.any (fun e => e.2.barges.any (fun b => !b.2.line.isEmpty
      && (e.2.desc b.1).any (fun d => d.kind == 3 && d.fwdPort == p && d.fwdBarge == i)))

/-- A slot is sent owed: the next flit of its FORWARD_OUT barge is not available (R226). -/
def State.oweSlot (s : State) (p key frame slot : Nat) : Option (Nat × List Byte) × State :=
  (some (3, List.replicate (flitBytes p) 0),
    s.modPort p (fun t => t.modBarge key (fun b => { b with owes := b.owes ++ [(frame, slot)] })))

/-- What a transmit slot carries, its MAP code and bytes, with the state after; nothing lends the slot (R223). -/
def State.slotOut (s : State) (p frame slot : Nat) : Option (Nat × List Byte) × State :=
  let t := s.port p
  let buf := t.bufFor frame
  match (t.table buf).txAt frame slot with
  | none => (none, s)
  | some i =>
    let key := t.key buf i
    let b := t.barge key
    let u := flitBytes p
    let keep := fun (s : State) (msg : Bool) (bs : List Byte) =>
      (some (b2n msg, bs), s.modPort p (fun t => { t with store := t.store ++ [⟨frame, slot, i, msg, bs, none⟩] }))
    match t.desc key with
    | none => (none, s)
    | some d =>
      if d.kind = 1 then
        let ms := s.msgsFor p i b.n
        let a := d.addr + (u * b.n) % d.length
        if !ms.isEmpty then keep (s.unqueue p ms) true (padTo u ((ms.map (fun o => msgBytes o.msg)).flatten))
        else if s.stepCount d.counter ≤ b.n || s.onMove a || !s.joins (sectorOf p) (sectorAt a) then (none, s)
        else
          match s.badIn a u with
          | some k => (none, s.uncorrectable d.ctx k (0x100 + p))
          | none => keep (s.modPort p (fun t => t.modBarge key (fun b => { b with n := b.n + 1 }))) false (s.loads d.ctx a u)
      else if d.kind = 4 then
        match b.ready with
        | (avail, msg, bs) :: rest =>
          if avail ≤ frame ∧ b.owes.isEmpty then
            keep (s.modPort p (fun t => t.modBarge key (fun b => { b with ready := rest, n := b.n + 1 }))) msg bs
          else s.oweSlot p key frame slot
        | [] => if s.forwardComing p i then s.oweSlot p key frame slot else (none, s)
      else if d.kind = 6 then
        match s.cutStream d.dest u with
        | some (bs, t) => keep t false bs
        | none => (none, s)
      else (none, s)

/-- Owed forwarded flits that are here by now follow as LATE packets (R226). -/
def State.sendOwed (s : State) (p : Nat) : State :=
  let t := s.port p
  (t.barges.filter (fun b => !b.2.owes.isEmpty)).foldl (fun s b =>
    let due := (b.2.ready.takeWhile (fun r => decide (r.1 ≤ s.clk.frame))).take b.2.owes.length
    let s := (due.zip b.2.owes).foldl (fun s e =>
      s.sendLate p (b.1 % 4096) e.2.1 e.2.2 e.1.2.1 e.1.2.2) s
    s.modPort p (fun t => t.modBarge b.1 (fun b => { b with
      ready := b.ready.drop due.length, owes := b.owes.drop due.length, n := b.n + due.length }))) s

/-- Messages with no barge toward their home, for the module first in the queue (R223, class SYNC). -/
def State.syncPacket (s : State) (p : Nat) : Option (List OutMsg) :=
  let mine := s.sync.outbox.filter (fun o => o.via.isNone && s.routeOf o.dest == some p && s.joins o.sector (sectorOf p))
  match mine with
  | [] => none
  | o :: _ => some ((mine.filter (fun m => m.dest == o.dest)).take 127)

/-- The highest-priority packet that is ready and has credit, and the state with it taken from its queue (R231). -/
def State.takePacket (s : State) (p : Nat) : Option (Packet × State) :=
  let t := s.port p
  let can := fun (k : Packet) => decide (k.flits.toNat + 1 ≤ sget 0 t.credit k.cls.toNat)
  let sync := (s.syncPacket p).map (fun ms =>
    (s.newPacket 2 ((ms.map (·.dest)).headD 0) ms.length ((ms.map (fun o => msgBytes o.msg)).flatten), s.unqueue p ms))
  let queued := fun (c : Nat) => (t.queue.find? (fun k => k.cls.toNat == c && can k)).map (fun k =>
    (k, s.modPort p (fun t => { t with queue := t.queue.erase k })))
  let pick := [0, 1, 2, 3, 4].findSome? (fun c =>
    (queued c).orElse (fun _ => if c = 2 then sync.bind (fun e => if can e.1 then some e else none) else none))
  pick.map (fun e => (e.1, e.2.modPort p (fun t => { t with
    credit := smod 0 t.credit e.1.cls.toNat (· - (e.1.flits.toNat + 1)) })))

/-- A lent slot: the next flit of the packet under way, of the next packet, or IDLE (R223, R231). -/
def State.lend (s : State) (p : Nat) : List Byte × State :=
  let u := flitBytes p
  let cut := fun (bs : List Byte) (s : State) => (padTo u (bs.take u), s.modPort p (fun t => { t with
    outSent := if (bs.drop u).isEmpty then [] else t.outSent ++ bs.take u, outRest := bs.drop u }))
  let rest := (s.port p).outRest
  if !rest.isEmpty then cut rest s
  else
    match s.takePacket p with
    | some (k, t) => cut (packetBytes k) t
    | none => (idleBytes u, s)

/-- Slots from `k` on, with their MAP codes and flits. -/
def State.fillSlots (s : State) (p frame : Nat) : Nat → Nat → List (Nat × List Byte) × State
  | 0, _ => ([], s)
  | n + 1, k =>
    let (out, t) := s.slotOut p frame k
    let (e, t) := match out with
      | some e => (e, t)
      | none => ((2, (t.lend p).1), (t.lend p).2)
    let (rest, t) := t.fillSlots p frame n (k + 1)
    (e :: rest, t)

/-- CREDIT of the next frame: the first class with flits to return. -/
def PortSt.creditOut (t : PortSt) : Nat × PortSt :=
  match t.returns with
  | (c, n) :: _ => (c + 8 * min n 8191, { t with returns := smod 0 t.returns c (· - min n 8191) })
  | [] => (0, t)

/-- The frame that a port sends, and the state after (R223). -/
def State.transmit (s : State) (p : Nat) : State :=
  let frame := s.clk.frame
  let s := (s.sendOwed p).exportOverflow p
  let s := s.modPort p (fun t => { t with store := t.store.filter (fun e =>
    e.late.isSome || decide (frame < e.frame + (if isCanal p then 4 else 128))) })
  let (slots, s) := s.fillSlots p frame 40 0
  let t := s.port p
  let (credit, t) := t.creditOut
  let s := s.modPort p (fun _ => { t with sent := some frame })
  let f : Frame :=
    { frame := BitVec.ofNat 56 frame, tag := BitVec.ofNat 8 (t.table (t.bufFor frame)).tag
      map := slots.map (fun e => BitVec.ofNat 2 e.1), credit := BitVec.ofNat 16 credit, flits := slots.map (·.2) }
  match (if isCanal p then edgeEnd p else none) with
  | some q => s.modPort q (fun t => { t with wire := t.wire ++ [f] })
  | none => s.send (.frame p (frameLanes f))

/-- FRAME_TRANSMIT: once per frame, a port with frame lock fills and sends its slots. -/
def execFrameTransmit (p : PortCode) (s : State) : Out :=
  let t := s.tableSwitch
  let u := t.port p.toNat
  whenReady (u.up && t.clk.lock && !t.fail.moved && portExists p.toNat
      && u.sent.all (fun n => decide (n < t.clk.frame))) s (t.transmit p.toNat)

/-! ### Resends (R236) -/

/-- RESEND_REQUEST: a RECOVERY packet names a frame of a port. -/
def execResendRequest (p : PortCode) (frame : BitVec 56) (s : State) : Out := .next (s.resendFrame p.toNat frame.toNat)

/-- RESEND_RETRY: a flit that was asked for and is not here 100 us after its request is asked for again; a slot asked for eight
times puts the port DOWN. -/
def execResendRetry (p : PortCode) (b : BitVec 12) (s : State) : Out :=
  let t := s.port p.toNat
  let late := fun (l : Berth) => l.flit.isNone && decide (0 < l.asks ∧ l.askedAt + 100000000 ≤ s.clk.now)
  match t.barges.find? (fun e => e.1 % 4096 == b.toNat && e.2.line.any late) with
  | none => .next s
  | some (key, st) =>
    match st.line.find? late with
    | none => .next s
    | some l =>
      if 8 ≤ l.asks then .next (s.portFails p.toNat)
      else .next ((s.modPort p.toNat (fun t => t.modBarge key (fun b => { b with line := b.line.map (fun m =>
        if m = l then { m with asks := m.asks + 1, askedAt := s.clk.now } else m) }))).askFrame p.toNat l.frame)

/-- CANAL_EDGE_LOST: an edge that fails 64 consecutive frames is lost; the steps of every context with a barge on it fail, packets
that waited for it take another route, and takeover is asked for (R240). -/
def execCanalEdgeLost (c : Fin 64) (s : State) : Out :=
  let p := 0x40 + c.val
  match edgeEnd p with
  | none => .next s
  | some q =>
    if !(s.port p).up || (s.port p).badRun < 64 then .next s
    else
      let one := fun (s : State) (p : Nat) =>
        let t := s.port p
        let ctxs := ((t.table t.active).barges.map (·.ctx)).eraseDups
        let s := s.clearPort p
        let s := ctxs.foldl (fun s x => if (s.ctx x).state = 0 then s else s.stepFault x .fail stStepFailed) s
        s.modPort p (fun t => { t with state := 0, lost := true })
      let rest := fun (s : State) (e : Nat) =>
        (s.port e).queue.foldl (fun s k => if k.dest.toNat = s.moduleNo then s else s.passOn e k)
          (s.modPort e (fun t => { t with queue := [] }))
      .next ((rest (rest (one (one s p) q) p) q).takeoverReq 0x32 c.val)

end Sys2Proof.Machine
end

