-- ==== Sys2Proof/Machine/Training.lean ====
section
/-! DEFINITION. Training, numbering and alignment of the ports, and the hall reference (11 R215-R219, R237, R238). -/

namespace Sys2Proof.Machine

/-- The magnitude of an offset given as x_a - x_b, twice the offset, passes 3.0 ns; times are in 0.1 ns (R216-R218). -/
def beyond3ns (twice : Int) : Bool := decide (60 < twice.natAbs)

/-- Whole reference cycles of 6.4 ns nearest to half of x_a - x_b (R216). -/
def wholeCycles (twice : Int) : Int := (twice + 64) / 128

/-- Frame lock is gained or lost; LNK.NODE_CFG.LOCKED shows it. -/
def State.setLock (s : State) (b : Bool) : State :=
  (s.moveLock b).setFlag Off.lnkNodeCfg 1 b

/-- What a port measured at its training. -/
def PortSt.measured (t : PortSt) (m : PortTraining) : PortSt :=
  { t with neighbour := m.neighbour.toNat, peer := m.peerPort.toNat, neighbourLocked := m.neighbourLocked
           align := (m.xa - m.xb) / 2, delay := ((m.xa + m.xb) / 2).toNat }

/-- Frames are numbered anew, from a count of reference cycles: no frame counts as sent or received, every table in force governs
from frame 0, and the units that keep a frame number take the new one (R215, R216). -/
def State.renumber (s : State) (cycles : Nat) : State :=
  { s with
    clk := { s.clk with frame := cycles / 4, edge := cycles % 4 }
    lnk := { s.lnk with ports := s.lnk.ports.map (fun e => (e.1, { e.2 with
      since := 0, sent := none, got := none, checked := none, wire := [], store := [] })) }
    stks := s.stks.map (fun e => (e.1, { e.2 with window := cycles / 256 })) }

/-- Numbering: a module with frame lock checks it, and the port is UP or SPLIT; one without adopts a locked neighbour's, and
has lock if what is left of the offset is small (R216, R217). -/
def State.numberPort (s : State) (p : Nat) (m : PortTraining) : State :=
  let twice := m.xa - m.xb
  if s.clk.lock then
    if beyond3ns twice then (s.modPort p (fun t => { t with state := 4 })).noteFree 3 true 0x30 [p] none 0 p
    else s.modPort p PortSt.enterUp
  else if !m.neighbourLocked then s.modPort p (fun t => { t with state := 2 })
  else
    let cycles := wholeCycles twice
    let s := s.renumber ((4 * (s.clk.frame : Int) + s.clk.edge + cycles).toNat)
    let rest := twice - 128 * cycles
    let s := s.modPort p (fun t => { t with align := rest / 2 })
    if beyond3ns rest then s.modPort p (fun t => { t with state := 2 })
    else (s.setLock true).modPort p PortSt.enterUp

/-- PORT_TRAINING: electrical training, measurement, numbering and table check of an enabled port (Table 11-3). An option that
is not listed is left out where the standard allows; a request that insists on it is rejected and logged (00 R6). -/
def execPortTraining (p : Sector) (t : PortTraining) (s : State) : Out :=
  if !s.flag (Off.lnkPortCtrl p.val) 0 || s.lnk.refLost || s.fail.moved || decide (2 < (s.port p.val).state) then .next s
  else if t.asks = some .needed then .next ((s.noteFree 2 false 0x30 [p.val] none 0 p.val).modPort p.val (fun t => { t with state := 1 }))
  else if !t.lanesUp || decide (200 < t.skewNs * 10) then .next (s.modPort p.val (fun t => { t with state := 1 }))
  else if 20000 < t.xa + t.xb then .next (s.modPort p.val (fun u => { u.measured t with state := 0 }))
  else .next ((s.modPort p.val (fun u => u.measured t)).numberPort p.val t)

/-- ALIGNMENT_CHECK: once in a lock cycle an UP port measures again, and reports an offset beyond 3.0 ns (R218). -/
def execAlignmentCheck (p : Sector) (xa xb : Int) (s : State) : Out :=
  let t := s.port p.val
  if !t.up || t.checked.any (fun c => decide (c = s.lockCycle)) then .next s
  else
    let s := s.modPort p.val (fun t => { t with align := (xa - xb) / 2, checked := some s.lockCycle })
    .next (if beyond3ns (xa - xb) then s.note 3 true 0x30 0x0402 [p.val, ((xa - xb) / 2 % 2 ^ 64).toNat] none 0 p.val else s)

/-- Contexts with a barge or a step in progress. -/
def State.busyContexts (s : State) : List Nat :=
  (s.ctxs.map (·.1)).filter (fun x => !(s.ctx x).stepCmds.isEmpty
    || s.lnk.ports.any (fun e => (e.2.table0.barges ++ e.2.table1.barges).any (fun b => b.ctx == x)))

/-- A canal port starts again: what it held is discarded as under port loss, and its credit granted anew (R219, R231). -/
def State.restartCanal (s : State) (p : Nat) : State :=
  if (s.port p).up then (s.clearPort p).modPort p PortSt.enterUp else s

/-- HALL_REF_LOSS: every port and the canal lose frame lock, every port goes DOWN, and the steps concerned fail (R219). -/
def execHallRefLoss (s : State) : Out :=
  if s.lnk.refLost then .next s
  else
    let s := { s with lnk := { s.lnk with refLost := true } }
    let s := ((List.range 16).foldl (fun s p => s.portFails p) s).setLock false
    let s := ((List.range 64).map (0x40 + ·)).foldl State.restartCanal s
    .next (s.busyContexts.foldl (fun s x => s.discardFault (some x)) s)

/-- HALL_REF_RETURN: the reference has edges again, and the ports may train (R219). -/
def execHallRefReturn (s : State) : Out := .next { s with lnk := { s.lnk with refLost := false } }

/-- ANCHOR_SET: a module with ANCHOR set and no neighbour with frame lock starts frame 0 (R216). -/
def execAnchorSet (s : State) : Out :=
  let neighbour := (List.range 16).any (fun p => (s.port p).neighbourLocked && decide (2 ≤ (s.port p).state ∧ (s.port p).state ≤ 5))
  whenReady (s.flag Off.lnkNodeCfg 0 && !s.clk.lock && !s.lnk.refLost && !neighbour) s
    ((s.renumber 0).setLock true)

/-- PORT_ERROR_WARNING: over 1 s more than 10^-5 of the symbols were corrected, or more than 10^-6 of the frames bad: a
warning, once per hour at most (R238). -/
def execPortErrorWarning (p : Sector) (symbols corrected frames bad : Nat) (s : State) : Out :=
  let t := s.port p.val
  if !t.up then .next s
  else
    let above := decide (symbols < corrected * 100000 ∨ frames < bad * 1000000)
    let quiet := t.warnedAt.all (fun w => decide (w + 3600000000000000 ≤ s.clk.now))
    .next (if above && quiet then
      (s.noteFree 3 true 0x30 [p.val, corrected, bad] none 0 p.val).modPort p.val (fun t => { t with warnedAt := some s.clk.now })
      else s)

/-- What a write of LNK.PORT_CTRL does: EN powers a port up or down; RETRAIN trains it again if neither buffer assigns a slot, and is otherwise
ignored and logged (R238). -/
def State.writePortCtrl (s : State) (f : Nat) (p : Sector) (v : Word) : State :=
  let off := Off.lnkPortCtrl p.val
  if !s.mayWrite f .pf 0 0 then (s.ignored f off v.toNat)
  else
    let was := s.flag off 0
    let en := v.toNat.testBit 0
    let s := s.putReg f off 1 0 (v.toNat % 2 ^ 32)
    let t := s.port p.val
    if !en then ((if t.up then s.clearPort p.val else s).modPort p.val (fun t => { t with state := 6 }))
    else if !was then (s.modPort p.val (fun t => { t with state := 0 }))
    else if !v.toNat.testBit 1 then s
    else if t.table0.free && t.table1.free then ((s.clearPort p.val).modPort p.val (fun t => { t with state := 0 }))
    else (s.ignored f off v.toNat)

/-- PORT_CTRL_WRITE. -/
def execPortCtrlWrite (f : Func) (p : Sector) (v : Word) (s : State) : Out :=
  .next (if s.barOpen then s.writePortCtrl f.val p v else s)

end Sys2Proof.Machine
end

