-- ==== Sys2Proof/Machine/Registers.lean ====
section
/-! DEFINITION. Writes of BAR 0: access size, who may write, the boot lock, and each register's own rules (12 R245; 17 R359, R361;
18 R364-R371). -/

namespace Sys2Proof.Machine

/-! ### The MSI-X table (12 R246) -/

/-- The offset lies in the MSI-X table or pending-bit array. -/
def isMsix (off : Nat) : Bool := decide (0x10000 ≤ off ∧ off < 0x10000 + 1040) || decide (0x11000 ≤ off ∧ off < 0x11010)

/-- The reset value of a word of the MSI-X table: vectors are masked. -/
def msixReset (w : Nat) : BitVec 32 := if w % 4 = 3 then 1 else 0

/-- A word of the MSI-X table is written; a vector that is unmasked while pending is sent. -/
def State.msixWord (s : State) (f w v : Nat) : State :=
  let new := BitVec.ofNat 32 (if w % 4 = 3 then v % 2 else v)
  let s : State := { s with io := { s.io with msix := sput (msixReset w) s.io.msix (260 * f + w) new } }
  if w % 4 = 3 ∧ v % 2 = 0 ∧ sget false s.io.msixPending (65 * f + w / 4) then
    State.irq { s with io := { s.io with msixPending := sput false s.io.msixPending (65 * f + w / 4) false } } f (w / 4)
  else s

/-- A write in the MSI-X range, under the access rules of PCI Express; the pending bits are read only. Vector 1 + x belongs to the function
of context x: a write of its entry through another is ignored and logged (17 Table 17-3). -/
def State.msixWrite (s : State) (f off bytes v : Nat) : State :=
  let w := (off - 0x10000) / 4
  if 0x11000 ≤ off ∨ ¬(bytes = 4 ∨ bytes = 8) ∨ off % bytes ≠ 0 then s
  else if 4 ≤ w ∧ s.funcOf (w / 4 - 1) ≠ f then s.ignored f off v
  else
    let s := s.msixWord f w (v % 2 ^ 32)
    if bytes = 8 then s.msixWord f (w + 1) (v / 2 ^ 32) else s

/-! ### Registers with rules of their own -/

/-- A step command of the context is in progress (12, CTX registers). -/
def State.stepRuns (s : State) (x : Nat) : Bool := (s.ctx x).stepCmds.any (fun d => decide (d.phase = .started))

/-- The context waits to be reattached. -/
def CtxSt.detached (c : CtxSt) : Bool := c.state == 3 || c.state == 4 || c.state == 6

/-- Two contexts with MODULES of 2 or more have one JOB. -/
def State.jobClash (s : State) : Bool :=
  let js := (List.range 64).filter (fun x => decide (2 ≤ s.field (Off.ctxJob x) 13 0))
  js.any (fun x => js.any (fun y => decide (x < y) && decide (s.field (Off.ctxJobId x) 15 0 = s.field (Off.ctxJobId y) 15 0)))

/-- Two extents of at least one byte meet. -/
def extentsMeet (a b : Nat × Nat) : Bool := decide (0 < a.2 ∧ 0 < b.2 ∧ a.1 < b.1 + b.2 ∧ b.1 < a.1 + a.2)

/-- The outgoing spool of a stack, and the inbound spool of a source, as stack and extent in MiB: as last written, also where the
write still waits for its frame boundary. -/
def State.expSpoolAt (s : State) (k : Nat) : Nat × Nat × Nat :=
  let v := s.regShown (Off.updExpSpool k)
  (k, bits v 14 0, bits v 46 32)
def State.mirSpoolAt (s : State) (p : Nat) : Nat × Nat × Nat :=
  let v := s.regShown (Off.updMirrorSpool p)
  (bits v 52 48, bits v 14 0, bits v 46 32)

/-- The ranges of SEC.CTX_MEM of enabled contexts, as first MiB and MiB. -/
def State.usedRanges (s : State) : List (Nat × Nat) :=
  ((List.range 64).filter s.ctxEnabled).flatMap (fun x => (List.range 32).filterMap (fun r =>
    let o := Off.secCtxMem x r
    if s.flag o 63 then some (s.field o 27 0, s.field o 62 48) else none))

/-- An inbound spool would meet another spool or a range that contexts use (09 R176). -/
def State.mirSpoolClash (s : State) (p v : Nat) : Bool :=
  let st := bits v 52 48
  let e := (bits v 14 0, bits v 46 32)
  let others := ((List.range 16).filter (fun q => decide (q ≠ p))).map s.mirSpoolAt ++ (List.range 32).map s.expSpoolAt
  others.any (fun o => decide (o.1 = st) && extentsMeet e o.2)
    || s.usedRanges.any (fun r => extentsMeet (st * 0x8000 + e.1, e.2) r)

/-- Spilled flits lie in the area of a port, or of a sector's canal ports (11 R235). -/
def State.holdsSpill (s : State) (link : Bool) (n : Nat) : Bool :=
  s.lnk.ports.any (fun e => (if link then e.1 == n else isCanal e.1 && sectorOf e.1 == n)
    && e.2.barges.any (fun b => b.2.line.any (fun l => l.spilled.isSome)))

/-- A spill area of a comb die is written (18 R371). -/
def State.spillOk (s : State) (link : Bool) (n v : Nat) : Bool :=
  let o := if link then Off.canSpill n else Off.lnkSpill n
  !extentsMeet (bits v 9 0, bits v 26 16) (s.field o 9 0, s.field o 26 16) && !s.holdsSpill link n

/-- A context has rows in its forager journal. -/
def State.journalHeld (s : State) (k x : Nat) : Bool := decide (s.reg (Off.memFjUsed k x) ≠ 0)

/-- The counts of an error register are zeroed; a port's count of each lane with them (11 R214). -/
def State.clearCounts (s : State) (off v : Nat) (port : Option Nat := none) : State :=
  if v.testBit 63 then port.elim (s.setReg off 0) (fun p => (s.setReg off 0).modPort p (fun t => { t with corr := [] })) else s

/-- The lock of the protection set-up (17 R361). -/
def State.locked (s : State) : Bool := s.flag Off.secProtLock 0
def State.lockNow (s : State) : State := (s.setFlag Off.secProtLock 0 true).setFlag Off.hifModuleStat 15 true

/-- A write of CTX.ATTACH: REFUSED clears where written 1, and ACTION acts. -/
def State.writeAttach (s : State) (f : Nat) (x : Ctx) (v : Nat) : State :=
  let s := if v.testBit 2 then s.setFlag (Off.ctxAttach x.val) 2 false else s
  let act : Out := match v % 4 with
    | 1 => execAttachResume ⟨f % 16, by omega⟩ x s
    | 2 => execAttachReplay ⟨f % 16, by omega⟩ x s
    | 3 => execAttachCancel ⟨f % 16, by omega⟩ x s
    | _ => .next s
  match act with
  | .next t => t
  | _ => s

/-- A write of UPD.MIRROR_IN: a source given up or changed leaves nothing. -/
def State.writeMirrorIn (s : State) (f p v : Nat) : State :=
  let off := Off.updMirrorIn p
  let was := (s.flag off 63, s.field off 62 49)
  let s := s.putReg f off 0xFFFE7FFFFFFF0000 0 v
  if was = (s.flag off 63, s.field off 62 49) then s else s.modMirror p (fun _ => { heard := s.clk.now })

/-- What a permitted write does to a register: its RW bits take the value and its W1C bits written 1 clear, unless the register has
a rule of its own. -/
def State.regEffect (s : State) (r : RegRow) (i j off f v : Nat) : State :=
  let plain := if r.reg.dataPlane then (s.stageReg off (maskedWrite r.rw 0 (s.reg off) v)).noteReserved f off v
    else s.putReg f off r.rw r.w1c v
  let barring := fun (b : Bool) => if b then s.ignored f off v else plain
  match r.reg with
  | .ctxSqBase => if s.flag (Off.ctxRingCfg i) 31 && !(s.ctx i).detached then s.cfgErr i else plain
  | .ctxCqBase => if s.flag (Off.ctxRingCfg i) 31 && !(s.ctx i).detached then s.cfgErr i else plain
  | .ctxRingCfg => if s.ctxEnabled i then s.writeRingCfg f i v else s.ignored f off v
  | .ctxHostBase => barring (s.stepRuns i && !(s.ctx i).detached)
  | .ctxHostSize => barring (s.stepRuns i && !(s.ctx i).detached)
  | .ctxJob => barring (s.stepRuns i || plain.jobClash)
  | .ctxJobId => barring (s.stepRuns i || plain.jobClash)
  | .ctxAttach => if h : i < 64 then (s.writeAttach f ⟨i, h⟩ v).noteReserved f off v else s
  | .synXlate => s.writeXlate f i j v
  | .synBarCfg => s.writeBarCfg f i v
  | .synBarPart => s.writeBarPart f i j v
  | .synCntCfg => s.writeCntCfg f i v
  | .memPart => barring (s.flag (Off.memSluiceCmd i) 2)
  | .memSluice => barring (s.flag (Off.memSluiceCmd i) 2)
  | .memSluiceCmd => if h : i < 32 then (if v.testBit 0 then plain.sluiceCommit f ⟨i, h⟩ else plain) else s
  | .memCtrl =>
    let v' := setBits v 26 16 (max 15 (min 1440 (bits v 26 16)))
    (s.stageReg off (maskedWrite r.rw 0 (s.reg off) v')).noteReserved f off v
  | .memErrStat => s.clearCounts off v
  | .lnkErrStat => s.clearCounts off v (some i)
  | .canErrStat => (s.clearCounts off v).noteReserved f off v
  | .memFjCfg => barring (s.journalHeld i j)
  | .updExpCtrl => s.writeExpCtrl f (BitVec.ofNat 64 v)
  | .updExpHost => s.writeExpHost f (BitVec.ofNat 64 v)
  | .updExpSpool => barring (decide (s.spoolUsed i ≠ 0))
  | .updMirrorIn => s.writeMirrorIn f i v
  | .updMirrorSpool => barring (!(s.mirror i).spool.isEmpty || s.mirSpoolClash i v)
  | .lnkPortCtrl => if h : i < 16 then s.writePortCtrl f ⟨i, h⟩ (BitVec.ofNat 64 v) else s
  | .lnkSpill => barring (!s.spillOk true i v)
  | .canSpill => barring (!s.spillOk false i v)
  | .lnkNodeCfg => barring ((List.range 16).any (fun p => (s.port p).up))
  | .lnkTableSelect => s.writeTableSelect f (BitVec.ofNat 64 v)
  | .lnkTableAt => barring (s.flag Off.lnkTableSelect 30)
  | .pwrDroopCfg => barring (decide (bits v 23 16 < bits v 7 0 + 16))
  | .fwlLogCfg =>
    if s.flag off 31 && decide (bits v 4 0 ≠ s.field off 4 0) then
      (s.setReg off (maskedWrite 0x80000700 0 (s.reg off) v)).ignored f off v
    else plain
  | .fwlLogPos => s.writeLogHead f (BitVec.ofNat 64 v)
  | .fwlTraceEn => if traceExists (32 * i) then plain else s
  | .secCtxSlots => if j = 4 then (if v < 0x10000 then s.setReg off v else (s.setReg off (v % 0x10000)).ignored f off v) else plain
  | .secProtLock => (if v.testBit 0 then s.lockNow else s).noteReserved f off v
  | _ => plain

/-- A write of `bytes` bytes at an offset of BAR 0 through a function (R364, R365). -/
def State.writeRegister (s : State) (f off bytes v : Nat) : State :=
  if isMsix off then s.msixWrite f off bytes v
  else
    match regAt off with
    | none => s.ignored f off v
    | some (r, i, j) =>
      if bytes ≠ r.bytes ∨ r.access = .ro ∨ (r.access = .bl ∧ s.locked) ∨ !s.mayWrite f r.writer i j then s.ignored f off v
      else s.regEffect r i j off f v

/-- REGISTER_WRITE. -/
def execRegisterWrite (f : Func) (offset : BitVec 26) (bytes : Nat) (v : Word) (s : State) : Out :=
  .next (if s.barOpen then s.writeRegister f.val offset.toNat bytes (if bytes = 8 then v.toNat else v.toNat % 2 ^ 32) else s)

/-- The register counts errors: MEM.ERR_STAT, LNK.ERR_STAT or CAN.ERR_STAT. -/
def isErrStat (off : Nat) : Bool :=
  match regAt off with
  | some (r, _, _) => r.reg == .memErrStat || r.reg == .lnkErrStat || r.reg == .canErrStat
  | none => false

/-- ERROR_COUNT_CLEAR: CLEAR written to an error-count register zeroes its counts (R367). -/
def execErrorCountClear (f : Func) (offset : BitVec 26) (v : Word) (s : State) : Out :=
  .next (if s.barOpen && isErrStat offset.toNat then s.writeRegister f.val offset.toNat 8 v.toNat else s)

/-- PROT_LOCK: the write-once lock is written. -/
def execProtLock (f : Func) (v : Word) (s : State) : Out :=
  .next (if s.barOpen then s.writeRegister f.val Off.secProtLock 4 (v.toNat % 2 ^ 32) else s)

end Sys2Proof.Machine
end

