-- ==== Sys2Proof/Machine/Thermal.lean ====
section
/-! DEFINITION. Temperature sensors, coolant flow, the thermal limits and THERMTRIP_N as events (16 R341-R348; 19 R383, R385). -/

namespace Sys2Proof.Machine

/-! ### Flow (16 R342) -/

/-- A number held within bounds. -/
def clamp (lo hi v : Nat) : Nat := max lo (min hi v)

/-- K in pulses per litre, and STOP_MS. -/
def State.flowK (s : State) : Nat := clamp 100 20000 (s.field Off.thmFlowCfg 15 0)
def State.stopPs (s : State) : Nat := clamp 5 100 (s.field Off.thmFlowCfg 31 24) * 1000000000

/-- F in 0.01 L/min, cut to whole units. -/
def State.flowCenti (s : State) : Nat := 100 * s.thm.flow.1 / s.thm.flow.2

/-- The time since which a condition holds. -/
def since (now : Nat) (c : Bool) (t : Option Nat) : Option Nat := if c then some (t.getD now) else none

/-- F takes a value, and THM.COOLANT and the times that the warnings rest on follow. -/
def State.setFlow (s : State) (f : Nat × Nat) : State :=
  let s : State := { s with thm := { s.thm with flow := f } }
  let now := s.clk.now
  let s : State := { s with thm := { s.thm with
    flowLow := since now (!s.flowAtLeast 80) s.thm.flowLow
    flowOk := since now (s.flowAtLeast 85) s.thm.flowOk
    flowHalf := since now (s.flowAtLeast 50) s.thm.flowHalf } }
  s.setField Off.thmCoolant 63 48 (min s.flowCenti 65535)

/-- FLOW_PULSE: a pulse of at least 20 µs; F is over the last 8 intervals since it was last 0. -/
def execFlowPulse (widthUs : Nat) (s : State) : Out :=
  if widthUs < 20 ∨ !s.pwr.aux then .next s
  else
    let ps := (s.clk.now :: s.thm.pulses).take 9
    let total := s.clk.now - ps.getLastD s.clk.now
    let s : State := { s with thm := { s.thm with pulses := ps, lastPulse := some s.clk.now } }
    .next (if total = 0 then s else s.setFlow (60000000000000 * (ps.length - 1), s.flowK * total))

/-- FLOW_DECAY: F falls with the time since the last pulse, and is 0 after STOP_MS and while no pulse has come. -/
def execFlowDecay (s : State) : Out :=
  match s.thm.lastPulse with
  | none => .next (if s.pwr.aux then s.setFlow (0, 1) else s)
  | some t =>
    let d := s.clk.now - t
    if s.stopPs ≤ d then .next (State.setFlow { s with thm := { s.thm with pulses := [] } } (0, 1))
    else
      let n := 60000000000000
      whenReady (decide (0 < d ∧ n * s.thm.flow.2 < s.thm.flow.1 * (s.flowK * d))) s (s.setFlow (n, s.flowK * d))

/-- FLOW_STOP: with the rails up, no pulse has come for STOP_MS: the lowest state, and takeover is asked for (R344, R348). -/
def execFlowStop (s : State) : Out :=
  match s.thm.lastPulse with
  | none => .next s
  | some t =>
    if !s.pwr.rails || s.flowStopped || decide (s.clk.now < t + s.stopPs) then .next s
    else
      let before := s.forced
      let seq := s.log.seq
      let s := (s.setFlag Off.thmStat 2 true).powerLog 5 true 0x03 [0x42, s.flowCenti, 1]
      let s := State.setFlow { s with thm := { s.thm with pulses := [], stopReq := some seq } } (0, 1)
      .next (s.limitsMoved before)

/-- A condition has held for a time. -/
def heldFor (now ps : Nat) (t : Option Nat) : Bool := t.any (fun u => decide (u + ps ≤ now))

/-- FLOW_STOP_RELEASE: F has been at least half of NOMINAL for 1 s. -/
def execFlowStopRelease (s : State) : Out :=
  if !s.flowStopped || !heldFor s.clk.now 1000000000000 s.thm.flowHalf then .next s
  else
    let before := s.forced
    .next (((s.setFlag Off.thmStat 2 false).powerLog 5 true 0x03 [0x42, s.flowCenti, 0]).limitsMoved before)

/-! ### Coolant readings and warnings (16 R341, R343, R348) -/

/-- A temperature in 0.1 degC as a 16-bit field. -/
def tempField (t : Int) : Nat := (t % (2 ^ 16 : Int)).toNat

/-- A coolant sensor has failed (R343). -/
def State.coolantLost (s : State) : Bool := s.thm.inletLost || s.thm.outletLost

/-- COOLANT_READ: the inlet and outlet sensors, in 0.1 degC; the failure of either is told to the fleet manager. -/
def execCoolantRead (inlet outlet : Option Int) (s : State) : Out :=
  if !s.pwr.aux then .next s
  else
    let now := s.clk.now
    let t := s.thm
    let fails := (inlet.isNone && !t.inletLost) || (outlet.isNone && !t.outletLost)
    let s := if fails then s.noteFree 3 true 0x03 [b2n inlet.isNone, b2n outlet.isNone] else s
    let s : State := { s with thm := { s.thm with
      inlet := inlet, outlet := outlet, inletLost := inlet.isNone, outletLost := outlet.isNone
      inletHigh := since now (inlet.any (fun v => decide (450 < v))) t.inletHigh
      inletOk := since now (inlet.any (fun v => decide (v ≤ 440))) t.inletOk } }
    let s := match inlet with
      | some v => s.setField Off.thmCoolant 31 16 (tempField v)
      | none => s
    .next (match outlet with
      | some v => s.setField Off.thmCoolant 47 32 (tempField v)
      | none => s)

/-- A warning of Table 16-2 is set after 1 s of its condition, and cleared after 10 s of the other. -/
def State.coolantWarning (s : State) (bit cause arg arg2set arg2clear : Nat) (on off : Option Nat) : State :=
  if !s.flag Off.thmStat bit && heldFor s.clk.now 1000000000000 on then
    (s.setFlag Off.thmStat bit true).powerLog 3 true 0x03 [cause, arg, arg2set]
  else if s.flag Off.thmStat bit && heldFor s.clk.now 10000000000000 off then
    (s.setFlag Off.thmStat bit false).powerLog 3 true 0x03 [cause, arg, arg2clear]
  else s

/-- FLOW_LOW. -/
def execFlowLow (s : State) : Out := .next (s.coolantWarning 3 0x40 s.flowCenti 1 0 s.thm.flowLow s.thm.flowOk)

/-- INLET_HIGH. -/
def execInletHigh (s : State) : Out :=
  .next (s.coolantWarning 4 0x41 (tempArg (s.thm.inlet.getD 0)) 1 0 s.thm.inletHigh s.thm.inletOk)

/-- The thermal cap C, and the budget in force. -/
def State.thermalCap (s : State) : Nat := s.field Off.thmStat 63 48
def State.budget (s : State) : Nat := s.field Off.pwrBudget 47 32

/-- CAP_BINDING. -/
def execCapBinding (s : State) : Out :=
  .next (s.coolantWarning 5 0x46 s.thermalCap s.budget s.budget s.thm.binding s.thm.unbound)

/-! ### Junction sensors (16 R341, R343) -/

/-- A sensor is marked failed: excluded, counted, logged with its last reading. -/
def State.sensorFails (s : State) (n : Nat) (reading : Int) : State :=
  let s : State := { s with thm := { s.thm with failed := sput false s.thm.failed n true } }
  (s.countField Off.thmStat 15 8 1).powerLog 3 true 0x03 [0x47, n, tempArg reading]

/-- JUNCTION_CONVERSION: a working sensor's reading is compared with the limits; one that stops, or reads below -10 or above 150
degC, fails. -/
def execJunctionConversion (n : Fin 1280) (reading : Option Int) (s : State) : Out :=
  if sget false s.thm.failed n.val || !s.pwr.aux then .next s
  else
    match reading with
    | none => .next (s.sensorFails n.val ((sget none s.thm.temps n.val).getD 0))
    | some t =>
      if t < -10 ∨ 150 < t then .next (s.sensorFails n.val t)
      else
        let s : State := { s with thm := { s.thm with temps := sput none s.thm.temps n.val (some t) } }
        let s := s.setField Off.thmStat 47 40 (((s.hottest).map (fun e => e.2.toNat)).getD 0)
        .next (s.thermalLimits n.val t)

/-! ### THERMTRIP_N (16 R347; 19 R383, R385) -/

/-- THERMTRIP_RELEASE: after 10 s, with the outlet below 50 degC and half the flow, the line is released and a module reset
follows; not while the tray holds the line low. -/
def execThermtripRelease (s : State) : Out :=
  let cool := s.thm.outlet.any (fun t => decide (t < 500)) && s.flowAtLeast 50
  whenReady (heldFor s.clk.now 10000000000000 s.thm.trip && cool && !s.thm.trayTrip) s
    ((s.send (.pin "THERMTRIP_N" true)).moduleReset true true)

/-- THERMTRIP_INPUT: the tray pulls the line low, which takes the rails away, or releases it: a module reset follows if it had. -/
def execThermtripInput (low : Bool) (s : State) : Out :=
  if low then
    let t := if s.pwr.rails then s.collapse else s
    .next { t with thm := { t.thm with trayTrip := true, trayFell := t.thm.trayFell || s.pwr.rails } }
  else
    let t : State := { s with thm := { s.thm with trayTrip := false, trayFell := false } }
    .next (if s.thm.trayFell && s.thm.trip.isNone then t.moduleReset true true else t)

end Sys2Proof.Machine
end

