-- ==== Sys2Proof/Machine/Boot.lean ====
section
/-! DEFINITION. Supplies, module reset and boot (14 R288-R296, R314; 15 R318-R320, R340; 17 R353-R356, R360; 19 R381-R386). -/

namespace Sys2Proof.Machine

/-! ### Settings (14 R295, R296; 17 R355) -/

/-- The settings image used: of the copies that pass their digest check the one with the higher GEN, and its device. -/
def State.settingsCopy (s : State) : Option (Settings × Nat) :=
  let good := fun (d : Device) => d.settings.bind (fun t => if t.headerOk && t.digestOk then some t else none)
  match good s.fw.dev0, good s.fw.dev1 with
  | some a, some b => if a.gen.toNat < b.gen.toNat then some (b, 1) else some (a, 0)
  | some a, none => some (a, 0)
  | none, some b => some (b, 1)
  | none, none => none

/-- The settings image is chosen and passes the owner policy, or is ignored as a whole. -/
def State.chooseSettings (s : State) : State :=
  let reject := fun (d code : Nat) =>
    (if s.fw.fuses.ownerMode = 1 then s.settingsFailed d code else s.noteFree 3 true 0x01 []).setFlag Off.fwlSettingsStat 31 true
  match s.settingsCopy with
  | some (t, d) =>
    let code := s.fw.fuses.settingsCode t
    if code = 0 then
      let s : State := { s with fw := { s.fw with settings := some (t, d) } }
      (((s.setField Off.fwlSettingsStat 30 30 d).setField Off.fwlSettingsStat 15 0 (t.gen.toNat % 2 ^ 16)).setMeas 6
        t.digest)
    else reject d code
  | none =>
    match s.fw.dev0.settings, s.fw.dev1.settings with
    | none, none => s
    | some _, _ => reject 0 5
    | none, some _ => reject 1 5

/-- The value puts a reserved encoding in a field of the register. -/
def reservedValue (r : Reg) (v : Nat) : Bool :=
  match r with
  | .memCtrl => bits v 1 0 == 3
  | .numStillCtrl => decide (2 ≤ bits v 17 16)
  | .numFreezeCtrl => bits v 1 0 == 3
  | .synXlate => decide (2 ≤ bits v 62 61)
  | .synBarCfg => decide (64 < bits v 54 48)
  | _ => false

/-- A settings record is applied: its register is writable with its width, and FLAGS says whether it is BL. -/
def recordOk (r : SettingsRecord) : Bool :=
  match regAt r.offset.toNat with
  | none => false
  | some (row, _, _) =>
    row.bytes == r.width.toNat && (row.access == .rw || row.access == .bl) && decide (r.flags.toNat = b2n (row.access == .bl))
      && r.reserved == 0 && (r.width == 8 || decide (r.value.toNat < 2 ^ 32)) && !reservedValue row.reg r.value.toNat

/-- A record is applied as a write of the boot code, or skipped and logged. -/
def State.applyRecord (s : State) (i : Nat) (r : SettingsRecord) : State :=
  if recordOk r then s.writeRegister 0 r.offset.toNat r.width.toNat r.value.toNat
  else (s.note 3 false 0x01 0x0602 [i, r.offset.toNat]).countField Off.fwlSettingsStat 29 16 1

/-- Records are applied in order. -/
def State.applySettings (s : State) : Nat → List SettingsRecord → State
  | _, [] => s
  | i, r :: rs => (s.applyRecord i r).applySettings (i + 1) rs

/-- The records of the settings image in use. -/
def State.settingsRecords (s : State) : List SettingsRecord := ((s.fw.settings).map (fun t => t.1.records)).getD []

/-- Registers that take their settings at step 3 (R295). -/
def earlyRegs : List Nat := [Off.thmFlowCfg, Off.thmTjCfg, Off.pwrCtrl, Off.pwrDroopCfg, Off.pwrAlertCfg]

/-- Step 3 applies the records of the registers that govern rail bring-up and the coolant checks. -/
def State.earlySettings (s : State) : State :=
  (s.settingsRecords.filter (fun r => earlyRegs.contains r.offset.toNat && recordOk r)).foldl (fun s r => s.applyRecord 0 r) s

/-- The initial budget, setting and mode (15 R340). -/
def State.initPower (s : State) : State :=
  let b := clamp 600 4800 (s.field Off.pwrCtrl 12 0)
  let f := s.field Off.pwrCtrl 29 24
  let f := if 14 ≤ f ∧ f ≤ 28 then f else 28
  let s := (s.setField Off.pwrBudget 47 32 b).setField Off.pwrBudget 31 16 b
  let s := (s.setField Off.pwrMode 29 24 f).setField Off.pwrMode 0 0 (s.field Off.pwrCtrl 16 16)
  if s.lowest then s else s.setField Off.pwrMode 21 16 f

/-! ### Steps 1 to 3: the boot ROM -/

/-- Slots that may boot: those with a valid header that have not failed, the higher BOOT_GEN first. -/
def State.bootOrder (s : State) : List Nat :=
  let order := if s.fw.dev0.bootGen < s.fw.dev1.bootGen then [1, 0] else [0, 1]
  order.filter (fun k => (s.device k).bootable && !s.fw.failedSlots.contains k)

/-- The crash log takes the latest 65,536 entries of the log memory, after a reset that followed THERMTRIP_N or a security fault
(R314). -/
def State.copyCrash (s : State) (k : Nat) : State :=
  if s.log.crashSource then
    let c := (s.log.mem.take 65536).reverse
    (State.modDevice { s with log := { s.log with crash := c, crashPos := 0, crashSource := false } } k
      (fun d => { d with crash := c })).setFlag Off.fwlLogStat 63 true
  else s

/-- A slot's security image runs, and starts the power image: step 3 is complete. -/
def State.slotRuns (s : State) (k : Nat) : State :=
  let s := s.setField Off.fwlFwStat 59 59 k
  let s := ([1, 2].filterMap (fun c => (s.device k).image c)).foldl State.loadImage s
  let u := s.fw.fuses
  let s := (s.setMeas 0 (Config.recordDigest 0 ([u.revoke.toNat, u.ownerMode.toNat] ++ u.svnMin))).setField
    Off.secBootStat 62 61 u.ownerMode.toNat
  ((s.chooseSettings.earlySettings.initPower).copyCrash k).setBoot 3

/-- The ROM tries slots in turn; with none left the module is in recovery (R294). -/
def State.tryBoot (s : State) : List Nat → State
  | [] => s.setFlag Off.fwlFwStat 60 true
  | k :: ks =>
    match s.firstFail k [1, 2] with
    | none => s.slotRuns k
    | some (c, code) =>
      State.tryBoot { s.verifyFailed c k code with fw := { s.fw with failedSlots := k :: s.fw.failedSlots } } ks

/-- BOOT_ROM: the straps are sampled and steps 1 to 3 run. -/
def execBootRom (traySlot : BitVec 2) (trayId : BitVec 6) (s : State) : Out :=
  let t : State := { s with fw := { s.fw with traySlot := traySlot, trayId := trayId } }
  whenReady (s.pwr.aux && decide (s.bootStep ≤ 1) && !s.recovery) s ((t.setBoot 1).tryBoot s.bootOrder).showEmergency

/-! ### Steps 4 to 6 -/

/-- RAIL_BRING_UP: the converters and rails come up once HV_IN is valid and in range, THERMTRIP_N is high and there is flow
(14 Table 14-4, 19 R383); with CONV_ALERT_N low, in the lowest state (19 Table 19-9). -/
def execRailBringUp (s : State) : Out :=
  let clear := s.thm.trip.isNone && !s.thm.trayTrip && s.flowAtLeast 50
  let t : State := { s with pwr := { s.pwr with rails := true }, hive := { s.hive with halt := s.halted } }
  whenReady (s.bootStep == 3 && !s.recovery && s.pwr.hv && !s.pwr.hvOut && !s.pwr.shut && clear) s ((t.limitsMoved t.forced).setBoot 4)

/-- A slot whose later image fails is not booted: the rails go, and the ROM starts again with the other (R294). -/
def State.slotFails (s : State) (k cls code : Nat) : State :=
  let s := (s.verifyFailed cls k code).collapse
  State.setBoot { s with fw := { s.fw with failedSlots := k :: s.fw.failedSlots, loaded := [], settings := none } } 1

/-- IMAGE_LOAD: the scheduler, hive and pattern images are verified and loaded; the canal runs (11 R239). -/
def execImageLoad (s : State) : Out :=
  if s.bootStep ≠ 4 then .next s
  else
    let k := s.slot
    match s.firstFail k [3, 4, 5] with
    | some (c, code) => .next (s.slotFails k c code)
    | none =>
      let s := ([3, 4, 5].filterMap (fun c => (s.device k).image c)).foldl State.loadImage s
      let s := (portCodes.filter (fun p => isCanal p && portExists p)).foldl
        (fun s p => s.modPort p PortSt.enterUp) s
      .next (s.setBoot 5)

/-- The offsets of the BL registers of the SEC block (17, Security registers). -/
def secBlOffsets : List Nat :=
  (rowsSec.filter (fun r => r.access == .bl)).flatMap (fun r =>
    (List.range r.n1).flatMap (fun i => (List.range r.n2).map (fun j => r.base + r.s1 * i + r.s2 * j)))

/-- The first of a list of registers that shares a bit with an earlier one. -/
def State.firstShared (s : State) : List Nat → Nat → Option Nat
  | [], _ => none
  | o :: os, seen => if s.reg o &&& seen ≠ 0 then some o else State.firstShared s os (seen ||| s.reg o)

/-- The layers of a context, first and count. -/
def State.layerRange (s : State) (x : Nat) : Nat × Nat := (s.field (Off.secCtxLayers x) 9 0, s.field (Off.secCtxLayers x) 26 16)

/-- A memory range lies in one stack's populated bytes or one comb die. -/
def rangeOk (b n : Nat) : Bool := decide (n ≤ (placeOf b).room) && match placeOf b with
  | .stack .. => true
  | .comb .. => true
  | _ => false

/-- The valid memory ranges: register offset, function and extent. -/
def State.allRanges (s : State) : List (Nat × Nat × Nat × Nat) :=
  (List.range 64).flatMap (fun x => (List.range 32).filterMap (fun r =>
    (s.memRange x r).map (fun e => (Off.secCtxMem x r, s.funcOf x, e))))

/-- The registers at which a check of R360 fails, in the order of its checks. Every value of FUNC names a function. -/
def State.protFaults (s : State) : List Nat :=
  let xs := List.range 64
  let bitmaps := ((List.range 4).map (fun w => xs.map (fun x => Off.secCtxHives x w)))
    ++ ((List.range 5).map (fun w => xs.map (fun x => Off.secCtxSlots x w)))
  let shared := bitmaps.filterMap (fun l => s.firstShared l 0)
  let layers := (xs.filter (fun x => (List.range x).any (fun y => extentsMeet (s.layerRange x) (s.layerRange y)))).map Off.secCtxLayers
  let rs := s.allRanges
  let outside := (rs.filter (fun r => !rangeOk r.2.2.1 r.2.2.2)).map (·.1)
  let overlap := (rs.filter (fun r => rs.any (fun q => decide (q.1 < r.1 ∧ q.2.1 ≠ r.2.1) && extentsMeet q.2.2 r.2.2))).map (·.1)
  let live := xs.filter s.ctxEnabled
  let allMem := (live.filter (fun x => s.flag (Off.secCtxFunc x) 5 && live.any (fun y => decide (s.funcOf y ≠ s.funcOf x)))).map
    Off.secCtxFunc
  shared ++ layers ++ outside ++ overlap ++ allMem

/-- The protection set-up is checked; one that fails is replaced by the factory set-up (R360). -/
def State.checkProtection (s : State) : State :=
  match s.protFaults with
  | [] => s
  | o :: _ =>
    let s := secBlOffsets.foldl (fun s o => s.setReg o (regReset o)) s
    (s.note 4 true 0x01 0x0703 [o]).setFlag Off.secBootStat 63 true

/-- The bytes that measurement 7 covers. -/
def State.protBytes (s : State) : List Byte :=
  (secBlOffsets.map (fun o => natLe (s.reg o) (match regAt o with
    | some (r, _, _) => r.bytes
    | none => 0))).flatten

/-- The repair record in use: the copy with the higher generation. -/
def State.repairRecord (s : State) : Repair :=
  if s.fw.dev0.repair.gen < s.fw.dev1.repair.gen then s.fw.dev1.repair else s.fw.dev0.repair

/-- A die's logical hives sit in its working slots: one whose usual slot is retired takes slot 0, if that works; a die without two
working slots to spare runs three (01 R13, R16). -/
def State.placeDie (s : State) (d : Nat) : State :=
  let lost := (List.range 4).filter (fun j => s.slotFailed (5 * d + j + 1))
  match lost with
  | [] => s
  | j :: more =>
    let s := if s.slotFailed (5 * d) then s
      else { s with hive := { s.hive with slotOf := sput none s.hive.slotOf (4 * d + j) (some 0) } }
    if more.isEmpty && !s.slotFailed (5 * d) then s
    else { s with hive := { s.hive with three := sput false s.hive.three d true } }

/-- The repair record is applied: retired slots and pages, and the repairs that its rows take of their banks. -/
def State.applyRepairs (s : State) : State :=
  let r := s.repairRecord
  let s := s.stks.foldl (fun s e => s.modStk e.1 (fun k => { k with repairsUsed := [] })) s
  let s := r.rows.foldl (fun s a => s.modStk (a / 0x800000000) (fun k => { k with
    repairsUsed := smod 0 k.repairsUsed (bankKey a) (· + 1) })) s
  let s : State := { s with
    hive := { s.hive with failed := r.slots.foldl (fun m p => sput false m p true) s.hive.failed }
    mem := { s.mem with retired := r.pages.foldl (fun m p => sput false m p true) s.mem.retired } }
  ((List.range 64).foldl State.placeDie s).setMeas 8 (Config.recordDigest 8 ([r.gen] ++ r.slots ++ r.rows ++ r.pages))

/-- APPLY_DEFAULTS: the settings layers are applied, the protection set-up is checked, measured and locked. -/
def execApplyDefaults (s : State) : Out :=
  if s.bootStep ≠ 5 then .next s
  else
    let s := (s.applySettings 0 s.settingsRecords).checkProtection
    let s := (s.applyRepairs).setMeas 7 (sha256 s.protBytes)
    .next (s.lockNow.setBoot 6)

/-! ### Resets and supplies -/

/-- MODULE_RESET: one that RESET_MODULE asked for, once its delay is over and its acknowledgement written; else a fatal fault of
the security core (R291). While THERMTRIP_N is low none is made (16 R347). -/
def execModuleReset (s : State) : Out :=
  if !s.pwr.aux || s.tripped then .next s
  else
    match s.mail.resetAt with
    | some t =>
      let waits := (s.box (boxKey (.towpath .security))).full
      .next (if t ≤ s.clk.now && !waits then s.moduleReset true false else s.moduleReset true true)
    | none => .next (s.moduleReset true true)

/-- AUX_VALID: AUX_12V has been above 11.2 V for 5 ms: a module reset. -/
def execAuxValid (s : State) : Out :=
  whenReady (!s.pwr.aux) s (State.moduleReset { s with pwr := { s.pwr with aux := true } } false false)

/-- AUX_LOSS: AUX_12V falls below 10.8 V: the converters turn off, and the standby domain with the log goes too (15 R319). -/
def execAuxLoss (s : State) : Out :=
  whenReady s.pwr.aux s (State.moduleReset { s.collapse with pwr := { s.pwr with aux := false } } false false)

/-- HV_IN_VALID: HV_IN has stayed within 360 to 420 V for 20 ms; after a shutdown it is HV_IN_RETURN that counts. -/
def execHvInValid (s : State) : Out :=
  whenReady (!s.pwr.shut) s (State.showEmergency { s with pwr := { s.pwr with hv := true, hvOut := false } })

/-- CONV_ALERT_N goes low, from a converter or the tray: the lowest state comes into force; nothing more happens while THERMTRIP_N
is low (19 R385). -/
def State.alertLow (s : State) (from_ : Nat) : State :=
  if s.pwr.alert.isSome then s
  else if s.tripped then { s with pwr := { s.pwr with alert := some from_ } }
  else
    let before := s.forced
    (State.setFlag { s with pwr := { s.pwr with alert := some from_ } } Off.pwrLimitStat 28 true).limitsMoved before

/-- HV_IN below 330 V or above 440 V: converters that are on turn off, and the main domain collapses (15 R320). -/
def State.hvShut (s : State) : State :=
  let t := if s.pwr.rails then
      let u := s.collapse
      ({ u with pwr := { u.pwr with shut := true } } : State)
    else s
  State.showEmergency { t with pwr := { t.pwr with hv := false } }

/-- HV_IN_OUT_OF_RANGE: outside 360 to 420 V the module is in emergency; outside 355 to 425 V the converters assert CONV_ALERT_N;
outside 330 to 440 V they turn off (15 R320). Without AUX_12V nothing is measured, logged or driven (19 R374). -/
def execHvInOutOfRange (dv : Nat) (s : State) : Out :=
  let off := decide (dv < 3300 ∨ 4400 < dv)
  if 3600 ≤ dv ∧ dv ≤ 4200 then .next s
  else if !s.pwr.aux then .next { s with pwr := { s.pwr with hvOut := true, hv := s.pwr.hv && !off } }
  else
    let s := s.setField Off.pwrMeas 15 0 (min dv 65535)
    let s := if s.pwr.hvOut then s else s.powerLog 3 true 0x02 [0x05, dv]
    let s : State := { s with pwr := { s.pwr with hvOut := true } }
    let all := [(0, true), (1, true), (2, true), (3, true)]
    let s := if dv < 3550 ∨ 4250 < dv then
        State.alertLow ({ s with pwr := { s.pwr with faults := all } }.send (.pin "CONV_ALERT_N" false)) s.clk.now
      else s.showEmergency
    .next (if off then s.hvShut else s)

/-- HV_IN_RETURN: HV_IN is back within 360 to 420 V; after a shutdown of the converters a module reset follows, but while THERMTRIP_N
is low: then that reset follows the line's release (19 R385). CONV_ALERT_N's release is an event of its own. -/
def execHvInReturn (s : State) : Out :=
  let t : State := { s with pwr := { s.pwr with hv := true, hvOut := false } }
  .next (if s.pwr.shut && !s.tripped then t.moduleReset true false else t.showEmergency)

end Sys2Proof.Machine
end

