-- ==== Sys2Proof/Machine/Commands.lean ====
section
/-! DEFINITION. Step commands and the service commands of a ring that act on it alone (13 R273-R276, R284, R286, R287;
12 R254, R259, R260). -/

namespace Sys2Proof.Machine

/-! ### RUN_PROGRAM (04 R62, R63; 13 R273) -/

/-- A hive program image header and table entry (04 Table 4-3). -/
structure ImageHdr where
  magic : Nat
  major : Nat
  hives : Nat
  mode : Nat
  tableOff : Nat
  len : Nat
  reserved : Nat
deriving DecidableEq, Repr

/-- The header of an image. -/
def State.imageHdr (s : State) (x a : Nat) : ImageHdr :=
  let n := fun o k => s.loadNat x (a + o) k
  { magic := n 0 4, major := n 4 2, hives := n 8 2, mode := n 10 1, tableOff := n 16 8, len := n 24 8,
    reserved := n 11 5 + n 32 32 }

/-- The stream of the `i`-th hive of an image: byte offset and slots. -/
def State.imageStream (s : State) (x a : Nat) (h : ImageHdr) (i : Nat) : Nat × Nat :=
  (16 * s.loadNat x (a + h.tableOff + 8 * i) 4, s.loadNat x (a + h.tableOff + 8 * i + 4) 4)

/-- The logical hives assigned to a context, in order. -/
def State.hivesOf (s : State) (x : Nat) : List Nat := (List.range 256).filter (s.ownsHive x)

/-- The permissions that a stream of `len` slots needs, walked from a slot with fuel (17 R359). -/
def State.streamPerms (s : State) (x base len : Nat) : Nat → Nat → List Nat
  | 0, _ => []
  | k + 1, pos =>
    if len ≤ pos then []
    else
      let w := s.loadNat x (base + 16 * pos) 16
      (permBit w).toList ++ s.streamPerms x base len k (if twoSlots (bits w 7 0) then pos + 2 else pos + 1)

/-- The status of a program's start, in the order of 04 R63, then 17 R359. -/
def State.runCheck (s : State) (x a : Nat) : Nat :=
  let h := s.imageHdr x a
  let streams := (List.range h.hives).map (s.imageStream x a h)
  if h.magic ≠ 0x48565047 ∨ h.reserved ≠ 0 ∨ 2 < h.mode ∨ h.hives = 0 ∨ 256 < h.hives ∨ h.tableOff % 8 ≠ 0 then
    stBadDescriptor
  else if h.major ≠ 1 then stVersionMismatch
  else if (s.hivesOf x).length < h.hives then stNoResource
  else if h.len < h.tableOff + 8 * h.hives ∨ streams.any (fun e => decide (h.len < e.1 + 16 * e.2)) then stBadDescriptor
  else if isHostAddr (a + h.len) || !s.mayAccess x a h.len then stBadAddress
  else if (h.mode ≠ 0 && !s.permits x 6)
      || streams.any (fun e => (s.streamPerms x (a + e.1) e.2 e.2 0).any (fun b => !s.permits x b)) then stBadContext
  else stOk

/-- What the start of a program reads of its image: the header, the hive table and the streams. -/
def State.imageReads (s : State) (x a : Nat) : List (Nat × Nat) :=
  let h := s.imageHdr x a
  let n := min h.hives 256
  (a, 64) :: (a + h.tableOff, 8 * n) :: (List.range n).map (fun i => let (o, l) := s.imageStream x a h i; (a + o, 16 * l))

/-- The requester that a log entry of an uncorrectable access names for the scheduler core (log 46). -/
def reqScheduler : Nat := 0

/-- The hive of a run at its start. -/
def startHive (x idx base len mode : Nat) : HiveState :=
  { run := some (x, idx), fetching := true, base := base, len := len, mode := mode }

/-- RUN_PROGRAM: the image is checked, and its hives start once they are free (log 11). -/
def execRunProgram (x : Ctx) (s : State) : Out :=
  match s.startableOp x.val 1 with
  | none => .next s
  | some d =>
    let a := d.addr 64
    let st := s.runCheck x.val a
    if let some k := s.badAmong (s.imageReads x.val a) then .next (s.uncorrectable x.val k reqScheduler)
    else if st ≠ stOk then .next (s.complete x.val d.idx st 0xFFFFFFFF)
    else
      let h := s.imageHdr x.val a
      let hs := (s.hivesOf x.val).take h.hives
      if hs.any (fun l => (s.hiveSt l).run.isSome || (sget none s.hive.moving l).isSome) then .next s
      else
        let t := ((s.chargeAll (s.imageReads x.val a)).start x.val d.idx).modCtx x.val (fun c => { c with
          runs := c.runs ++ [{ idx := d.idx, mode := h.mode, hives := hs }] })
        .next ((hs.zip (List.range h.hives)).foldl (fun s e =>
          let (off, len) := s.imageStream x.val a h e.2
          s.setHive e.1 (startHive x.val d.idx (a + off) len h.mode)) t)

/-! ### DMA (13 R274, R275) -/

/-- The DMA command whose turn it is: one that waits on the host, or the startable one; none under HALT,
which stops the hives' engines and the foragers (16 R345). -/
def State.dmaTurn (s : State) (x : Nat) : Option Cmd :=
  match (s.ctx x).cmds.find? (fun d => d.opcode == 2 && decide (d.phase = .started)) with
  | some d => if (s.ctx x).stopped ∨ s.hive.halt ∨ (s.ctx x).badDma.isSome then none else some d
  | none => if s.hive.halt then none else s.startableOp x 2

/-- A transfer's outcome at its command. An uncorrectable stack access outside every run fails the command once its row is
repaired, with no replay; any other uncorrectable unit has the step replayed (06 R112, R115, 07 R137). -/
def dmaDone (x : Nat) (d : Cmd) (o : XferOut) : State :=
  match o.bad with
  | none => o.s.complete x d.idx o.status o.result
  | some (k, r) =>
    if (o.s.ctx x).runs.isEmpty && decide (k < 0x10000000000) then
      let step := (o.s.ctx x).step + 1
      ((o.s.reportStack k r step).wantRepair k step).modCtx x (fun c => { c with badDma := some (d.idx, k) })
    else o.s.uncorrectable x k r

/-- DMA: a transfer of the ring. One that needs the host waits while the host is lost (12 R263), and one held for a moving hive or
a cut canal waits too. -/
def execDma (x : Ctx) (s : State) : Out :=
  match s.dmaTurn x.val with
  | none => .next s
  | some d =>
    let t := s.start x.val d.idx
    if s.dmaHeld x.val none d.dma then .next t
    else if !s.sluicesOpen (s.dmaExtents x.val d.dma) then .next (t.waitsAll (s.dmaExtents x.val d.dma))
    else .next (dmaDone x.val d (t.runDma x.val d.dma none))

/-! ### SIGNAL, WAIT and BARRIER (13 R276) -/

/-- A ring's signal to this entry is held on its way to the counter, and its command with it. -/
def State.signalHeld (s : State) (x : Nat) (e : Xl) : Bool := s.isLocal e && s.accepted x e && s.homeAway 0 false e.object

/-- SIGNAL: fires once everything of its step before it is complete (10 R201). -/
def execSignalCommand (x : Ctx) (s : State) : Out :=
  match s.startableOp x.val 3 with
  | none => .next s
  | some d =>
    let e := s.xl x.val d.ident
    if !e.usable || e.dirty || e.kind != 0 then .next (s.complete x.val d.idx stBadDescriptor 0)
    else
      let (st, t) := s.signalVia x.val d.ident (d.f 95 80) (.ring d.idx)
      .next (if s.signalHeld x.val e then t.start x.val d.idx else t.complete x.val d.idx st 0)

/-- WAIT: holds the ring until its target is reached. -/
def execWaitCommand (x : Ctx) (s : State) : Out :=
  match s.startableOp x.val 4 with
  | none => .next s
  | some d =>
    let e := s.xl x.val d.ident
    if !e.usable || e.dirty then .next (s.complete x.val d.idx stBadDescriptor 0)
    else
      let t := s.start x.val d.idx
      let t := if t.waitMet x.val d.ident (d.f 175 128) (hostTag x.val) then t
        else t.sendWatch x.val d.ident (d.f 175 128) (hostTag x.val)
      .next (t.hostWaitStep x.val d)

/-- BARRIER: the context arrives; with HOLD it waits for the round's release. -/
def execBarrierCommand (x : Ctx) (s : State) : Out :=
  match s.startableOp x.val 5 with
  | none => .next s
  | some d =>
    let e := s.xl x.val d.ident
    if !e.usable || e.dirty || e.kind != 1 || e.remote || (s.partIndex e.object (.host x.val)).isNone then
      .next (s.complete x.val d.idx stBadDescriptor 0)
    else
      .next ((s.start x.val d.idx).hostWaitStep x.val d)

/-! ### POWER_HINT, LOG_MARK, TRACE, TELEMETRY (13 R284, R286; 14 R315, R316) -/

/-- POWER_HINT: the context's hint is replaced; its lead counts from the fetch (13 R284). -/
def execPowerHint (x : Ctx) (s : State) : Out :=
  match s.startableOp x.val 0x12 with
  | none => .next s
  | some d =>
    let h : Hint := { kind := d.f 65 64, level := d.f 76 72, start := d.since + d.f 127 96 * 1000000,
                      duration := d.f 159 128 * 1000000 }
    .next ((s.modCtx x.val (fun c => { c with hint := some h })).complete x.val d.idx stOk 0)

/-- LOG_MARK: one log entry with the context and VALUE. -/
def execLogMark (x : Ctx) (s : State) : Out :=
  match s.startableOp x.val 0x20 (some 3) with
  | none => .next s
  | some d => .next ((s.note 1 false 0x00 0x0A10 [d.value, d.idx] (some x.val)).complete x.val d.idx stOk 0)

/-- Trace point `n` enabled or disabled (FWL.TRACE_EN). -/
def State.setTrace (s : State) (n : Nat) (b : Bool) : State := s.setFlag (Off.fwlTraceEn (n / 32)) (n % 32) b

/-- TRACE: the trace points named are enabled or disabled. -/
def execTrace (x : Ctx) (s : State) : Out :=
  match s.startableOp x.val 0x20 (some 4) with
  | none => .next s
  | some d =>
    let t := (List.range (d.f 287 272)).foldl (fun s i => s.setTrace (d.f 271 256 + i) (d.f 288 288 == 1)) s
    .next (t.complete x.val d.idx stOk 0)

/-! ### SUSPEND, RESUME and CANCEL (12 R259, R260, Tables 12-4, 12-5; 13 R287) -/

/-- A long service command that stops between its parts: SNAPSHOT, SELF_TEST, SCRUB. -/
def Cmd.stoppable (d : Cmd) : Bool := (d.opcode == 0x10 && d.sub == 2) || d.opcode == 0x13 || (d.opcode == 0x20 && d.sub == 2)

/-- RESULT of a command that is suspended or cancelled part of the way (13 Table 13-4). -/
def State.partResult (s : State) (d : Cmd) : Nat :=
  if d.opcode = 5 then d.progress
  else if d.opcode = 0x13 then s.hive.test.elim 0 SelfTest.result
  else if d.stoppable then min d.units 0xFFFFFFFF else 0

/-- The control command whose turn it is, if it has the opcode; none once the module's rank has moved (09 R184). -/
def State.controlTurn (s : State) (x opcode : Nat) : Option Cmd :=
  let c := s.ctx x
  match c.cmds.find? (fun d => d.isControl && decide (d.phase = .waiting) && !d.acted) with
  | some d => if d.opcode = opcode ∧ c.mayRun ∧ !c.cqFull ∧ !s.fail.moved then some d else none
  | none => none

/-- What a control command's target is. -/
inductive Target where
  /-- Not an earlier unreleased slot. -/
  | none
  | done
  | waiting (d : Cmd)
  | started (d : Cmd)
deriving DecidableEq, Repr

/-- The target of a control command (12 R259). -/
def CtxSt.targetOf (c : CtxSt) (d : Cmd) : Target :=
  let t := BitVec.ofNat 32 d.target
  if (t - c.released).toNat < (BitVec.ofNat 32 d.idx - c.released).toNat then
    match c.cmd d.target with
    | some e => match e.phase with
      | .done => .done
      | .waiting => .waiting e
      | .started => .started e
    | none => .none
  else .none

/-- The run of a command is marked suspended or not. -/
def State.markRun (s : State) (x idx : Nat) (b : Bool) : State :=
  s.modCtx x (fun c => { c with runs := c.runs.map (fun r => if r.idx = idx then { r with suspended := b } else r) })

/-- SUSPEND (12 Table 12-5). -/
def execSuspend (x : Ctx) (s : State) : Out :=
  match s.controlTurn x.val 0x18 with
  | none => .next s
  | some d =>
    let fin := fun (s : State) st => s.complete x.val d.idx st 0
    match (s.ctx x.val).targetOf d with
    | .none => .next (fin s stBadDescriptor)
    | .done => .next (fin s stOk)
    | .waiting e => .next (fin (s.modCmd x.val e.idx (fun e => { e with suspended := true })) stOk)
    | .started e =>
      if e.opcode = 1 then
        if e.suspended then .next (fin s stOk)
        else .next ((s.markRun x.val e.idx true).modCmd x.val d.idx (fun d => { d with acted := true }))
      else if e.stoppable then
        if e.suspended then .next (fin s stOk)
        else .next (fin ((s.modCmd x.val e.idx (fun e => { e with suspended := true })).interim x.val e.idx stSuspended (s.partResult e)) stOk)
      else .next (fin s stBusy)

/-- RESUME (12 Table 12-5). A SUSPEND still waiting for the run's queues is complete with it. While a self-test of module scope runs
nothing but the test resumes (09 R191). -/
def execResume (x : Ctx) (s : State) : Out :=
  match s.controlTurn x.val 0x19 with
  | none => .next s
  | some d =>
    let fin := fun (s : State) st => s.complete x.val d.idx st 0
    match (s.ctx x.val).targetOf d with
    | .none => .next (fin s stBadDescriptor)
    | .done => .next (fin s stOk)
    | .waiting e => .next (fin (s.modCmd x.val e.idx (fun e => { e with suspended := false })) stOk)
    | .started e =>
      if s.moduleTest && e.opcode != 0x13 then .next s
      else if e.opcode = 1 ∨ e.stoppable then
        let t := (s.markRun x.val e.idx false).modCmd x.val e.idx (fun e => { e with suspended := false })
        .next (fin (((t.ctx x.val).suspends e.idx).foldl (fun s d => s.complete x.val d.idx stOk 0) t) stOk)
      else .next (fin s stBusy)

/-- The cancel of a step command that abandons its step: now, if its step is under way, or when it comes to be. A joined
context's CANCEL completes as DEFERRED (12 R260). -/
def State.cancelStep (s : State) (x : Nat) (d e : Cmd) : State :=
  let s := s.modCmd x e.idx (fun e => { e with cancel := true })
  let s := if s.joined x then s.complete x d.idx stDeferred 0 else s.modCmd x d.idx (fun d => { d with acted := true })
  s.raiseCancels x

/-- CANCEL (12 R260, Tables 12-4, 12-5). -/
def execCancel (x : Ctx) (s : State) : Out :=
  match s.controlTurn x.val 0x1A with
  | none => .next s
  | some d =>
    let fin := fun (s : State) st => s.complete x.val d.idx st 0
    let drop := fun (e : Cmd) r => fin (s.complete x.val e.idx stCancelled r) stOk
    match (s.ctx x.val).targetOf d with
    | .none => .next (fin s stBadDescriptor)
    | .done => .next (fin s stOk)
    | .waiting e =>
      if e.isStep && e.opcode != 4 && e.opcode != 5 then .next (s.cancelStep x.val d e) else .next (drop e 0)
    | .started e =>
      if e.opcode = 6 then
        match (s.ctx x.val).sweep with
        | some w =>
          if w.phase = .start ∨ w.phase = .norm ∨ w.phase = .decide then .next (s.cancelStep x.val d e)
          else .next (fin s stBusy)
        | none => .next (fin s stBusy)
      else if e.opcode = 1 ∨ e.opcode = 2 then .next (s.cancelStep x.val d e)
      else if e.opcode = 0x13 then
        if isHostAddr e.resultAddr && !s.hostReady x.val e.resultAddr then .next s
        else .next (fin (s.cancelTest.complete x.val e.idx stCancelled (s.partResult e)) stOk)
      else .next (drop e (s.partResult e))

end Sys2Proof.Machine
end

