-- ==== Sys2Proof/Machine/Identity.lean ====
section
/-! DEFINITION. SPDM on the towpath and on DOE mailboxes, IDE key management, and the I3C and MCTP endpoint (14 R309; 17 R358,
R362, R363). The order of SPDM requests and the completion codes of SPDM and MCTP are those of their standards (log 18). -/

namespace Sys2Proof.Machine

/-- The number of a requester's connection, and its place in HostIf. -/
def spdmKey : SpdmPort → Nat
  | .mctp => 0
  | .doe f => 1 + f.val

/-- A requester's SPDM state, and the state with it replaced. -/
def State.spdm (s : State) (p : SpdmPort) : Spdm := sget {} s.io.spdm (spdmKey p)
def State.setSpdm (s : State) (p : SpdmPort) (v : Spdm) : State :=
  { s with io := { s.io with spdm := sput {} s.io.spdm (spdmKey p) v } }

/-- A request reaches the security core: over a towpath that answers, not in recovery (14 R294), or over a host link that is up. -/
def State.spdmReaches (s : State) (p : SpdmPort) : Bool :=
  s.securityUp && !s.recovery && match p with
    | .mctp => true
    | .doe _ => s.flag Off.hifLinkStat 1 && decide (6 ≤ s.bootStep)

/-- A response: 0 for the request's own, else an SPDM error code. -/
def State.spdmReply (s : State) (code : Nat) (payload : List Byte := []) : State := s.send (.response "SPDM" code payload)

/-- A request that the module does not support is rejected and logged (00 R6). -/
def State.spdmUnsupported (s : State) : State := (s.noteFree 2 false 0x01 []).spdmReply 7

/-- A request out of its order, or with a value that names nothing. -/
def State.spdmUnexpected (s : State) : State := s.spdmReply 4
def State.spdmInvalid (s : State) : State := s.spdmReply 1

/-- A request acts when it reaches the core and the connection has come far enough. -/
def State.spdmRequest (s : State) (p : SpdmPort) (far : Spdm → Bool) (act : State → State) : Out :=
  .next (if !s.spdmReaches p then s else if far (s.spdm p) then act s else s.spdmUnexpected)

/-- GET_VERSION: 1.2; the connection starts anew. A request of another code, which no row names, is not supported. -/
def execGetVersion (r : VersionRequest) (s : State) : Out :=
  s.spdmRequest r.port (fun _ => true) (fun s =>
    if r.other.isSome then s.spdmUnsupported else (s.setSpdm r.port { version := true }).spdmReply 0 [0x12#8])

/-- GET_CAPABILITIES. -/
def execGetCapabilities (p : SpdmPort) (s : State) : Out :=
  s.spdmRequest p (·.version) (fun s => (s.setSpdm p { s.spdm p with capabilities := true }).spdmReply 0)

/-- NEGOTIATE_ALGORITHMS: RSAPSS_3072 and SHA-256 are a must; secp384r1 and AES-256-GCM are chosen where offered. -/
def execNegotiateAlgorithms (p : SpdmPort) (rsapss3072 sha256 secp384r1 aes256gcm : Bool) (s : State) : Out :=
  s.spdmRequest p (·.capabilities) (fun s =>
    if rsapss3072 && sha256 then
      (s.setSpdm p { s.spdm p with algorithms := true, sessions := secp384r1 && aes256gcm }).spdmReply 0 (natLe (b2n secp384r1) 1 ++ natLe (b2n aes256gcm) 1)
    else s.spdmUnsupported)

/-- The certificate chain of a slot. -/
def State.chain (s : State) (slot : Nat) : List Byte := Config.certificate s.fw.fuses.deviceKeys slot

/-- GET_DIGESTS: of the chains of slots 0 and 1. -/
def execGetDigests (p : SpdmPort) (s : State) : Out :=
  s.spdmRequest p (·.algorithms) (fun s => s.spdmReply 0
    ((List.range 2).map (fun k => digestBytes (sha256 (s.chain k)))).flatten)

/-- GET_CERTIFICATE: the chain of slot 0 or 1. -/
def execGetCertificate (p : SpdmPort) (slot : BitVec 8) (s : State) : Out :=
  s.spdmRequest p (·.algorithms) (fun s =>
    if slot.toNat < 2 then s.spdmReply 0 (s.chain slot.toNat) else s.spdmInvalid)

/-- 32 free bytes, as a responder's nonce. -/
def State.nonce (s : State) : List Byte := (List.range 32).map (fun i => BitVec.ofNat 8 (Config.freeValue (s.clk.free + i)))
def State.drawnNonce (s : State) : State := { s with clk := { s.clk with free := s.clk.free + 32 } }

/-- CHALLENGE: signed with the key of the slot, identity or attestation. -/
def execChallenge (p : SpdmPort) (slot : BitVec 8) (nonce : BitVec 256) (s : State) : Out :=
  s.spdmRequest p (·.algorithms) (fun s =>
    if 2 ≤ slot.toNat then s.spdmInvalid
    else
      let body := digestBytes (sha256 (s.chain slot.toNat)) ++ s.nonce
      s.drawnNonce.spdmReply 0 (body ++ s.signed slot.toNat (natLe nonce.toNat 32 ++ body)))

/-- GET_MEASUREMENTS: blocks 1 to 10 are measurements 0 to 9; 0 asks for their number, 0xFF for all. -/
def execGetMeasurements (p : SpdmPort) (block : BitVec 8) (nonce : BitVec 256) (s : State) : Out :=
  s.spdmRequest p (·.algorithms) (fun s =>
    let b := block.toNat
    if 10 < b ∧ b ≠ 0xFF then s.spdmInvalid
    else
      let ms := if b = 0 then [] else if b = 0xFF then List.range 10 else [b - 1]
      let body := natLe (if b = 0 then 10 else ms.length) 1 ++ (ms.map (fun i => natLe (s.measured i) 32)).flatten ++ s.nonce
      s.drawnNonce.spdmReply 0 (body ++ s.signed 1 (natLe nonce.toNat 32 ++ body)))

/-- The port is a function's DOE mailbox. -/
def isDoe : SpdmPort → Bool
  | .mctp => false
  | .doe _ => true

/-- KEY_EXCHANGE: on DOE, a session starts, with secp384r1 and AES-256-GCM, which the connection must have chosen. -/
def execKeyExchange (p : SpdmPort) (slot : BitVec 8) (pubKey : Nat) (s : State) : Out :=
  s.spdmRequest p (·.algorithms) (fun s =>
    if !isDoe p || !(s.spdm p).sessions then s.spdmUnsupported
    else if 2 ≤ slot.toNat then s.spdmInvalid
    else
      let body := natLe (Config.dhePublic pubKey) 96 ++ s.nonce
      let t := s.drawnNonce
      (t.drawn.setSpdm p { s.spdm p with session := some (t.freeBelow 65536), finished := false }).spdmReply 0
        (body ++ s.signed slot.toNat body))

/-- FINISH: on DOE, a session is established, or dropped where its proof does not verify. -/
def execFinish (p : SpdmPort) (verified : Bool) (s : State) : Out :=
  s.spdmRequest p (fun c => !isDoe p || c.session.isSome) (fun s =>
    if !isDoe p then s.spdmUnsupported
    else if verified then (s.setSpdm p { s.spdm p with finished := true }).spdmReply 0
    else (s.setSpdm p { s.spdm p with session := none, finished := false }).spdmReply 6)

/-- END_SESSION: on DOE, the session ends. -/
def execEndSession (p : SpdmPort) (s : State) : Out :=
  s.spdmRequest p (fun c => !isDoe p || c.finished) (fun s =>
    if !isDoe p then s.spdmUnsupported
    else (s.setSpdm p { s.spdm p with session := none, finished := false }).spdmReply 0)

/-! ### IDE (17 R362, R363) -/

/-- A stream is replaced, and HIF.FUNC_STAT.IDE_SECURE follows. -/
def State.setStream (s : State) (f i : Nat) (v : Option IdeStream) : State :=
  State.setFlag { s with io := { s.io with streams := sput none s.io.streams (4 * f + i) v } } (Off.hifFuncStat f) (56 + i)
    (v.any (·.secure))

/-- IDE_KM_REQUEST: over the function's own finished session a stream is programmed or refreshed, made Secure, or stopped. -/
def execIdeKmRequest (f : Func) (i : Fin 4) (k : IdeKm) (s : State) : Out :=
  if !s.spdmReaches (.doe f) then .next s
  else if !(s.spdm (.doe f)).finished then .next s.spdmUnexpected
  else
    let old := sget none s.io.streams (4 * f.val + i.val)
    match k, old with
    | .unlisted, _ => .next ((s.noteFree 2 false 0x01 []).answer "IDE_KM" 1)
    | .program key base limit, _ =>
      .next ((s.setStream f.val i.val (some { key := key, base := base, limit := limit, secure := old.any (·.secure) })).answer
        "IDE_KM" 0)
    | .go, some e => .next ((s.setStream f.val i.val (some { e with secure := true })).answer "IDE_KM" 0)
    | .stop, some e => .next ((s.setStream f.val i.val (some { e with secure := false })).answer "IDE_KM" 0)
    | _, none => .next (s.answer "IDE_KM" 1)

/-! ### I3C and MCTP (14 R309, Table 14-12) -/

/-- DYNAMIC_ADDRESS_ASSIGNMENT: by SETDASA for the static address 0x30 + TRAY_SLOT, or by ENTDAA while it has none; another command or HDR
mode is not acknowledged, and logged (00 R6). -/
def execDynamicAddressAssignment (static : I3cRequest) (addr : BitVec 7) (s : State) : Out :=
  let takes : State := { s with fw := { s.fw with i3c := some addr } }
  match static with
  | .setdasa a => whenReady (s.pwr.aux && decide (a.toNat = 0x30 + s.fw.traySlot.toNat)) s takes
  | .entdaa => whenReady (s.pwr.aux && s.fw.i3c.isNone) s takes
  | .unlisted => whenReady s.pwr.aux s ((s.noteFree 2 false 0x03 []).answer "I3C" 1)

/-- An MCTP control response: completion code and data. -/
def State.mctpReply (s : State) (code : Nat) (data : List Byte) : State := s.answer "MCTP" code data

/-- MCTP_CONTROL_MESSAGE: the bus owner sets or reads the endpoint's EID, or asks what it supports; the data of the other
answers the spec does not give. A command or a message type that Table 14-12 does not take is refused and logged (00 R6). -/
def execMctpControlMessage (command : MctpMessage) (data : List Byte) (s : State) : Out :=
  if !s.pwr.aux then .next s
  else
    match command with
    | .unlisted _ => .next ((s.noteFree 2 false 0x03 []).mctpReply 5 [])
    | .control 0x01 =>
      let e := data.getD 1 0
      if e = 0 ∨ e = 0xFF then .next (s.mctpReply 2 [])
      else .next (State.mctpReply { s with fw := { s.fw with eid := e } } 0 [0, e, 0])
    | .control 0x02 => .next (s.mctpReply 0 [s.fw.eid])
    | .control 0x03 => .next (s.drawnNonce.mctpReply 0 (s.nonce.take 16))
    | .control 0x04 => .next (s.drawnNonce.mctpReply 0 (s.nonce.take 5))
    | .control 0x05 => .next (s.drawnNonce.mctpReply 0 (s.nonce.take 4))
    | .control _ => .next ((s.noteFree 2 false 0x03 []).mctpReply 5 [])

end Sys2Proof.Machine
end

