-- ==== Sys2Proof/Machine/Placement.lean ====
section
/-! DEFINITION. Hive placement: rotation, moves, failure and replacement (01 R13-R16; 06 R109; 09 R186-R190; 16 R343, R349),
scrubbing of SRAM and spare comb lines (06 R112, R115), and the start of a hinted phase (15 R333). -/

namespace Sys2Proof.Machine

/-! ### Moves (06 R109, 09 R186) -/

/-- A logical hive is between steps: no run holds it. -/
def State.hiveFree (s : State) (l : Nat) : Bool := (s.hiveSt l).run.isNone

/-- The first stored address of a slot, and the bytes of a hive store. -/
def slotBase (p : Nat) : Nat := 0x11000000000 + p * 0x2000000
def storeBytes : Nat := 0x1800000

/-- A slot's store is copied to another slot, or zeroed when `src` is none (09 R186, R187). -/
def Memory.copyStore (d : Memory) (src : Option Nat) (dst : Nat) : Memory :=
  let inSlot := fun (p a : Nat) => decide (slotBase p ≤ a ∧ a < slotBase p + storeBytes)
  let rest := d.filter (fun c => !inSlot dst c.1)
  match src with
  | none => rest
  | some p => ((d.filter (fun c => inSlot p c.1)).map (fun c => (c.1 - slotBase p + slotBase dst, c.2))).foldl
      (fun m c => m.setByte c.1 c.2) rest

/-- The state with a logical hive in slot `k` of its die. -/
def State.setSlot (s : State) (l k : Nat) : State :=
  { s with hive := { s.hive with slotOf := sput none s.hive.slotOf l (if k = l % 4 + 1 then none else some k) } }

/-- The state with a move of a logical hive begun or ended. -/
def State.setMoving (s : State) (l : Nat) (k : Option Nat) : State :=
  { s with hive := { s.hive with moving := sput none s.hive.moving l k } }

/-- HIVE_MOVE: the hive's store, counters and core state are copied to the new slot; counters and core state are kept by logical
number, and accesses to the logical window go to the new slot from here on. A move from or to a slot that has failed is given
up, and what was held is delivered. -/
def execHiveMove (h : Hive) (s : State) : Out :=
  match s.movingTo h.val with
  | none => .next s
  | some k =>
    let old := s.slotOfHive h.val
    let new := 5 * (h.val / 4) + k
    if old = new then .next s
    else if s.slotFailed old || s.slotFailed new || (s.hiveIn new).isSome then .next (s.setMoving h.val none).deliverHeld
    else whenReady (s.hiveFree h.val && !s.hive.halt) s
      ({ s with mem := { s.mem with dev := s.mem.dev.copyStore (some old) new } }.setSlot h.val k)

/-- HIVE_MOVE_DONE: a completed move delivers what was held, and the hive may run. -/
def execHiveMoveDone (h : Hive) (s : State) : Out :=
  match s.movingTo h.val with
  | none => .next s
  | some k => whenReady (decide (s.slotOfHive h.val = 5 * (h.val / 4) + k)) s (s.setMoving h.val none).deliverHeld

/-! ### Rotation (09 R188, 16 R349) -/

/-- The hottest working sensor of a slot's hive island (16 R341). -/
def State.slotTemp (s : State) (d k : Nat) : Option Int :=
  let t := fun n => if sget false s.thm.failed n then none else sget none s.thm.temps n
  match t (15 * d + 2 * k), t (15 * d + 2 * k + 1) with
  | some a, some b => some (max a b)
  | some a, none => some a
  | none, b => b

/-- A slot is hot: its hottest sensor is at or above TJ_TARGET. -/
def State.slotHot (s : State) (d k : Nat) : Bool := (s.slotTemp d k).any (fun t => decide ((s.tjTarget : Int) ≤ t))

/-- Both sensors of a slot's hive island are marked failed (16 R343). -/
def State.blindSlot (s : State) (d k : Nat) : Bool :=
  sget false s.thm.failed (15 * d + 2 * k) && sget false s.thm.failed (15 * d + 2 * k + 1)

/-- What a rotation of a die moves: the spare slot k and the logical hive of slot (k + 1) mod 5, if the die may rotate. -/
def State.rotation (s : State) (d : Nat) : Option (Nat × Nat) :=
  match s.spareSlot d with
  | none => none
  | some k =>
    match s.hiveIn (5 * d + (k + 1) % 5) with
    | none => none
    | some l =>
      if s.field Off.thmHiveRot 15 0 ≠ 0 && !sget false s.hive.spareHeld d && !s.dieMoving d && s.hiveFree l
          && !s.hive.halt && !s.slotHot d k && !s.blindSlot d k && !s.slotFailed (5 * d + (k + 1) % 5) then some (k, l)
      else none

/-- The rotation of a die begins. -/
def State.rotate (s : State) (d k l : Nat) : State :=
  { s.setMoving l (some k) with hive := { (s.setMoving l (some k)).hive with
      lastRotation := sput 0 s.hive.lastRotation d s.clk.now } }

/-- A number of seconds has passed since a die last rotated. -/
def State.sinceRotation (s : State) (d sec : Nat) : Bool :=
  decide (sget 0 s.hive.lastRotation d + sec * 1000000000000 ≤ s.clk.now)

/-- HIVE_ROTATION: after PERIOD seconds the spare takes the logical hive of the next slot. -/
def execHiveRotation (d : Die) (s : State) : Out :=
  match s.rotation d.val with
  | none => .next s
  | some (k, l) => whenReady (s.sinceRotation d.val (s.field Off.thmHiveRot 15 0)) s (s.rotate d.val k l)

/-- The hottest sensor of a die's active hive islands. -/
def State.activeTemp (s : State) (d k : Nat) : Option Int :=
  (((List.range 5).filter (· ≠ k)).filterMap (fun j => s.slotTemp d j)).foldl
    (fun (m : Option Int) t => some (match m with
      | some v => max v t
      | none => t)) none

/-- EARLY_ROTATION: with EARLY_ROT set, a hot die with a spare at least 10 degC cooler rotates, 2 s after its last rotation at the
soonest (16 R349). -/
def execEarlyRotation (d : Die) (s : State) : Out :=
  match s.rotation d.val with
  | none => .next s
  | some (k, l) =>
    let due := match s.activeTemp d.val k, s.slotTemp d.val k with
      | some a, some b => decide ((s.tjTarget : Int) - 5 ≤ a ∧ b + 10 ≤ a)
      | _, _ => false
    whenReady (s.flag Off.thmTjCfg 8 && due && s.sinceRotation d.val 2) s (s.rotate d.val k l)

/-! ### Failure and replacement (01 R16, 06 R112, 09 R189) -/

/-- The hive in a slot fails; a spare that fails is retired at once. -/
def State.slotFailure (s : State) (p : Nat) : State :=
  if s.slotFailed p then s else if (s.hiveIn p).isNone then (s.hiveFail p).retireSlot p 0 else s.hiveFail p

/-- HIVE_FAILURE: an uncorrectable hive-store word or a hive fault fails the hive in a slot. -/
def execHiveFailure (p : Slot) (s : State) : Out := .next (s.slotFailure p.val)

/-- The owners of a logical hive are at a step boundary (R189). -/
def State.ownersBetween (s : State) (l : Nat) : Bool :=
  ((List.range 64).filter (fun x => s.ctxEnabled x && s.ownsHive x l)).all s.betweenSteps

/-- The logical hive of a die that is to be replaced at the step boundary: in a failed slot, or in one without a working
sensor. -/
def State.toReplace (s : State) (d : Nat) : Option Nat :=
  ((List.range 4).map (fun j => 4 * d + j)).find? (fun l =>
    (s.slotFailed (s.slotOfHive l) || s.blindSlot d (s.slotOfHive l % 5)) && s.hiveFree l && (s.movingTo l).isNone
      && s.ownersBetween l)

/-- The spare slot of a die that is treated as a failed hive at the step boundary: both its sensors have failed (16 R343). -/
def State.blindSpare (s : State) (d : Nat) : Option Nat :=
  (s.spareSlot d).filter (fun k => s.blindSlot d k && (List.range 4).all (fun j => s.ownersBetween (4 * d + j)))

/-- The contexts that own a logical hive had it replaced in the step (13 R279). -/
def State.markRemapped (s : State) (l : Nat) : State :=
  ((List.range 64).filter (fun x => s.ctxEnabled x && s.ownsHive x l)).foldl (fun s x =>
    s.modCtx x (fun c => { c with remapped := true })) s

/-- A spare slot is retired without a working sensor. -/
def State.retireSpare (s : State) (d k : Nat) : State := (s.slotDown (5 * d + k)).retireSlot (5 * d + k) 0

/-- HIVE_REPLACEMENT: at the step boundary the die's spare takes the failed hive's number with a store of zeros, and the failed
slot is retired; a spare without a working sensor is retired before it could serve. -/
def execHiveReplacement (d : Die) (s : State) : Out :=
  match s.blindSpare d.val with
  | some k => .next (s.retireSpare d.val k)
  | none =>
  match s.toReplace d.val with
  | none => .next s
  | some l =>
    let p := s.slotOfHive l
    let s := if s.slotFailed p then s else (s.slotDown p).onThree p
    match s.spareSlot d.val with
    | none => .next (s.onThree p)
    | some k =>
      let step := match (List.range 64).find? (fun x => s.ctxEnabled x && s.ownsHive x l) with
        | some x => (s.ctx x).step + 1
        | none => 0
      let s := (s.setSlot l k).markRemapped l
      let s := { s with mem := { s.mem with dev := s.mem.dev.copyStore none (5 * d.val + k) } }
      .next (s.retireSlot p step)

/-! ### SRAM (06 R112, R115) -/

/-- An SRAM word of a hive slot or comb die, by its stored address. -/
def sramAt (a : Nat) : Bool :=
  match placeOf a with
  | .slot .. => true
  | .comb .. => true
  | _ => false

/-- A stored word becomes uncorrectable until it is written in full. -/
def State.spoil (s : State) (a : Nat) : State := { s with mem := { s.mem with bad := sput false s.mem.bad a true } }

/-- SRAM_SCRUB: the background scrub corrects and counts an error in the log, or finds a word that cannot be corrected: a hive
fails as a unit, a comb line is to be spared. -/
def execSramScrub (a : BitVec 48) (e : SramError) (s : State) : Out :=
  let a := a.toNat / 8 * 8
  if !sramAt a then .next s
  else
    let hive := decide (0x11000000000 ≤ a)
    let p := (a - 0x11000000000) / 0x2000000
    let unit := if hive then p else (a - 0x10000000000) / 0x40000000
    match e with
    | .none => .next s
    | .corrected => .next (s.noteFree 1 false (if hive then 0x10 else 0x40) [a] none 0 unit)
    | .uncorrectable => .next (if hive then (s.spoil a).slotFailure p else (s.spoil a).wantSpareLine a)

/-- COMB_LINE_SPARE: at the step boundary a line that is due takes one of its bank's 256 spare lines, as it reads; with none
left takeover is asked for. -/
def execCombLineSpare (c : Sector) (s : State) : Out :=
  let k := sget ({} : CombSt) s.combs c.val
  match k.due with
  | [] => .next s
  | a :: rest =>
    if !s.stepBoundary then .next s
    else
      let bank := bits a 13 8
      let used := sget 0 k.used bank
      let put := fun (s : State) (k : CombSt) => { s with combs := sput {} s.combs c.val k }
      if 256 ≤ used then .next ((put s { k with due := rest }).takeoverReq 0x32 c.val)
      else
        .next ((put s { k with due := rest, used := sput 0 k.used bank (used + 1)
                               spared := if k.spared.contains a then k.spared else k.spared ++ [a] }).note
          2 false 0x40 0x0110 [a, 256 - (used + 1)] none 0 c.val)

/-- HINT_PHASE_START: LEAD_US after a hint's fetch its phase begins; in an emergency it has no effect (13 R284, 15 R333). -/
def execHintPhaseStart (x : Ctx) (s : State) : Out :=
  match (s.ctx x.val).hint with
  | none => .next s
  | some h =>
    whenReady (decide (h.start ≤ s.clk.now) && !h.active && !s.emergency) s
      (s.modCtx x.val (fun c => { c with hint := some { h with active := true } }))

end Sys2Proof.Machine
end

