-- ==== Sys2Proof/Machine/Power.lean ====
section
/-! DEFINITION. Power delivery and its control: the alert line, droop, the die limiters, regulators, the power loop with the
thermal cap, and changes at agreed lock cycles (15 R322-R340; 16 R346, R348). -/

namespace Sys2Proof.Machine

/-! ### The alert line and the lowest state (15 R322, R326, R327) -/

/-- CONV_ALERT: the line has been low for at least 20 ns. -/
def execConvAlert (ns : Nat) (s : State) : Out :=
  whenReady (decide (20 ≤ ns)) s (s.alertLow (s.clk.now - ns * 1000))

/-- CONVERTER_FAULT: a converter above 660 A or its temperature limit asserts CONV_ALERT_N. -/
def execConverterFault (i : Fin 4) (s : State) : Out :=
  let t : State := { s with pwr := { s.pwr with faults := sput false s.pwr.faults i.val true } }
  let t := if s.pwr.faults.isEmpty then t.send (.pin "CONV_ALERT_N" false) else t
  whenReady s.pwr.rails s (t.alertLow s.clk.now)

/-- CONV_ALERT_N_RELEASE: the line is high again; the assertion is logged with its length, and the hold may start. -/
def execConvAlertNRelease (s : State) : Out :=
  match s.pwr.alert with
  | none => .next s
  | some _ =>
    let before := s.forced
    let len := s.alertLength
    let s := if s.pwr.faults.isEmpty then s else s.send (.pin "CONV_ALERT_N" true)
    let clear : State := { s with pwr := { s.pwr with alert := none, alertPast := 0, faults := [] } }
    if s.tripped then .next clear else
    let s := clear.powerLog 3 (decide (1000000000 < len)) 0x02 [0x04, len / 1000000]
    .next (s.limitsMoved before)

/-- The setting and mode in force, the clock, N and the memory fraction. -/
def State.setting (s : State) : Nat := s.field Off.pwrMode 29 24
def State.opportunistic (s : State) : Bool := s.flag Off.pwrMode 0
def State.clock (s : State) : Nat := s.field Off.pwrMode 21 16
def State.issue (s : State) : Nat := s.field Off.pwrLimitStat 12 8
def State.memFrac (s : State) : Nat := s.field Off.pwrLimitStat 20 16

/-- A SET_FREQ is armed and its lock cycle has come. -/
def State.freqDue (s : State) : Bool :=
  s.flag Off.pwrFreqAt 63 && decide (s.field Off.pwrFreqAt 45 0 ≤ s.lcNow)

/-- The armed setting and mode come into force. -/
def State.takeFreq (s : State) : State :=
  let f := s.field Off.pwrFreqAt 61 56
  ((s.setField Off.pwrMode 29 24 f).setFlag Off.pwrMode 0 (s.flag Off.pwrFreqAt 62)).setFlag Off.pwrFreqAt 63 false

/-- LOWEST_STATE_EXIT: HOLD_MS after the last cause went away; a setting whose lock cycle came meanwhile is taken, and the clock
follows at the next lock-cycle boundary (15 R327, R337). -/
def execLowestStateExit (s : State) : Out :=
  let hold := max 1 (s.field Off.pwrAlertCfg 15 0) * 1000000000
  if s.lowest && !s.forced && decide (s.pwr.released + hold ≤ s.clk.now) then
    let s := s.setFlag Off.pwrLimitStat 29 false
    let s := if s.freqDue then s.takeFreq else s
    .next (State.showEmergency { s with pwr := { s.pwr with climbing := true, nextClock := some (s.setting, s.lcNow + 1) } })
  else .next s

/-! ### Droop (15 R324) -/

/-- TRIP_PS and TARGET_PS. -/
def State.tripPs (s : State) : Nat := s.field Off.pwrDroopCfg 7 0
def State.targetPs (s : State) : Nat := s.field Off.pwrDroopCfg 23 16

/-- The compute die of an island or logic region: hive slots, then die fabrics. -/
def dieOfIsland (i : Nat) : Option Nat := if i < 320 then some (i / 5) else if i < 384 then some (i - 320) else none

/-- A margin is read on a die. -/
def State.marginRead (s : State) (die : Option Nat) (m : Int) : State :=
  match die with
  | none => s
  | some d =>
    let v := match sget none s.pwr.marginLow d with
      | some l => min l m.toNat
      | none => m.toNat
    { s with pwr := { s.pwr with marginLow := sput none s.pwr.marginLow d (some v) } }

/-- DROOP_STRETCH: an island that may stretch, below TRIP_PS. -/
def execDroopStretch (island : Fin 472) (margin : Int) (s : State) : Out :=
  let i := island.val
  let die := dieOfIsland i
  let t := s.marginRead die margin
  let u : State := { t with pwr := { t.pwr with stretched := sput false s.pwr.stretched i true } }
  let u := match die with
    | some d => u.countField (Off.pwrDieStat d) 63 48 1
    | none => u
  let trips := decide (margin < s.tripPs) && decide (i < 436) && !sget false s.pwr.stretched i
  .next (if !s.pwr.rails then s else if trips then u else t)

/-- DROOP_RECOVERY: the margin has stayed at TRIP_PS + 8 or above for 64 cycles. -/
def execDroopRecovery (island : Fin 472) (margin : Int) (cycles : Nat) (s : State) : Out :=
  whenReady (decide ((s.tripPs : Int) + 8 ≤ margin) && decide (64 ≤ cycles)) s
    { s with pwr := { s.pwr with stretched := sput false s.pwr.stretched island.val false } }

/-! ### The die limiters (15 R325) -/

/-- The state with a die's issue rate replaced. -/
def State.setDieIssue (s : State) (d n : Nat) : State := s.setField (Off.pwrDieStat d) 4 0 n

/-- CURRENT_LIMITER: above its ceiling a die holds the spare's test, then lowers its issue by a sixteenth; after 1 µs below 95% it
raises it toward N, and then lets the test go on. -/
def execCurrentLimiter (d : Die) (current : Nat) (s : State) : Out :=
  match s.pwr.ceiling with
  | none => .next s
  | some c =>
    let n := s.field (Off.pwrDieStat d.val) 4 0
    let since_ := since s.clk.now (decide (100 * current < 95 * c)) (sget none s.pwr.belowSince d.val)
    let hold := fun (b : Bool) (s : State) =>
      ({ s with pwr := { s.pwr with testHeld := sput false s.pwr.testHeld d.val b } } : State)
    let t : State := { s with pwr := { s.pwr with belowSince := sput none s.pwr.belowSince d.val since_ } }
    if !s.pwr.rails || s.lowest then .next s
    else if c < current then
      if sget false s.hive.spareHeld d.val && !sget false s.pwr.testHeld d.val then .next (hold true t)
      else .next (t.setDieIssue d.val (max 1 (n - 1)))
    else if heldFor s.clk.now 1000000 since_ then
      if n < s.issue then .next (t.setDieIssue d.val (n + 1)) else .next (hold false t)
    else .next t

/-! ### Regulators (15 R323, R333) -/

/-- The lowest, nominal and highest output of a region's class, in 0.1 mV. -/
def voltRange (region : Nat) : Nat × Nat × Nat := if region < 452 then (4500, 5500, 6500) else (6500, 7000, 7500)

/-- A regulator's output. -/
def State.volt (s : State) (region : Nat) : Nat := sget (voltRange region).2.1 s.pwr.volts region

/-- The compute die of a region: that of an island, or of a hive store. -/
def dieOfRegion (r : Nat) : Option Nat := if r < 384 then dieOfIsland r else if 452 ≤ r ∧ r < 772 then some ((r - 452) / 5) else none

/-- A heavy compute phase of a context whose hive sits in a slot begins within 200 µs; none counts in an emergency. -/
def State.hintRaises (s : State) (slot : Nat) : Bool :=
  !s.emergency && (List.range 64).any (fun x =>
    match (s.ctx x).hint with
    | some h => h.kind == 0 && decide (s.clk.now < h.start ∧ h.start ≤ s.clk.now + 200000000)
        && (List.range 4).any (fun j => s.ownsHive x (4 * (slot / 5) + j) && s.slotOfHive (4 * (slot / 5) + j) == slot)
    | none => false)

/-- The margin a region steers to, in ps. -/
def State.targetOf (s : State) (region : Nat) : Nat :=
  if region < 320 && s.hintRaises region then s.targetPs + 8 else s.targetPs

/-- The engine clock is about to rise: to an armed setting within 8 lock cycles of its AT, or to the clock that the loop chose. -/
def State.clockRises (s : State) : Bool :=
  (s.flag Off.pwrFreqAt 63 && decide (s.clock < s.field Off.pwrFreqAt 61 56)
      && decide (s.field Off.pwrFreqAt 45 0 ≤ s.lcNow + 8))
    || s.pwr.nextClock.any (fun c => decide (s.clock < c.1))

/-- A region of a hive island or a hive store, whose output rises before the engine clock does (15 R335, R337; log 24). -/
def State.leadsClock (s : State) (region : Nat) : Bool :=
  s.clockRises && (decide (region < 320) || decide (452 ≤ region ∧ region < 772))

/-- DIE_STAT.VLOGIC: the highest output of the die's hive islands, in 5 mV units. -/
def State.showVolt (s : State) (region : Nat) : State :=
  if region < 320 then
    let d := region / 5
    s.setField (Off.pwrDieStat d) 15 8 (((List.range 5).map (fun k => s.volt (5 * d + k))).foldl max 0 / 50)
  else s

/-- REGULATOR_STEP: 2.5 mV up or down, within the class range; up ahead of a rise of the engine clock. -/
def execRegulatorStep (region : Fin 1812) (margin : Int) (s : State) : Out :=
  let r := region.val
  let g := voltRange r
  let tgt : Int := s.targetOf r
  let v := s.volt r
  let v := if margin < tgt - 4 ∨ s.leadsClock r then min g.2.2 (v + 25) else if tgt + 4 < margin then max g.1 (v - 25) else v
  let short := decide (v = g.2.2) && decide (margin < (s.targetPs : Int) - 4)
  let t := s.marginRead (dieOfRegion r) margin
  whenReady s.pwr.rails s (State.showVolt { t with pwr := { t.pwr with
    volts := sput g.2.1 s.pwr.volts r v
    topSince := sput none s.pwr.topSince r (since s.clk.now short (sget none s.pwr.topSince r)) } } r)

/-- MARGIN_SHORT: a region at its top for 1 ms and still short of margin is logged, once per hour. -/
def execMarginShort (region : Fin 1812) (margin : Int) (s : State) : Out :=
  let r := region.val
  let again := match sget none s.pwr.shortLogged r with
    | some t => decide (t + 3600000000000000 ≤ s.clk.now)
    | none => true
  let ready := heldFor s.clk.now 1000000000 (sget none s.pwr.topSince r) && decide (margin < (s.targetPs : Int) - 4)
  whenReady (s.pwr.rails && ready && again) s
    (State.powerLog { s with pwr := { s.pwr with shortLogged := sput none s.pwr.shortLogged r (some s.clk.now) } }
      3 true 0x02 [0x06, r, s.volt r / 10])

/-! ### Estimate and measurement (15 R332) -/

/-- |E - M| is at most 0.15 M. -/
def agrees (m e : Nat) : Bool := decide (100 * (e - m) ≤ 15 * m ∧ 100 * (m - e) ≤ 15 * m)

/-- Since when estimate and measurement have differed, and agreed. -/
def State.compareEstimate (s : State) (m e : Nat) : State :=
  { s with pwr := { s.pwr with
      differSince := since s.clk.now (!agrees m e) s.pwr.differSince
      agreeSince := since s.clk.now (agrees m e) s.pwr.agreeSince } }

/-- EST_FAULT. -/
def State.estFault (s : State) : Bool := s.flag Off.pwrLimitStat 30

/-- ESTIMATOR_FAULT: set after more than 1 s of difference, cleared after 10 s of agreement. -/
def execEstimatorFault (measured estimate : Nat) (s : State) : Out :=
  let t := s.compareEstimate measured estimate
  let long := t.pwr.differSince.any (fun u => decide (u + 1000000000000 < s.clk.now))
  if !s.pwr.rails then .next s
  else if !s.estFault && long then
    .next ((t.setFlag Off.pwrLimitStat 30 true).powerLog 3 true 0x02 [0x01, estimate, measured])
  else if s.estFault && heldFor s.clk.now 10000000000000 t.pwr.agreeSince then
    .next ((t.setFlag Off.pwrLimitStat 30 false).powerLog 2 false 0x02 [0x02, estimate, measured])
  else .next t

/-! ### The thermal cap (16 R346) -/

/-- C_F: the flow term. -/
def State.capFlow (s : State) : Nat :=
  if s.flowAtLeast 90 then 4800 else 480000 * s.thm.flow.1 / (9 * s.nominal * s.thm.flow.2)

/-- C_I: the inlet term. -/
def State.capInlet (s : State) : Nat :=
  match s.thm.inlet with
  | some t => if s.coolantLost || decide (t ≤ 450) then 4800 else max 600 (4800 - 24 * (t - 450)).toNat
  | none => 4800

/-- C_J of the next period. -/
def State.capJunction (s : State) : Nat :=
  match s.hottest with
  | none => s.thm.cj
  | some (_, t) =>
    if (s.tjTarget : Int) ≤ t then max 600 (98 * s.thm.cj / 100)
    else if t ≤ (s.tjTarget : Int) - 3 then min 4800 (s.thm.cj + 48)
    else s.thm.cj

/-- C is formed, and the times that CAP_BINDING rests on follow. -/
def State.formCap (s : State) : State :=
  let cj := s.capJunction
  let c := min s.capFlow (min s.capInlet cj)
  let s : State := { s with thm := { s.thm with
    cj := cj
    binding := since s.clk.now (decide (c < s.budget)) s.thm.binding
    unbound := since s.clk.now (decide (s.budget ≤ c)) s.thm.unbound } }
  s.setField Off.thmStat 63 48 c

/-! ### The cap (15 R329) -/

/-- The power basis of an iteration: each class times `num` over `den` (15 R332). -/
structure Basis where
  r : PowerReading
  num : Nat
  den : Nat
  b : Nat

/-- c(n, f) and m(k), before the basis is scaled. -/
def Basis.c (p : Basis) (n f : Nat) : Nat := (p.r.computeAt.getD (f - 14) []).getD (n - 1) 0
def Basis.m (p : Basis) (k : Nat) : Nat := p.r.memoryAt.getD (k - 8) 0

/-- A total of classes, in whole watts. -/
def Basis.watts (p : Basis) (w : Nat) : Nat := w * p.num / p.den

/-- Link, compute and memory power together stay within b. -/
def Basis.fits (p : Basis) (compute memory : Nat) : Bool := decide ((p.r.link + compute + memory) * p.num ≤ p.b * p.den)

/-- The last of a list of candidates, lowest first, that satisfies a test. -/
def highest (l : List Nat) (ok : Nat → Bool) : Option Nat := l.reverse.find? ok

/-- What an iteration sets: n, k, f, and the shortfall if there is one. -/
structure Cap where
  n : Nat
  k : Nat
  f : Nat
  short : Option Nat
deriving DecidableEq, Repr

/-- The settings from 0.70 GHz to `f`. -/
def settingsTo (f : Nat) : List Nat := (List.range (f - 13)).map (· + 14)

/-- The rule of R329: opportunistic mode lowers f before n (R335), fixed mode keeps f (R334). -/
def Basis.cap (p : Basis) (opp : Bool) (top : Nat) : Cap :=
  let floor := if opp then 14 else top
  let ns := (List.range 16).map (· + 1)
  let nAt := fun f => (highest ns (fun n => p.fits (p.c n f) (p.m 16))).getD 1
  if p.fits (p.c 16 top) (p.m 16) then ⟨16, 16, top, none⟩
  else if p.fits (p.c 1 floor) (p.m 16) then
    if opp then
      match highest (settingsTo top) (fun f => p.fits (p.c 16 f) (p.m 16)) with
      | some f => ⟨16, 16, f, none⟩
      | none => ⟨nAt 14, 16, 14, none⟩
    else ⟨nAt top, 16, top, none⟩
  else
    match highest ((List.range 9).map (· + 8)) (fun k => p.fits (p.c 1 floor) (p.m k)) with
    | some k => ⟨1, k, floor, none⟩
    | none => ⟨1, 8, floor, some (p.watts (p.r.link + p.c 1 floor + p.m 8) - p.b)⟩

/-- The highest LEVEL among the hinted phases that steer the clock: light ones, and heavy compute from 200 µs before (R333). -/
def State.hintLevel (s : State) : Option Nat :=
  if s.emergency then none
  else (List.range 64).foldl (fun (best : Option Nat) x =>
    match (s.ctx x).hint with
    | some h =>
      let lead := if h.kind = 0 then 200000000 else 0
      if h.kind ≠ 1 ∧ h.start ≤ s.clk.now + lead ∧ s.clk.now < h.start + h.duration then
        some (max (best.getD 0) h.level) else best
    | none => best) none

/-- The clock an iteration chooses: that of the rule, or for compute at a hinted level. -/
def State.clockFor (s : State) (p : Basis) (c : Cap) : Nat :=
  match s.hintLevel with
  | some l =>
    if c.n < 16 then c.f
    else (highest (settingsTo s.setting) (fun f => p.fits (if l = 0 then 0 else p.c l f) (p.m 16))).getD 14
  | none => c.f

/-- The basis of this iteration; a fault with an estimate of 0 leaves the factor free. -/
def State.basis (s : State) (r : PowerReading) : State × Basis :=
  let b := min s.budget s.thermalCap
  if !s.estFault then (s, ⟨r, 1, 1, b⟩)
  else if r.estimate = 0 then (s.drawn, ⟨r, s.freeBelow 65536, 1, b⟩)
  else (s, ⟨r, 105 * r.measured, 100 * r.estimate, b⟩)

/-! ### The power loop (15 R321, R327-R335; 16 R346, R348) -/

/-- The module issue level changes, and with it every die that stood at the level or stands above it. -/
def State.setModuleIssue (s : State) (n : Nat) : State :=
  let old := s.issue
  (List.range 64).foldl (fun (s : State) d =>
    let i := s.field (Off.pwrDieStat d) 4 0
    if i = old ∨ n < i then s.setDieIssue d n else s) (s.setField Off.pwrLimitStat 12 8 n)

/-- BUDGET_SHORT is set, and logged once per minute (R331). -/
def State.budgetShort (s : State) (shortfall : Nat) : State :=
  let s := s.setFlag Off.pwrLimitStat 31 true
  let again := match s.pwr.shortAt with
    | some t => decide (t + 60000000000000 ≤ s.clk.now)
    | none => true
  if again then
    State.powerLog { s with pwr := { s.pwr with shortAt := some s.clk.now } } 3 true 0x02 [0x03, shortfall, s.budget]
  else s

/-- N, the memory fraction and the clock follow the cap; after the lowest state each rises by a sixteenth per period (R327). In the
lowest state Table 15-4 stands. -/
def State.applyCap (s : State) (p : Basis) (c : Cap) : State :=
  if s.lowest then s
  else
    let n := if s.pwr.climbing then min c.n (s.issue + 1) else c.n
    let k := if s.pwr.climbing then min c.k (s.memFrac + 1) else c.k
    let s := (s.setModuleIssue n).setField Off.pwrLimitStat 20 16 k
    let s : State := { s with pwr := { s.pwr with climbing := s.pwr.climbing && decide (n ≠ c.n ∨ k ≠ c.k) } }
    let f := s.clockFor p c
    let s : State := if s.opportunistic then
        { s with pwr := { s.pwr with nextClock := if f = s.clock then none else some (f, s.lcNow + 1) } }
      else s
    match c.short with
    | some w => s.budgetShort w
    | none => s

/-- The shares and the die ceilings: (avail - m(k)) / 64 each. -/
def State.setShares (s : State) (p : Basis) (k : Nat) : State :=
  let share := p.b - p.watts (p.r.link + p.m k)
  let s := (s.setField Off.pwrShare 63 48 (min p.r.link 65535)).setField Off.pwrShare 47 32 (min (p.watts (p.m k)) 65535)
  let s := s.setField Off.pwrShare 31 16 share
  { s with pwr := { s.pwr with ceiling := some ((p.b * p.den * 10 - (p.r.link + p.m k) * p.num * 10) / (64 * p.den)) } }

/-- The measurements shown in PWR.MEAS and the dies' registers; a die's power is a free value. -/
def State.showPower (s : State) (r : PowerReading) : State :=
  let s := (s.setField Off.pwrMeas 63 48 (min r.input 65535)).setField Off.pwrMeas 47 32 (min r.measured 65535)
  let s := (s.setField Off.pwrMeas 31 16 (min r.estimate 65535)).setField Off.pwrMeas 15 0 (min r.hvDv 65535)
  let s := (List.range 64).foldl (fun (s : State) d =>
    let s := (s.setField (Off.pwrDieStat d) 31 16 (s.freeBelow 65536)).drawn
    match sget none s.pwr.marginLow d with
    | some l => s.setField (Off.pwrDieStat d) 47 40 (min l 255)
    | none => s) s
  { s with pwr := { s.pwr with marginLow := [] } }

/-- After a flow stop the module asks for takeover (16 R348). -/
def State.flowTakeover (s : State) : State :=
  match s.thm.stopReq with
  | none => s
  | some q =>
    State.send { s with thm := { s.thm with stopReq := none } }
      (.towpath 0x0025 (natLe 0x32 1 ++ natLe 0xFFFF 2 ++ natLe q.toNat 4))

/-- POWER_LOOP: one iteration. -/
def execPowerLoop (r : PowerReading) (s : State) : Out :=
  if !s.pwr.rails || s.fw.restarting.contains .power then .next s
  else
    let s := (((s.flowTakeover).showPower r).formCap).compareEstimate r.measured r.estimate
    let (s, p) := s.basis r
    let c := p.cap s.opportunistic s.setting
    .next ((s.setShares p c.k).applyCap p c)

/-! ### Changes at agreed lock cycles (15 R337, R338) -/

/-- The budget in force at a lock cycle. -/
def State.budgetAt (s : State) (l : Nat) : Nat :=
  match s.pwr.ramp with
  | some r => r.value l
  | none => s.budget

/-- An armed budget starts its ramp at its lock cycle. -/
def State.startRamp (s : State) : State :=
  let at_ := s.field Off.pwrBudgetAt 45 0
  match s.pwr.armed with
  | some (t, rate) =>
    if s.flag Off.pwrBudgetAt 63 && decide (at_ ≤ s.lcNow) then
      State.setFlag { s with pwr := { s.pwr with armed := none, ramp := some ⟨s.budgetAt at_, t, rate, at_⟩ } } Off.pwrBudgetAt 63 false
    else s
  | none => s

/-- A ramp that has reached its target is over. -/
def State.endRamp (s : State) : State :=
  if s.pwr.ramp.any (fun r => decide (r.value s.lcNow = r.t)) then { s with pwr := { s.pwr with ramp := none } } else s

/-- A clock chosen for this lock cycle takes effect, but for the lowest state. -/
def State.takeClock (s : State) : State :=
  match s.pwr.nextClock with
  | some (f, l) =>
    if l ≤ s.lcNow && !s.lowest then
      State.setField { s with pwr := { s.pwr with nextClock := none } } Off.pwrMode 21 16 f
    else s
  | none => s

/-- BUDGET_LOCK_CYCLE: a lock cycle begins; the budget in force is B(L). -/
def execBudgetLockCycle (s : State) : Out :=
  let s := s.startRamp
  .next (((s.setField Off.pwrBudget 47 32 (s.budgetAt s.lcNow)).endRamp).takeClock)

/-- FREQ_SWITCH: at its lock cycle every hive island takes the armed setting and mode; in the lowest state it waits. -/
def execFreqSwitch (s : State) : Out :=
  let t := s.takeFreq
  whenReady (s.freqDue && !s.lowest) s
    (State.setField { t with pwr := { t.pwr with nextClock := none } } Off.pwrMode 21 16 t.setting)

end Sys2Proof.Machine
end

