-- ==== Sys2Proof/Machine/Flags.lean ====
section
/-! DEFINITION. What a register reads: stored bits, and the status fields that show other state (12 R245; 18 R364-R366). Reads
have no row in the opcode table: they change nothing but the log (log 19). -/

namespace Sys2Proof.Machine

/-! ### Status fields -/

/-- CTX.STATE (12). -/
def State.ctxStateView (s : State) (x : Nat) : Nat :=
  s.funcOf x * 256 + (s.ctx x).cause.toNat * 16 + (s.ctx x).state.toNat

/-- CTX.RING_POS and CTX.CQ_POS (12). -/
def CtxSt.ringPos (c : CtxSt) : Nat := c.fetch.toNat * 2 ^ 32 + c.released.toNat
def CtxSt.cqPos (c : CtxSt) : Nat := c.cqTail.toNat * 2 ^ 32 + c.cqHead.toNat

/-- SYN.BAR_STAT (10): participants ahead of the local count, and the released rounds of the step. -/
def State.barStatView (s : State) (n : Nat) : Nat :=
  let ahead := (List.range (s.barParts n)).filter (fun j => decide ((s.bar n).l < (s.bar n).a j))
  ahead.length * 2 ^ 48 + s.released n % 2 ^ 48

/-- SYN.CNT_VAL (10 R194). -/
def State.cntValView (s : State) (p : Nat) : Nat :=
  let c := s.counter p
  c.gen.toNat * 2 ^ 56 + (c.value - c.committed) % 2 ^ 48

/-- PHASE of UPD.CTX_STAT (08); a sweep that waits for its partner still reads idle (09 R173). -/
def Sweep.phaseCode (w : Sweep) (ready : Bool) : Nat :=
  if !w.stopped.isEmpty then 5
  else match w.phase with
    | .start => if ready then 1 else 0
    | .norm => 2
    | .decide => 2
    | .pass2 => 3
    | .rederive => 4
    | .commit => 4

/-- UPD.CTX_STAT. -/
def State.updCtxStatView (s : State) (x : Nat) : Nat :=
  (match (s.ctx x).sweep with
    | some w => w.phaseCode (s.pass1Ready x w)
    | none => 0) * 2 ^ 61 + (s.ctx x).step % 2 ^ 48

/-- UPD.EXP_STAT (09). -/
def State.expStatView (s : State) : Nat := s.expState * 2 ^ 62 + s.fail.exp.ackStep % 2 ^ 48

/-- UPD.MIRROR_STAT (09). -/
def State.mirrorStatView (s : State) (p : Nat) : Nat :=
  (s.mirror p).state % 4 * 2 ^ 62 + (s.mirror p).applied % 2 ^ 48

/-- CAN.PORT_STAT (18 R365): NONE where no edge is, or before the port is started; else UP or LOST. -/
def State.canStatView (s : State) (c : Nat) : Nat :=
  let t := s.port (0x40 + c)
  if !portExists (0x40 + c) || t.state ≠ 3 && !t.lost then 6 * 2 ^ 60
  else (if t.lost then 0 else 3) * 2 ^ 60 + t.bufFor s.clk.frame * 2 ^ 45

/-- THM.SPARE_MAP (09): NONE and SLOT of eight dies. -/
def State.spareMapView (s : State) (n : Nat) : Nat :=
  ((List.range 8).map (fun k =>
    let d := 8 * n + k
    (match s.spareSlot d with
      | some j => j
      | none => 8) * 16 ^ k)).foldl (· + ·) 0

/-- NUM.LAYER_STAT (03). -/
def State.layerStatView (s : State) (n : Nat) : Nat :=
  let l := s.layer n
  let start := s.startupLeft n l
  let flagged := l.flaggedIn (s.field Off.numOvfTrig 15 8)
  let mode := if 0 < l.recovery then 2 else if 0 < start then 1 else 0
  min (sget ({} : LayerSt) s.layersC n).still 65535 * 2 ^ 32 + min (max start l.recovery) 65535 * 2 ^ 16 + min flagged 255 * 2 ^ 8 + mode

/-- NUM.FREEZE_PATH (04). -/
def State.freezePathView (s : State) (n : Nat) : Nat :=
  ((List.range 32).map (fun k => b2n (s.layer (32 * n + k)).path * 2 ^ k)).foldl (· + ·) 0

/-- LNK.FRAME (11 R213). -/
def State.frameView (s : State) : Nat := s.clk.frame / 1024 % 2 ^ 46 * 1024 + s.clk.frame % 1024

/-- The bits of a register that are write-only or read as zero: ACTION, COMMIT, CLEAR and ARM are not stored. -/
def State.regView (s : State) (r : RegRow) (i j off : Nat) : Nat :=
  match r.reg with
  | .hifFuncStat => setBits (s.reg off) 55 48 (s.ctxsOf i).length
  | .ctxState => s.ctxStateView i
  | .ctxRingPos => (s.ctx i).ringPos
  | .ctxCqPos => (s.ctx i).cqPos
  | .ctxRingCrc => (s.ctx i).stepCrc.toNat
  | .synBarCfg => setBits (s.regShown off) 63 56 (s.bar i).gen.toNat
  | .synBarStat => s.barStatView i
  | .synCntVal => s.cntValView i
  | .updCtxStat => s.updCtxStatView i
  | .updExpStat => s.expStatView
  | .updMirrorStat => s.mirrorStatView i
  | .lnkPortStat => (s.port i).stat ((s.port i).bufFor s.clk.frame)
  | .lnkFrame => s.frameView
  | .canPortStat => s.canStatView i
  | .thmSpareMap => s.spareMapView i
  | .numLayerStat => s.layerStatView i
  | .numFreezePath => s.freezePathView i
  | .secMeas => bits (s.measured i) (64 * j + 63) (64 * j)
  | _ => s.regShown off

/-! ### Reads of BAR 2 and BAR 4 -/

/-- A doorbell page is write-only: a read of any context's page gives zero (12 Table 12-3, R245). -/
def State.readDoorbell (_s : State) (_f _off _bytes : Nat) : Nat := 0

/-- A byte of a context's mailbox window as its function reads it (14 Table 14-7). -/
def State.windowByte (s : State) (x o : Nat) : Byte :=
  let b := s.box x
  let out := s.box (64 + x)
  if 0x40 ≤ o ∧ o < 0x44 then (natLe ((b.ack.getD 0).toNat + b2n b.valid * 2 ^ 31) 4).getD (o - 0x40) 0
  else if o = 0x44 then BitVec.ofNat 8 (b2n b.full + 2 * b2n b.overrun)
  else if 0x80 ≤ o ∧ o < 0xC0 then ((out.msg.map Msg.slotBytes).getD []).getD (o - 0x80) 0
  else if o = 0xC0 then BitVec.ofNat 8 (b2n out.full)
  else 0

/-- A read of a mailbox window through a function: zero where the context is not the function's (12 R245). -/
def State.readWindow (s : State) (f off bytes : Nat) : Nat :=
  if s.funcOwns f (some (off / 0x4000)) then
    leNat ((List.range bytes).map (fun i => s.windowByte (off / 0x4000) ((off + i) % 0x4000)))
  else 0

/-! ### Reads of BAR 0 -/

/-- A word of the MSI-X table or pending-bit array as a function reads it (12 R246). -/
def State.msixView (s : State) (f off : Nat) : Nat :=
  if off < 0x11000 then
    let w := (off - 0x10000) / 4
    (sget (msixReset w) s.io.msix (260 * f + w)).toNat
  else
    ((List.range 32).map (fun k =>
      b2n (sget false s.io.msixPending (65 * f + 32 * ((off - 0x11000) / 4) + k)
        && decide (32 * ((off - 0x11000) / 4) + k < 65)) * 2 ^ k)).foldl (· + ·) 0

/-- A CTX register of a context that is not the VF's reads zero (12 R245). -/
def State.hiddenFrom (s : State) (f : Nat) (r : RegRow) (i : Nat) : Bool :=
  f != 0 && decide (0x100000 ≤ r.base ∧ r.base < 0x140000) && !s.funcOwns f (some i)

/-- A read of `bytes` bytes at an offset of BAR 0 through a function: either half of a 64-bit register by itself, any register
whole; a read of another size or alignment is logged and gives zero (R364, R365). -/
def State.readRegister (s : State) (f off bytes : Nat) : State × Nat :=
  if isMsix off then
    (s, if bytes = 8 then s.msixView f off + s.msixView f (off + 4) * 2 ^ 32 else s.msixView f off)
  else if ¬(bytes = 4 ∨ bytes = 8) ∨ off % bytes ≠ 0 then (s.ignored f off 0, 0)
  else
    match regAt off with
    | some (r, i, j) =>
      if bytes = 8 ∧ r.bytes = 4 then (s.ignored f off 0, 0)
      else (s, if s.hiddenFrom f r i then 0 else s.regView r i j off % 2 ^ (8 * bytes))
    | none =>
      match regAt (off - 4) with
      | some (r, i, j) =>
        (s, if r.bytes = 8 ∧ bytes = 4 ∧ !s.hiddenFrom f r i then s.regView r i j (off - 4) / 2 ^ 32 else 0)
      | none => (s, 0)

end Sys2Proof.Machine
end

