-- ==== Sys2Proof/Machine/Telemetry.lean ====
section
/-! DEFINITION. The telemetry block (14 R314, R316; 13 R286). The places of the values within the ranges of Table 14-16 are the model's
(log 47). -/

namespace Sys2Proof.Machine

/-- Bytes 0 to 63: what the block is, when and where it was sampled, and FWL.FW_STAT. -/
def State.blockHead (s : State) : List Byte :=
  padTo 64 (natLe 0x544C4D59 4 ++ natLe 1 2 ++ natLe 0 2 ++ natLe s.clk.frame 8 ++ natLe s.moduleNo 2 ++ natLe 0 6
    ++ natLe (s.reg Off.fwlFwStat) 8)

/-- Bytes 64 to 127: HV_IN, its current, module power, the budget, the issue level and the clock setting; the powers of the six domain
classes of 15 Table 15-2 are measured with nothing that the spec names, and are free values. -/
def State.blockPower (s : State) : List Byte :=
  let classes := (List.range 6).map (fun k => natLe (Config.freeValue (s.clk.free + k)) 4)
  padTo 64 ((s.readings.take 3).flatten ++ f32Bytes (s.field Off.pwrBudget 47 32) 1 ++ f32Bytes (s.field Off.pwrLimitStat 12 8) 1
    ++ f32Bytes (50 * s.field Off.pwrMode 29 24) 1 ++ classes.flatten)

/-- Bytes 128 to 255: the coolant, the hottest junction and stack, and the emergency causes as HEALTH gives them. -/
def State.blockThermal (s : State) : List Byte := padTo 128 ((s.readings.drop 3).flatten ++ natLe s.causeBits 4)

/-- The 32 bytes of a stack: temperature, throttle step, corrected and uncorrectable accesses, spare lanes. -/
def State.blockStack (s : State) (n : Nat) : List Byte :=
  let lanes := ((List.range 16).map (fun c => s.field (Off.memLaneStat n c) 63 60)).sum
  f32Bytes (s.field (Off.memTherm n) 15 8) 1 ++ natLe (s.field (Off.memTherm n) 2 0) 4 ++ natLe (s.field (Off.memErrStat n) 47 24) 8
    ++ natLe (s.field (Off.memErrStat n) 62 48) 8 ++ natLe lanes 8

/-- The 32 bytes of a link port: LNK.PORT_STAT, corrected symbols, bad frames and resent flits. -/
def State.blockPort (s : State) (p : Nat) : List Byte :=
  let t := s.port p
  natLe (t.stat (t.bufFor s.clk.frame)) 8 ++ natLe ((t.corr.map (·.2)).sum) 8 ++ natLe (s.field (Off.lnkErrStat p) 62 48) 8
    ++ natLe (s.field (Off.lnkErrStat p) 47 32) 8

/-- The 4 bytes of a context: CTX.STATE.STATE and the low 16 bits of its committed step. -/
def State.blockCtx (s : State) (x : Nat) : List Byte :=
  natLe (s.ctx x).state.toNat 2 ++ natLe (s.ctx x).step 2

/-- The hottest working junction sensor of a die, 15 to a die (16 R341). -/
def State.dieHottest (s : State) (d : Nat) : Int :=
  ((s.thm.temps.filter (fun e => e.1 / 15 == d && !sget false s.thm.failed e.1)).filterMap (·.2)).foldl max (-10)

/-- The 8 bytes of a compute die: its spare slot, 8 for none; its hottest sensor; its lowest margin; its power. -/
def State.blockDie (s : State) (d : Nat) : List Byte :=
  natLe ((s.spareSlot d).getD 8) 1 ++ natLe ((s.dieHottest d % 256).toNat) 1 ++ natLe (s.field (Off.pwrDieStat d) 47 40) 2
    ++ f32Bytes (s.field (Off.pwrDieStat d) 31 16) 10

/-- The crash log's next bytes in a telemetry block (14 R314). -/
def State.crashBytes (s : State) : List Byte :=
  padTo 1536 (if s.flag Off.fwlLogStat 63 then ((s.log.crash.drop (s.log.crashPos / 64)).take 24).flatMap LogRec.bytes else [])

/-- The 4,096 bytes of Table 14-16. -/
def State.telemetryBlock (s : State) : List Byte :=
  s.blockHead ++ s.blockPower ++ s.blockThermal ++ (List.range 32).flatMap s.blockStack ++ (List.range 16).flatMap s.blockPort
    ++ (List.range 64).flatMap s.blockCtx ++ (List.range 64).flatMap s.blockDie ++ s.crashBytes

/-- TELEMETRY: the block is sampled and written. -/
def execTelemetry (x : Ctx) (s : State) : Out :=
  match s.startableOp x.val 0x20 (some 1) with
  | none => .next s
  | some d =>
    let a := d.mgmtAddr
    if s.isProtected a 4096 then .next (s.complete x.val d.idx stBadAddress 0)
    else if !s.copyReady x.val [a] then .next s
    else
      let t := (s.stores x.val a s.telemetryBlock).chargeAll [(a, 4096)] true
      let t : State := { t with log := { t.log with crashPos := t.log.crashPos + 1536 }, clk := { t.clk with free := t.clk.free + 6 } }
      .next (t.complete x.val d.idx stOk 4096)

end Sys2Proof.Machine
end

