-- ==== Sys2Proof/Machine/Dispatch.lean ====
section
/-! DEFINITION. The effect of every command: one arm per row of the opcode table. -/

namespace Sys2Proof.Machine

/-- The effect of a command on everything but the queue. -/
def exec (i : Instr) (s : State) : Host.Outcome State Fault Refusal :=
  match i with
  | .tile h => Sys2Proof.Machine.execTile h s
  | .drain h => Sys2Proof.Machine.execDrain h s
  | .wop h => Sys2Proof.Machine.execWop h s
  | .signal h => Sys2Proof.Machine.execSignal h s
  | .wait h => Sys2Proof.Machine.execWait h s
  | .barrier h => Sys2Proof.Machine.execBarrier h s
  | .setx h => Sys2Proof.Machine.execSetx h s
  | .addx h => Sys2Proof.Machine.execAddx h s
  | .blt h => Sys2Proof.Machine.execBlt h s
  | .nop h => Sys2Proof.Machine.execNop h s
  | .endStream h => Sys2Proof.Machine.execEndStream h s
  | .copy h => Sys2Proof.Machine.execCopy h s
  | .convert h => Sys2Proof.Machine.execConvert h s
  | .transpose h => Sys2Proof.Machine.execTranspose h s
  | .addWrite h => Sys2Proof.Machine.execAddWrite h s
  | .gather h => Sys2Proof.Machine.execGather h s
  | .scatterAdd h => Sys2Proof.Machine.execScatterAdd h s
  | .runComplete x => Sys2Proof.Machine.execRunComplete x s
  | .runSuspended x => Sys2Proof.Machine.execRunSuspended x s
  | .waitRelease w => Sys2Proof.Machine.execWaitRelease w s
  | .longWait w => Sys2Proof.Machine.execLongWait w s
  | .signalMessage m => Sys2Proof.Machine.execSignalMessage m s
  | .watchMessage m => Sys2Proof.Machine.execWatchMessage m s
  | .releaseMessage m => Sys2Proof.Machine.execReleaseMessage m s
  | .barrierArrivalMessage m => Sys2Proof.Machine.execBarrierArrivalMessage m s
  | .barrierReleaseMessage m => Sys2Proof.Machine.execBarrierReleaseMessage m s
  | .messageAgeCheck u => Sys2Proof.Machine.execMessageAgeCheck u s
  | .rebind f x n v => Sys2Proof.Machine.execRebind f x n v s
  | .rebindEffect x n => Sys2Proof.Machine.execRebindEffect x n s
  | .xlateWrite f x n v => Sys2Proof.Machine.execXlateWrite f x n v s
  | .barCfgWrite f n j v => Sys2Proof.Machine.execBarCfgWrite f n j v s
  | .abandonStep x => Sys2Proof.Machine.execAbandonStep x s
  | .abandonRestore x => Sys2Proof.Machine.execAbandonRestore x s
  | .replay x => Sys2Proof.Machine.execReplay x s
  | .sqTail f x t => Sys2Proof.Machine.execSqTail f x t s
  | .cqHead f x h => Sys2Proof.Machine.execCqHead f x h s
  | .heartbeat f x v => Sys2Proof.Machine.execHeartbeat f x v s
  | .descriptorFetch x => Sys2Proof.Machine.execDescriptorFetch x s
  | .descriptorArrival x st => Sys2Proof.Machine.execDescriptorArrival x st s
  | .completionWrite x st => Sys2Proof.Machine.execCompletionWrite x st s
  | .irqTimeout x => Sys2Proof.Machine.execIrqTimeout x s
  | .runProgram x => Sys2Proof.Machine.execRunProgram x s
  | .dma x => Sys2Proof.Machine.execDma x s
  | .signalCommand x => Sys2Proof.Machine.execSignalCommand x s
  | .waitCommand x => Sys2Proof.Machine.execWaitCommand x s
  | .barrierCommand x => Sys2Proof.Machine.execBarrierCommand x s
  | .updateSweep x => Sys2Proof.Machine.execUpdateSweep x s
  | .hostStart x => Sys2Proof.Machine.execHostStart x s
  | .hostStop x => Sys2Proof.Machine.execHostStop x s
  | .snapshot x => Sys2Proof.Machine.execSnapshot x s
  | .restore x => Sys2Proof.Machine.execRestore x s
  | .setTensors x => Sys2Proof.Machine.execSetTensors x s
  | .loadLockTable x => Sys2Proof.Machine.execLoadLockTable x s
  | .powerHint x => Sys2Proof.Machine.execPowerHint x s
  | .hintPhaseStart x => Sys2Proof.Machine.execHintPhaseStart x s
  | .selfTest x => Sys2Proof.Machine.execSelfTest x s
  | .suspend x => Sys2Proof.Machine.execSuspend x s
  | .resume x => Sys2Proof.Machine.execResume x s
  | .cancel x => Sys2Proof.Machine.execCancel x s
  | .telemetry x => Sys2Proof.Machine.execTelemetry x s
  | .scrub x => Sys2Proof.Machine.execScrub x s
  | .logMark x => Sys2Proof.Machine.execLogMark x s
  | .trace x => Sys2Proof.Machine.execTrace x s
  | .fwActivate x => Sys2Proof.Machine.execFwActivate x s
  | .activationStart => Sys2Proof.Machine.execActivationStart s
  | .soloRestart c => Sys2Proof.Machine.execSoloRestart c s
  | .coreReady c ok => Sys2Proof.Machine.execCoreReady c ok s
  | .sweepPass1 x => Sys2Proof.Machine.execSweepPass1 x s
  | .normPartial x p => Sys2Proof.Machine.execNormPartial x p s
  | .normTimeout x => Sys2Proof.Machine.execNormTimeout x s
  | .sweepDecision x => Sys2Proof.Machine.execSweepDecision x s
  | .pass2Block x e => Sys2Proof.Machine.execPass2Block x e s
  | .blockStamp x e => Sys2Proof.Machine.execBlockStamp x e s
  | .sweepRecovery x e => Sys2Proof.Machine.execSweepRecovery x e s
  | .sweepRederive x => Sys2Proof.Machine.execSweepRederive x s
  | .commit x => Sys2Proof.Machine.execCommit x s
  | .keepalive => Sys2Proof.Machine.execKeepalive s
  | .recordReceive p record => Sys2Proof.Machine.execRecordReceive p record s
  | .commitRecordApply p => Sys2Proof.Machine.execCommitRecordApply p s
  | .ack step seq => Sys2Proof.Machine.execAck step seq s
  | .resend seq => Sys2Proof.Machine.execResend seq s
  | .undo p => Sys2Proof.Machine.execUndo p s
  | .resynchronisation => Sys2Proof.Machine.execResynchronisation s
  | .hostRecordWrite => Sys2Proof.Machine.execHostRecordWrite s
  | .expHostHead f v => Sys2Proof.Machine.execExpHostHead f v s
  | .expCtrlWrite f v => Sys2Proof.Machine.execExpCtrlWrite f v s
  | .partnerLost => Sys2Proof.Machine.execPartnerLost s
  | .sourceLost p reported => Sys2Proof.Machine.execSourceLost p reported s
  | .rankMove src m => Sys2Proof.Machine.execRankMove src m s
  | .takeover => Sys2Proof.Machine.execTakeover s
  | .jobAction src m => Sys2Proof.Machine.execJobAction src m s
  | .jobActionAtLr x => Sys2Proof.Machine.execJobActionAtLr x s
  | .stepHeld x => Sys2Proof.Machine.execStepHeld x s
  | .hiveRotation d => Sys2Proof.Machine.execHiveRotation d s
  | .earlyRotation d => Sys2Proof.Machine.execEarlyRotation d s
  | .hiveMove h => Sys2Proof.Machine.execHiveMove h s
  | .hiveMoveDone h => Sys2Proof.Machine.execHiveMoveDone h s
  | .hiveFailure p => Sys2Proof.Machine.execHiveFailure p s
  | .hiveReplacement d => Sys2Proof.Machine.execHiveReplacement d s
  | .sramScrub a e => Sys2Proof.Machine.execSramScrub a e s
  | .combLineSpare c => Sys2Proof.Machine.execCombLineSpare c s
  | .stackAccess k unit data m => Sys2Proof.Machine.execStackAccess k unit data m s
  | .rowRepair k => Sys2Proof.Machine.execRowRepair k s
  | .patrolScrub k unit m => Sys2Proof.Machine.execPatrolScrub k unit m s
  | .refresh k => Sys2Proof.Machine.execRefresh k s
  | .sluiceWindow k => Sys2Proof.Machine.execSluiceWindow k s
  | .stackTempRead k temp => Sys2Proof.Machine.execStackTempRead k temp s
  | .throttleStepChange k => Sys2Proof.Machine.execThrottleStepChange k s
  | .channelRetrain k c lanes => Sys2Proof.Machine.execChannelRetrain k c lanes s
  | .stackTraining k t => Sys2Proof.Machine.execStackTraining k t s
  | .sluiceCommit f k => Sys2Proof.Machine.execSluiceCommit f k s
  | .sluiceApply k => Sys2Proof.Machine.execSluiceApply k s
  | .frameTransmit p => Sys2Proof.Machine.execFrameTransmit p s
  | .frameReceive p f => Sys2Proof.Machine.execFrameReceive p f s
  | .flitDeliver p b => Sys2Proof.Machine.execFlitDeliver p b s
  | .reduceCombine p b => Sys2Proof.Machine.execReduceCombine p b s
  | .resendRequest p frame => Sys2Proof.Machine.execResendRequest p frame s
  | .resendRetry p b => Sys2Proof.Machine.execResendRetry p b s
  | .packetReceive p k => Sys2Proof.Machine.execPacketReceive p k s
  | .portDown p cause => Sys2Proof.Machine.execPortDown p cause s
  | .portErrorWarning p symbols corrected frames bad => Sys2Proof.Machine.execPortErrorWarning p symbols corrected frames bad s
  | .portTraining p t => Sys2Proof.Machine.execPortTraining p t s
  | .alignmentCheck p xa xb => Sys2Proof.Machine.execAlignmentCheck p xa xb s
  | .hallRefLoss => Sys2Proof.Machine.execHallRefLoss s
  | .portCtrlWrite f p v => Sys2Proof.Machine.execPortCtrlWrite f p v s
  | .tableSelectArm f v => Sys2Proof.Machine.execTableSelectArm f v s
  | .tableSwitch => Sys2Proof.Machine.execTableSwitch s
  | .oldTableRetire p => Sys2Proof.Machine.execOldTableRetire p s
  | .canalEdgeLost c => Sys2Proof.Machine.execCanalEdgeLost c s
  | .perst => Sys2Proof.Machine.execPerst s
  | .functionLevelReset f => Sys2Proof.Machine.execFunctionLevelReset f s
  | .linkDown => Sys2Proof.Machine.execLinkDown s
  | .busMasterDisable f => Sys2Proof.Machine.execBusMasterDisable f s
  | .d3hotEntry f => Sys2Proof.Machine.execD3hotEntry f s
  | .vfDisable => Sys2Proof.Machine.execVfDisable s
  | .completionTimeout x => Sys2Proof.Machine.execCompletionTimeout x s
  | .heartbeatExpiry x => Sys2Proof.Machine.execHeartbeatExpiry x s
  | .contextParked x => Sys2Proof.Machine.execContextParked x s
  | .hostAccessFailure x st => Sys2Proof.Machine.execHostAccessFailure x st s
  | .ringCfgWrite f x v => Sys2Proof.Machine.execRingCfgWrite f x v s
  | .attachResume f x => Sys2Proof.Machine.execAttachResume f x s
  | .attachReplay f x => Sys2Proof.Machine.execAttachReplay f x s
  | .attachCancel f x => Sys2Proof.Machine.execAttachCancel f x s
  | .configRequest f a => Sys2Proof.Machine.execConfigRequest f a s
  | .inSlot f x dmwr offset data => Sys2Proof.Machine.execInSlot f x dmwr offset data s
  | .mailboxAck m => Sys2Proof.Machine.execMailboxAck m s
  | .outAck f x v => Sys2Proof.Machine.execOutAck f x v s
  | .identify src m => Sys2Proof.Machine.execIdentify src m s
  | .health src m => Sys2Proof.Machine.execHealth src m s
  | .resetModule src m => Sys2Proof.Machine.execResetModule src m s
  | .setBudget src m => Sys2Proof.Machine.execSetBudget src m s
  | .setFreq src m => Sys2Proof.Machine.execSetFreq src m s
  | .attest src m => Sys2Proof.Machine.execAttest src m s
  | .fwActivateMessage src m => Sys2Proof.Machine.execFwActivateMessage src m s
  | .pldmUpdateComponent c => Sys2Proof.Machine.execPldmUpdateComponent c s
  | .getVersion p => Sys2Proof.Machine.execGetVersion p s
  | .getCapabilities p => Sys2Proof.Machine.execGetCapabilities p s
  | .negotiateAlgorithms p rsapss3072 sha256 secp384r1 aes256gcm => Sys2Proof.Machine.execNegotiateAlgorithms p rsapss3072 sha256 secp384r1 aes256gcm s
  | .getDigests p => Sys2Proof.Machine.execGetDigests p s
  | .getCertificate p slot => Sys2Proof.Machine.execGetCertificate p slot s
  | .challenge p slot nonce => Sys2Proof.Machine.execChallenge p slot nonce s
  | .getMeasurements p block nonce => Sys2Proof.Machine.execGetMeasurements p block nonce s
  | .keyExchange p slot pubKey => Sys2Proof.Machine.execKeyExchange p slot pubKey s
  | .finish p verified => Sys2Proof.Machine.execFinish p verified s
  | .endSession p => Sys2Proof.Machine.execEndSession p s
  | .ideKmRequest f n k => Sys2Proof.Machine.execIdeKmRequest f n k s
  | .logEntry a => Sys2Proof.Machine.execLogEntry a s
  | .logHeadWrite f v => Sys2Proof.Machine.execLogHeadWrite f v s
  | .tracePoint n args => Sys2Proof.Machine.execTracePoint n args s
  | .moduleReset => Sys2Proof.Machine.execModuleReset s
  | .bootRom traySlot trayId => Sys2Proof.Machine.execBootRom traySlot trayId s
  | .railBringUp => Sys2Proof.Machine.execRailBringUp s
  | .imageLoad => Sys2Proof.Machine.execImageLoad s
  | .applyDefaults => Sys2Proof.Machine.execApplyDefaults s
  | .protLock f v => Sys2Proof.Machine.execProtLock f v s
  | .auxValid => Sys2Proof.Machine.execAuxValid s
  | .auxLoss => Sys2Proof.Machine.execAuxLoss s
  | .hvInValid => Sys2Proof.Machine.execHvInValid s
  | .hvInOutOfRange dv => Sys2Proof.Machine.execHvInOutOfRange dv s
  | .hvInReturn => Sys2Proof.Machine.execHvInReturn s
  | .convAlert ns => Sys2Proof.Machine.execConvAlert ns s
  | .converterFault n => Sys2Proof.Machine.execConverterFault n s
  | .lowestStateExit => Sys2Proof.Machine.execLowestStateExit s
  | .droopStretch island margin => Sys2Proof.Machine.execDroopStretch island margin s
  | .droopRecovery island margin cycles => Sys2Proof.Machine.execDroopRecovery island margin cycles s
  | .currentLimiter d current => Sys2Proof.Machine.execCurrentLimiter d current s
  | .regulatorStep region margin => Sys2Proof.Machine.execRegulatorStep region margin s
  | .marginShort region margin => Sys2Proof.Machine.execMarginShort region margin s
  | .powerLoop r => Sys2Proof.Machine.execPowerLoop r s
  | .estimatorFault measured estimate => Sys2Proof.Machine.execEstimatorFault measured estimate s
  | .budgetLockCycle => Sys2Proof.Machine.execBudgetLockCycle s
  | .freqSwitch => Sys2Proof.Machine.execFreqSwitch s
  | .junctionConversion n reading => Sys2Proof.Machine.execJunctionConversion n reading s
  | .thermtripRelease => Sys2Proof.Machine.execThermtripRelease s
  | .thermtripInput low => Sys2Proof.Machine.execThermtripInput low s
  | .flowPulse widthUs => Sys2Proof.Machine.execFlowPulse widthUs s
  | .flowDecay => Sys2Proof.Machine.execFlowDecay s
  | .flowStop => Sys2Proof.Machine.execFlowStop s
  | .flowStopRelease => Sys2Proof.Machine.execFlowStopRelease s
  | .coolantRead inlet outlet => Sys2Proof.Machine.execCoolantRead inlet outlet s
  | .flowLow => Sys2Proof.Machine.execFlowLow s
  | .inletHigh => Sys2Proof.Machine.execInletHigh s
  | .capBinding => Sys2Proof.Machine.execCapBinding s
  | .errorCountClear f offset v => Sys2Proof.Machine.execErrorCountClear f offset v s
  | .registerWrite f offset bytes v => Sys2Proof.Machine.execRegisterWrite f offset bytes v s
  | .stackCatastrophicTemperature k => Sys2Proof.Machine.execStackCatastrophicTemperature k s
  | .convAlertNRelease => Sys2Proof.Machine.execConvAlertNRelease s
  | .perstNDeasserted => Sys2Proof.Machine.execPerstNDeasserted s
  | .hallRefReturn => Sys2Proof.Machine.execHallRefReturn s
  | .anchorSet => Sys2Proof.Machine.execAnchorSet s
  | .ownerModeFuseWrite mode hash => Sys2Proof.Machine.execOwnerModeFuseWrite mode hash s
  | .dynamicAddressAssignment static addr => Sys2Proof.Machine.execDynamicAddressAssignment static addr s
  | .mctpControlMessage command data => Sys2Proof.Machine.execMctpControlMessage command data s

end Sys2Proof.Machine
end

