-- ==== Sys2Proof/WellFormed.lean ====
section
/-! DEFINITION. Which commands the outside can give: what reaches a unit from the wires, the sensors or a host has the sizes
and ranges that the spec's formats give it. A meaning answers for every command, well-formed or not; the check says which
ones hardware can be given. -/

namespace Sys2Proof

/-- A frame of a port: 40 flit kinds and 40 flits, of 128 bytes on a link and 1,024 on the canal (11 R214, R239). -/
def Frame.wf (p : PortCode) (f : Frame) : Bool :=
  f.map.length == 40 && f.flits.length == 40 && f.flits.all (fun b => b.length == Machine.flitBytes p.toNat)

/-- A message's payload has the length that it states (14 Table 14-9). -/
def Msg.wf (m : Msg) : Bool := m.payload.length == m.len.toNat

/-- A packet's payload has the length that it states, and fits its flits (11 Table 11-8). -/
def Packet.wf (k : Packet) : Bool :=
  k.payload.length == k.len.toNat && decide (16 + k.payload.length ≤ 128 * (k.flits.toNat + 1))

/-- The symbols of an access in error lie in different lanes, and none is unchanged (07 R135). -/
def errorsWf (es : List SymbolError) : Bool :=
  decide (es.map (·.lane)).Nodup && es.all (fun e => e.value != 0)

/-- A 32-byte unit of a stack's 24 GiB (07 R119). -/
def unitWf (u : BitVec 30) : Bool := decide (u.toNat < 0x30000000)

/-- An 8-byte word of an SRAM: of a hive store or a comb die (06 R112). -/
def sramWf (a : BitVec 48) : Bool :=
  decide (a.toNat % 8 = 0) && match Machine.placeOf a.toNat with
    | .slot .. => true
    | .comb .. => true
    | _ => false

/-- The loop reads an estimate for every setting, issue level and admitted fraction (15 R329). -/
def PowerReading.wf (r : PowerReading) : Bool :=
  r.computeAt.length == 15 && r.computeAt.all (fun l => l.length == 16) && r.memoryAt.length == 9

/-- A partial names layers in ascending order, once each (13 R278). -/
def NormPartial.wf (p : NormPartial) : Bool :=
  decide ((p.layers.map (·.1)).Pairwise (· < ·)) && decide ((p.outputs.map (·.1)).Pairwise (· < ·))

/-- A log entry's fields (14 Table 14-13). -/
def LogArgs.wf (a : LogArgs) : Bool := decide (1 ≤ a.severity.toNat ∧ a.severity.toNat ≤ 5) && decide (a.args.length ≤ 5)

/-- A mirror record is a header of 64 bytes and a payload padded to whole 64 bytes (09 R166). -/
def recordWf (bs : List Byte) : Bool := decide (64 ≤ bs.length) && bs.length % 64 == 0

/-- The command can be given to the block. -/
def Instr.wf : Instr → Bool
  | .normPartial _ p => p.wf
  | .recordReceive _ r => recordWf r
  | .rankMove _ m => m.wf
  | .jobAction _ m => m.wf
  | .sramScrub a _ => sramWf a
  | .stackAccess _ u d m => unitWf u && errorsWf m.errs && d.all (fun b => b.length == 32)
  | .patrolScrub _ u m => unitWf u && errorsWf m.errs
  | .frameTransmit p => Machine.portExists p.toNat
  | .frameReceive p f => Machine.portExists p.toNat && (f.frame.all (Frame.wf p) && decide (f.corrected.length ≤ 8))
  | .flitDeliver p _ => Machine.portExists p.toNat
  | .reduceCombine p _ => Machine.portExists p.toNat
  | .resendRequest p _ => Machine.portExists p.toNat
  | .resendRetry p _ => Machine.portExists p.toNat
  | .packetReceive p k => Machine.portExists p.toNat && k.wf
  | .oldTableRetire p => Machine.portExists p.toNat
  | .canalEdgeLost c => (Machine.edgeEnd (0x40 + c.val)).isSome
  | .inSlot _ _ _ o d => decide (0 < d.length ∧ o + d.length ≤ 0x4000)
  | .identify _ m => m.wf
  | .health _ m => m.wf
  | .resetModule _ m => m.wf
  | .setBudget _ m => m.wf
  | .setFreq _ m => m.wf
  | .attest _ m => m.wf
  | .fwActivateMessage _ m => m.wf
  | .logEntry a => a.wf
  | .tracePoint _ as => decide (as.length ≤ 5)
  | .hvInOutOfRange dv => decide (dv < 3600 ∨ 4200 < dv)
  | .powerLoop r => r.wf
  | .registerWrite _ _ n _ => n == 1 || n == 2 || n == 4 || n == 8
  | .tile .. => true
  | .drain .. => true
  | .wop .. => true
  | .signal .. => true
  | .wait .. => true
  | .barrier .. => true
  | .setx .. => true
  | .addx .. => true
  | .blt .. => true
  | .nop .. => true
  | .endStream .. => true
  | .copy .. => true
  | .convert .. => true
  | .transpose .. => true
  | .addWrite .. => true
  | .gather .. => true
  | .scatterAdd .. => true
  | .runComplete .. => true
  | .runSuspended .. => true
  | .waitRelease .. => true
  | .longWait .. => true
  | .signalMessage .. => true
  | .watchMessage .. => true
  | .releaseMessage .. => true
  | .barrierArrivalMessage .. => true
  | .barrierReleaseMessage .. => true
  | .messageAgeCheck .. => true
  | .rebind .. => true
  | .rebindEffect .. => true
  | .xlateWrite .. => true
  | .barCfgWrite .. => true
  | .abandonStep .. => true
  | .abandonRestore .. => true
  | .replay .. => true
  | .sqTail .. => true
  | .cqHead .. => true
  | .heartbeat .. => true
  | .descriptorFetch .. => true
  | .descriptorArrival .. => true
  | .completionWrite .. => true
  | .irqTimeout .. => true
  | .runProgram .. => true
  | .dma .. => true
  | .signalCommand .. => true
  | .waitCommand .. => true
  | .barrierCommand .. => true
  | .updateSweep .. => true
  | .hostStart .. => true
  | .hostStop .. => true
  | .snapshot .. => true
  | .restore .. => true
  | .setTensors .. => true
  | .loadLockTable .. => true
  | .powerHint .. => true
  | .hintPhaseStart .. => true
  | .selfTest .. => true
  | .suspend .. => true
  | .resume .. => true
  | .cancel .. => true
  | .telemetry .. => true
  | .scrub .. => true
  | .logMark .. => true
  | .trace .. => true
  | .fwActivate .. => true
  | .activationStart .. => true
  | .soloRestart .. => true
  | .coreReady .. => true
  | .sweepPass1 .. => true
  | .normTimeout .. => true
  | .sweepDecision .. => true
  | .pass2Block .. => true
  | .blockStamp .. => true
  | .sweepRecovery .. => true
  | .sweepRederive .. => true
  | .commit .. => true
  | .keepalive .. => true
  | .commitRecordApply .. => true
  | .ack .. => true
  | .resend .. => true
  | .undo .. => true
  | .resynchronisation .. => true
  | .hostRecordWrite .. => true
  | .expHostHead .. => true
  | .expCtrlWrite .. => true
  | .partnerLost .. => true
  | .sourceLost .. => true
  | .takeover .. => true
  | .jobActionAtLr .. => true
  | .stepHeld .. => true
  | .hiveRotation .. => true
  | .earlyRotation .. => true
  | .hiveMove .. => true
  | .hiveMoveDone .. => true
  | .hiveFailure .. => true
  | .hiveReplacement .. => true
  | .combLineSpare .. => true
  | .rowRepair .. => true
  | .refresh .. => true
  | .sluiceWindow .. => true
  | .stackTempRead .. => true
  | .throttleStepChange .. => true
  | .channelRetrain .. => true
  | .stackTraining .. => true
  | .sluiceCommit .. => true
  | .sluiceApply .. => true
  | .portDown .. => true
  | .portErrorWarning .. => true
  | .portTraining .. => true
  | .alignmentCheck .. => true
  | .hallRefLoss .. => true
  | .portCtrlWrite .. => true
  | .tableSelectArm .. => true
  | .tableSwitch .. => true
  | .perst .. => true
  | .functionLevelReset .. => true
  | .linkDown .. => true
  | .busMasterDisable .. => true
  | .d3hotEntry .. => true
  | .vfDisable .. => true
  | .completionTimeout .. => true
  | .heartbeatExpiry .. => true
  | .contextParked .. => true
  | .hostAccessFailure .. => true
  | .ringCfgWrite .. => true
  | .attachResume .. => true
  | .attachReplay .. => true
  | .attachCancel .. => true
  | .configRequest .. => true
  | .mailboxAck .. => true
  | .outAck .. => true
  | .pldmUpdateComponent .. => true
  | .getVersion .. => true
  | .getCapabilities .. => true
  | .negotiateAlgorithms .. => true
  | .getDigests .. => true
  | .getCertificate .. => true
  | .challenge .. => true
  | .getMeasurements .. => true
  | .keyExchange .. => true
  | .finish .. => true
  | .endSession .. => true
  | .ideKmRequest .. => true
  | .logHeadWrite .. => true
  | .moduleReset .. => true
  | .bootRom .. => true
  | .railBringUp .. => true
  | .imageLoad .. => true
  | .applyDefaults .. => true
  | .protLock .. => true
  | .auxValid .. => true
  | .auxLoss .. => true
  | .hvInValid .. => true
  | .hvInReturn .. => true
  | .convAlert .. => true
  | .converterFault .. => true
  | .lowestStateExit .. => true
  | .droopStretch .. => true
  | .droopRecovery .. => true
  | .currentLimiter .. => true
  | .regulatorStep .. => true
  | .marginShort .. => true
  | .estimatorFault .. => true
  | .budgetLockCycle .. => true
  | .freqSwitch .. => true
  | .junctionConversion .. => true
  | .thermtripRelease .. => true
  | .thermtripInput .. => true
  | .flowPulse .. => true
  | .flowDecay .. => true
  | .flowStop .. => true
  | .flowStopRelease .. => true
  | .coolantRead .. => true
  | .flowLow .. => true
  | .inletHigh .. => true
  | .capBinding .. => true
  | .errorCountClear .. => true
  | .stackCatastrophicTemperature .. => true
  | .convAlertNRelease .. => true
  | .perstNDeasserted .. => true
  | .hallRefReturn .. => true
  | .anchorSet .. => true
  | .ownerModeFuseWrite .. => true
  | .dynamicAddressAssignment .. => true
  | .mctpControlMessage .. => true

end Sys2Proof
end

