-- ==== Sys2Proof/Safety.lean ====
section
/-! DEFINITION. What claims are stated in: the areas of the state that a frame names, what a register write leaves, the
invariant that every step keeps, and what a safe step is. -/

namespace Sys2Proof.Machine

/-- The areas of the state, as a frame names them. -/
inductive Area where
  /-- Time, the frame number, frame lock and the limited time; the count of free values is the model's own and is in no frame. -/
  | clock
  /-- The set-up registers. -/
  | regs
  /-- Device memory, host memory, uncorrectable units and retired pages. -/
  | dev
  | host
  | bad
  | retired
  | hive
  | stks
  | combs
  | sync
  | ctxs
  /-- The layers' state, live and committed. -/
  | layers
  | fail
  | lnk
  | log
  | mail
  | fw
  | pwr
  | thm
  | io
  /-- What the module has sent. -/
  | out
  /-- Settings written that take effect at the next frame. -/
  | staged
deriving DecidableEq, Repr

/-- An area is the same in two states. -/
def Area.same (s t : State) : Area → Prop
  | .clock => t.clk.now = s.clk.now ∧ t.clk.frame = s.clk.frame ∧ t.clk.lock = s.clk.lock ∧ t.clk.limited = s.clk.limited
  | .regs => t.regs = s.regs
  | .dev => t.mem.dev = s.mem.dev
  | .host => t.mem.host = s.mem.host
  | .bad => t.mem.bad = s.mem.bad
  | .retired => t.mem.retired = s.mem.retired
  | .hive => t.hive = s.hive
  | .stks => t.stks = s.stks
  | .combs => t.combs = s.combs
  | .sync => t.sync = s.sync
  | .ctxs => t.ctxs = s.ctxs
  | .layers => t.layers = s.layers ∧ t.layersC = s.layersC
  | .fail => t.fail = s.fail
  | .lnk => t.lnk = s.lnk
  | .log => t.log = s.log
  | .mail => t.mail = s.mail
  | .fw => t.fw = s.fw
  | .pwr => t.pwr = s.pwr
  | .thm => t.thm = s.thm
  | .io => t.io = s.io
  | .out => t.out = s.out
  | .staged => t.staged = s.staged

/-- Nothing but the named areas differs; the queue is as it was. -/
def Kept (ps : List Area) (s t : State) : Prop :=
  t.pending = s.pending ∧ ∀ p, p ∉ ps → p.same s t

/-- What writing a log entry may change: the log and its registers, the host log ring, and what was sent (14 R310-R313). -/
def logAreas : List Area := [.regs, .host, .log, .out]

/-- The registers that writing a log entry may change. -/
def logRegs : List Nat := [Off.fwlLogStat, Off.fwlLogPos]

/-- No register but the named ones differs. -/
def RegsKept (offs : List Nat) (s t : State) : Prop := ∀ o, o ∉ offs → t.reg o = s.reg o

/-- No context but one differs. -/
def CtxsKept (x : Nat) (s t : State) : Prop := ∀ y, y ≠ x → t.ctx y = s.ctx y

/-- No hive but one differs. -/
def HivesKept (h : Nat) (s t : State) : Prop := ∀ g, g ≠ h → t.hiveSt g = s.hiveSt g

/-- The symbols that the code corrected in each lane are counted, and LNK.ERR_STAT shows their sum in thousands (11 R214). -/
def SymbolsCounted (s t : State) (p : Nat) (cs : List Nat) : Prop :=
  (∀ l, l < 8 → sget 0 (t.port p).corr l = sget 0 (s.port p).corr l + cs.getD l 0) ∧
  t.field (Off.lnkErrStat p) 15 0 = min (((t.port p).corr.map (·.2)).sum / 1000) 65535

/-- The canonical form of the register map: offsets rise, and none is listed at its reset value. -/
def regsWf (m : SMap Word) : Bool :=
  srising none m && m.all (fun e => decide (e.2 ≠ BitVec.ofNat 64 (regReset e.1)))

/-- Both memories and the register map are in canonical form, so equal contents are equal data. -/
def State.Inv (s : State) : Prop := s.mem.dev.wf = true ∧ s.mem.host.wf = true ∧ regsWf s.regs = true

/-- Fuses hold: a revoked key stays revoked and key 3 is not revoked, no minimum security version falls, the owner's policy, once
written, stays, and what was written at manufacture stays (17 R351, Table 17-1). -/
def FusesHold (a b : Fuses) : Prop :=
  (∀ i, a.revoke.getLsbD i = true → b.revoke.getLsbD i = true) ∧
  b.revoke.getLsbD 3 = a.revoke.getLsbD 3 ∧
  (∀ i, i < 5 → a.svnMin.getD i 0 ≤ b.svnMin.getD i 0) ∧
  (a.ownerMode ≠ 0 ∨ a.ownerHash ≠ 0 → b.ownerMode = a.ownerMode ∧ b.ownerHash = a.ownerHash) ∧
  b.rootHash = a.rootHash ∧ b.serial = a.serial ∧ b.deviceKeys = a.deviceKeys

/-- The values of the lowest state: 0.70 GHz, 2/16 issue in the module and on every compute die, 8/16 of each stack
(15 Table 15-4). -/
def State.AtLowest (s : State) : Prop :=
  s.lowest = true ∧ s.clock = 14 ∧ s.issue = 2 ∧ s.memFrac = 8 ∧ ∀ d, d < 64 → s.field (Off.pwrDieStat d) 4 0 = 2

/-- The registers that entering or showing the lowest state may write. -/
def emergencyRegs : List Nat :=
  [Off.pwrLimitStat, Off.pwrMode, Off.fwlFwStat, Off.hifModuleStat] ++ (List.range 64).map Off.pwrDieStat

/-! ### What statements say of hives and rings -/

/-- The command of an instruction row on a hive. -/
def HiveRow.command (h : Hive) : HiveRow → Instr
  | .tile => .tile h
  | .drain => .drain h
  | .wop => .wop h
  | .signal => .signal h
  | .wait => .wait h
  | .barrier => .barrier h
  | .setx => .setx h
  | .addx => .addx h
  | .blt => .blt h
  | .nop => .nop h
  | .endStream => .endStream h
  | .copy => .copy h
  | .convert => .convert h
  | .transpose => .transpose h
  | .addWrite => .addWrite h
  | .gather => .gather h
  | .scatterAdd => .scatterAdd h

/-- The slot index after an instruction at `pos` whose first word is `w`. -/
def slotAfter (pos w : Nat) : Nat := pos + if twoSlots (bits w 7 0) then 2 else 1

/-- The state once the slots of hive `h`'s next instruction are read, and charged to the stack that holds them (07 R121). -/
def State.fetched (s : State) (h x : Nat) : State := s.chargeAll (s.fetchReads x (s.hiveSt h))

/-- The control core of hive `h`, in a run of context `x`, fetches; its next instruction is of row `row`, decodes to `i` and
passes its checks at fetch (04 R65, R67). -/
def State.NextInsn (s : State) (h x : Nat) (row : HiveRow) (i : Insn) : Prop :=
  let v := s.hiveSt h
  let w := s.slotWord x v v.pos
  v.run.map Prod.fst = some x ∧ s.fetching h = true ∧ s.badAmong (s.fetchReads x v) = none ∧ slotAfter v.pos w ≤ v.len ∧ rowOf w = some row ∧
    decodeInsn w (if twoSlots (bits w 7 0) then s.slotWord x v (v.pos + 1) else 0) v.xs v.mode = some i ∧
    (s.fetched h x).fetchCheck x h v i = stOk

/-- The control core of hive `h`, in a run of context `x`, fetches, and cannot take its next instruction, of row `row`: the stream is
at its length or ends within the instruction, or the encoding is reserved (04 R65, R67). -/
def State.FetchFails (s : State) (h x : Nat) (row : HiveRow) : Prop :=
  let v := s.hiveSt h
  let w := s.slotWord x v v.pos
  v.run.map Prod.fst = some x ∧ s.fetching h = true ∧
    (v.len ≤ v.pos ∨ (v.pos < v.len ∧ s.badAmong (s.fetchReads x v) = none ∧
      (rowOf w = none ∨ (rowOf w = some row ∧ (v.len < slotAfter v.pos w ∨ (slotAfter v.pos w ≤ v.len ∧
        decodeInsn w (if twoSlots (bits w 7 0) then s.slotWord x v (v.pos + 1) else 0) v.xs v.mode = none))))))

/-- The control core of hive `h`, in a run of context `x`, reads its next instruction, of row `row`, which fails with a status: a
check at fetch fails, or its account does, with room in its queue (04 R65, R67; 05 R86). -/
def State.CheckFails (s : State) (h x : Nat) (row : HiveRow) (i : Insn) (st : Nat) : Prop :=
  let v := s.hiveSt h
  let w := s.slotWord x v v.pos
  v.run.map Prod.fst = some x ∧ s.fetching h = true ∧ s.badAmong (s.fetchReads x v) = none ∧ slotAfter v.pos w ≤ v.len ∧
    rowOf w = some row ∧
    decodeInsn w (if twoSlots (bits w 7 0) then s.slotWord x v (v.pos + 1) else 0) v.xs v.mode = some i ∧
    i.queue.all (fun q => decide ((v.queue q).length < 64)) = true ∧
    (((s.fetched h x).fetchCheck x h v i = st ∧ st ≠ stOk) ∨
      ((s.fetched h x).fetchCheck x h v i = stOk ∧ (s.fetched h x).acctInsn x h v i = .error st))

/-- The slot index after the hive's next instruction. -/
def State.nextPos (s : State) (h x : Nat) : Nat := slotAfter (s.hiveSt h).pos (s.slotWord x (s.hiveSt h) (s.hiveSt h).pos)

/-- The hive's next instruction has room in its queue `q` as entry `op`, and its account gives `v` (04 R67; 05 R86). -/
def State.Queues (s : State) (h x : Nat) (row : HiveRow) (i : Insn) (q : Nat) (op : Op) (v : HiveState) : Prop :=
  s.NextInsn h x row i ∧ i.queue = some q ∧ i.op = some op ∧ ((s.hiveSt h).queue q).length < 64 ∧
    (s.fetched h x).acctInsn x h (s.hiveSt h) i = .ok v

/-- The state with the instruction fetched and that entry at the tail of its queue. -/
def State.placed (s : State) (h x q : Nat) (op : Op) (v : HiveState) : State :=
  (s.fetched h x).setHive h (HiveState.setQueue { v with pos := s.nextPos h x } q (v.queue q ++ [{ pos := v.pos, op := op }]))

/-- Queue `q` of hive `h` is empty in a state. -/
def State.emptied (s : State) (h q : Nat) : State := s.setHive h ((s.hiveSt h).setQueue q [])

/-- The command `d` of a context's ring is fetched, its own index's, not yet completed, and no SUSPEND waits for it. -/
def State.Live (s : State) (x : Nat) (d : Cmd) : Prop :=
  (s.ctx x).cmd d.idx = some d ∧ d.live = true ∧ (s.ctx x).suspends d.idx = []

/-- A context that loses its host for a cause: an attached one stops reading its ring and drains; one that lost it before keeps its
state and takes the newer cause (12 R261, R262). -/
def lostCtx (k : Nat) (c : CtxSt) : CtxSt :=
  if c.state = 0 then c
  else { c with cause := BitVec.ofNat 4 k, read := none, state := if c.state = 1 ∨ c.state = 5 ∨ c.state = 6 then 2 else c.state }

/-- Every context of a function loses its host for a cause, and no other context differs. -/
def FuncLost (k f : Nat) (s t : State) : Prop :=
  ∀ x, t.ctx x = if x ∈ s.ctxsOf f then lostCtx k (s.ctx x) else s.ctx x

/-- A function's configuration stands at reset: its status register, its MSI-X table and pending bits, its settings, its IDE streams,
its DOE mailbox, and the host registers of its contexts (12 R265). -/
def State.FunctionAtReset (t : State) (f : Nat) : Prop :=
  t.reg (Off.hifFuncStat f) = 0 ∧ sget ({} : FuncCfg) t.io.cfg f = {} ∧
    (∀ v, v < 260 → sget 1#32 t.io.msix (260 * f + v) = 1#32) ∧ (∀ v, v < 65 → sget false t.io.msixPending (65 * f + v) = false) ∧
    (∀ i, i < 4 → sget none t.io.streams (4 * f + i) = none) ∧ sget ({} : Spdm) t.io.spdm (1 + f) = {} ∧
    (∀ x, x ∈ t.ctxsOf f → ∀ o, o ∈ ctxHostRegs x → t.reg o = BitVec.ofNat 64 (regReset o))

/-- A command is answered: its entry waits behind those that were waiting, and no other is added (12 R251, 13 R271). -/
def Answers (s t : State) (x : Nat) (d : Cmd) (status result : Nat) : Prop :=
  (t.ctx x).entries = (s.ctx x).entries ++ [(s.ctx x).entryOf d status result]

/-- A message of a type reaches the core that acts on it: a host's stands in its mailbox, undecided, and another's finds the owning
core's empty (14 R301, R302). -/
def State.Arrives (s : State) (type : Nat) (src : MsgSrc) (m : Msg) : Prop :=
  m.type.toNat = type ∧ s.towpathUp = true ∧ s.recovery = false ∧ s.ownerCoreRuns m = true ∧
    match src with
    | .host _ => (s.box (m.boxOf src)).full = true ∧ (s.box (m.boxOf src)).msg = some m ∧ (s.box (m.boxOf src)).result = none
    | _ => (s.box (m.boxOf src)).full = false

/-- One that arrives and is no reply. -/
def State.Fresh (s : State) (type : Nat) (src : MsgSrc) (m : Msg) : Prop := m.reply = false ∧ s.Arrives type src m

/-- The core has decided on a message, which stands in its mailbox until it is acknowledged (14 R301). -/
def Decided (t : State) (src : MsgSrc) (m : Msg) (code : BitVec 16) (reply : List Byte) : Prop :=
  (t.box (m.boxOf src)).result = some (code, reply) ∧ (t.box (m.boxOf src)).full = true ∧
    (t.box (m.boxOf src)).msg = some m

/-- A safe step: it answers a next state, and that state keeps the invariant. -/
def SafeStep (s : State) (o : Out) : Prop := ∃ t, o = .next t ∧ (s.Inv → t.Inv)

end Sys2Proof.Machine
end

