-- ==== Sys2Proof/Certificates/Slice0/Obligations.lean ====
section
/-! DEFINITION. The statements for the provers: what the module's commands do, by the spec's rules. -/

open Sys2Proof Sys2Proof.Machine

/-- CONV_ALERT_N low for at least 20 ns, and a converter over its limit, put the module in the lowest state (15 R326); a line
that is low already, a shorter pulse and a converter that is off change nothing of it, and with THERMTRIP_N low nothing more follows
(19 R385).

The alert line's release clears the alert, logs it with its length and starts the hold when nothing else forces the lowest
state; after the hold the lowest state ends, the clock to follow at the next lock-cycle boundary (15 R326, R327). -/
def Obligations.AlertLine : Prop :=
  (∀ (ns : Nat) (s : State), 20 ≤ ns → s.pwr.alert = none → s.tripped = false → s.lowest = false →
    ∃ t, exec (.convAlert ns) s = .next t ∧ t.pwr = { s.pwr with alert := some (s.clk.now - ns * 1000) } ∧
      t.flag Off.pwrLimitStat 28 = true ∧ t.AtLowest ∧ t.flag Off.fwlFwStat 61 = true ∧
      Kept [.regs, .pwr] s t ∧ RegsKept emergencyRegs s t) ∧
  (∀ (ns : Nat) (s : State), 20 ≤ ns → s.pwr.alert = none → s.tripped = false → s.lowest = true →
    ∃ t, exec (.convAlert ns) s = .next t ∧ t.pwr = { s.pwr with alert := some (s.clk.now - ns * 1000) } ∧
      t.lowest = true ∧ Kept [.regs, .pwr] s t ∧
      RegsKept [Off.pwrLimitStat, Off.fwlFwStat, Off.hifModuleStat] s t) ∧
  (∀ (ns : Nat) (s : State), 20 ≤ ns → s.pwr.alert = none → s.tripped = true →
    ∃ t, exec (.convAlert ns) s = .next t ∧ t.pwr = { s.pwr with alert := some (s.clk.now - ns * 1000) } ∧ Kept [.pwr] s t) ∧
  (∀ (i : Fin 4) (s : State), s.pwr.rails = true → s.pwr.alert = none → s.tripped = false → s.lowest = false →
    ∃ t, exec (.converterFault i) s = .next t ∧ sget false t.pwr.faults i.val = true ∧
      t.pwr.alert = some s.clk.now ∧ t.AtLowest ∧
      t.out = (if s.pwr.faults.isEmpty then .pin "CONV_ALERT_N" false :: s.out else s.out) ∧
      Kept [.regs, .pwr, .out] s t ∧ RegsKept emergencyRegs s t) ∧
  (∀ (i : Fin 4) (s : State), s.pwr.rails = true → s.pwr.alert.isSome = true →
    ∃ t, exec (.converterFault i) s = .next t ∧ sget false t.pwr.faults i.val = true ∧ t.pwr.alert = s.pwr.alert ∧
      t.regs = s.regs ∧ Kept [.pwr, .out] s t) ∧
  (∀ (ns : Nat) (s : State), ns < 20 ∨ s.pwr.alert.isSome = true → exec (.convAlert ns) s = .next s) ∧
  (∀ (i : Fin 4) (s : State), s.pwr.rails = false → exec (.converterFault i) s = .next s) ∧
  (∀ (t0 : Nat) (s : State), s.pwr.alert = some t0 → s.tripped = false →
    ∃ t, exec .convAlertNRelease s = .next t ∧ t.pwr.alert = none ∧ t.pwr.faults = [] ∧
      ((s.hot || s.flowStopped || s.halted) = false → t.pwr.released = s.clk.now) ∧
      t.log.seq = s.log.seq + 1 ∧ Kept ([.pwr, .fw] ++ logAreas) s t ∧ RegsKept (emergencyRegs ++ logRegs) s t) ∧
  (∀ (t0 : Nat) (s : State), s.pwr.alert = some t0 → s.tripped = true →
    ∃ t, exec .convAlertNRelease s = .next t ∧ t.pwr.alert = none ∧ t.pwr.faults = [] ∧ t.log = s.log ∧ Kept [.pwr, .out] s t) ∧
  (∀ s : State, s.pwr.alert = none → exec .convAlertNRelease s = .next s) ∧
  (∀ s : State, s.lowest = true → s.forced = false → s.freqDue = false →
    s.pwr.released + max 1 (s.field Off.pwrAlertCfg 15 0) * 1000000000 ≤ s.clk.now →
    ∃ t, exec .lowestStateExit s = .next t ∧ t.lowest = false ∧ t.pwr.climbing = true ∧
      t.pwr.nextClock = some (s.setting, s.lcNow + 1) ∧ Kept [.regs, .pwr, .fw] s t ∧
      RegsKept [Off.pwrLimitStat, Off.fwlFwStat, Off.hifModuleStat] s t) ∧
  (∀ s : State, s.lowest = false ∨ s.forced = true ∨
      s.clk.now < s.pwr.released + max 1 (s.field Off.pwrAlertCfg 15 0) * 1000000000 →
    exec .lowestStateExit s = .next s)

/-- A margin below TRIP_PS stretches an island that may stretch, and counts for its die; 64 cycles at TRIP_PS + 8 or above end
the stretch (15 R324).

A regulator moves by 2.5 mV toward its target margin, up ahead of a rise of the engine clock, and never leaves the range of its class; a region at its top and short
of margin for 1 ms is logged (15 R322, R323, R335, R337). -/
def Obligations.DroopAndRegulators : Prop :=
  (∀ (i : Fin 472) (m : Int) (s : State), s.pwr.rails = true → m < (s.field Off.pwrDroopCfg 7 0 : Int) → i.val < 436 →
    sget false s.pwr.stretched i.val = false →
    ∃ t, exec (.droopStretch i m) s = .next t ∧ sget false t.pwr.stretched i.val = true ∧
      (∀ j, j ≠ i.val → sget false t.pwr.stretched j = sget false s.pwr.stretched j) ∧
      (∀ d, dieOfIsland i.val = some d →
        t.field (Off.pwrDieStat d) 63 48 = min (s.field (Off.pwrDieStat d) 63 48 + 1) 65535 ∧
        RegsKept [Off.pwrDieStat d] s t) ∧
      (dieOfIsland i.val = none → t.regs = s.regs) ∧ Kept [.regs, .pwr] s t) ∧
  (∀ (i : Fin 472) (m : Int) (s : State),
    s.pwr.rails = true → (s.field Off.pwrDroopCfg 7 0 : Int) ≤ m ∨ 436 ≤ i.val ∨ sget false s.pwr.stretched i.val = true →
    ∃ t, exec (.droopStretch i m) s = .next t ∧ t.pwr.stretched = s.pwr.stretched ∧ Kept [.pwr] s t) ∧
  (∀ (i : Fin 472) (m : Int) (n : Nat) (s : State), (s.field Off.pwrDroopCfg 7 0 : Int) + 8 ≤ m → 64 ≤ n →
    ∃ t, exec (.droopRecovery i m n) s = .next t ∧ sget false t.pwr.stretched i.val = false ∧
      (∀ j, j ≠ i.val → sget false t.pwr.stretched j = sget false s.pwr.stretched j) ∧ Kept [.pwr] s t) ∧
  (∀ (i : Fin 472) (m : Int) (n : Nat) (s : State), m < (s.field Off.pwrDroopCfg 7 0 : Int) + 8 ∨ n < 64 →
    exec (.droopRecovery i m n) s = .next s) ∧
  (∀ (r : Fin 1812) (m : Int) (s : State), s.pwr.rails = true →
    ∃ t, exec (.regulatorStep r m) s = .next t ∧
      t.volt r.val = (if m < (s.targetOf r.val : Int) - 4 ∨ s.leadsClock r.val = true then min (voltRange r.val).2.2 (s.volt r.val + 25)
        else if (s.targetOf r.val : Int) + 4 < m then max (voltRange r.val).1 (s.volt r.val - 25) else s.volt r.val) ∧
      (∀ q, q ≠ r.val → t.volt q = s.volt q) ∧ Kept [.regs, .pwr] s t ∧
      RegsKept ((List.range 64).map Off.pwrDieStat) s t) ∧
  (∀ (r : Fin 1812) (m : Int) (s : State), s.pwr.rails = true →
    (voltRange r.val).1 ≤ s.volt r.val → s.volt r.val ≤ (voltRange r.val).2.2 →
    ∃ t, exec (.regulatorStep r m) s = .next t ∧ (voltRange r.val).1 ≤ t.volt r.val ∧
      t.volt r.val ≤ (voltRange r.val).2.2) ∧
  (∀ (r : Fin 1812) (m : Int) (u : Nat) (s : State), s.pwr.rails = true → sget none s.pwr.topSince r.val = some u →
    u + 1000000000 ≤ s.clk.now → m < (s.field Off.pwrDroopCfg 23 16 : Int) - 4 → sget none s.pwr.shortLogged r.val = none →
    ∃ t, exec (.marginShort r m) s = .next t ∧ sget none t.pwr.shortLogged r.val = some s.clk.now ∧
      t.log.seq = s.log.seq + 1 ∧ Kept ([.pwr] ++ logAreas) s t ∧ RegsKept logRegs s t) ∧
  (∀ (r : Fin 1812) (m : Int) (s : State), s.pwr.rails = false →
    exec (.regulatorStep r m) s = .next s ∧ exec (.marginShort r m) s = .next s)

/-- A die above its ceiling lowers its issue by a sixteenth, never below one; after 1 µs below 95% of it a die below the module's
level raises its issue by a sixteenth. With no ceiling, in the lowest state or with the rails down nothing changes (15 R325).

A difference of estimate and measurement of more than a second sets EST_FAULT, and ten seconds of agreement clear it, each
with a log entry (15 R332). -/
def Obligations.CurrentLimiterAndEstimator : Prop :=
  (∀ (d : Die) (i c : Nat) (s : State), s.pwr.rails = true → s.lowest = false → s.pwr.ceiling = some c → c < i →
    sget false s.hive.spareHeld d.val = false →
    ∃ t, exec (.currentLimiter d i) s = .next t ∧
      t.field (Off.pwrDieStat d.val) 4 0 = max 1 (s.field (Off.pwrDieStat d.val) 4 0 - 1) ∧
      Kept [.regs, .pwr] s t ∧ RegsKept [Off.pwrDieStat d.val] s t) ∧
  (∀ (d : Die) (i c : Nat) (s : State), s.pwr.rails = true → s.lowest = false → s.pwr.ceiling = some c → c < i →
    sget false s.hive.spareHeld d.val = true → sget false s.pwr.testHeld d.val = false →
    ∃ t, exec (.currentLimiter d i) s = .next t ∧ sget false t.pwr.testHeld d.val = true ∧ Kept [.pwr] s t) ∧
  (∀ (d : Die) (i c u : Nat) (s : State), s.pwr.rails = true → s.lowest = false → s.pwr.ceiling = some c →
    100 * i < 95 * c → sget none s.pwr.belowSince d.val = some u → u + 1000000 ≤ s.clk.now →
    s.field (Off.pwrDieStat d.val) 4 0 < s.issue → s.field (Off.pwrDieStat d.val) 4 0 < 31 →
    ∃ t, exec (.currentLimiter d i) s = .next t ∧
      t.field (Off.pwrDieStat d.val) 4 0 = s.field (Off.pwrDieStat d.val) 4 0 + 1 ∧
      Kept [.regs, .pwr] s t ∧ RegsKept [Off.pwrDieStat d.val] s t) ∧
  (∀ (d : Die) (i : Nat) (s : State), s.pwr.rails = false ∨ s.lowest = true ∨ s.pwr.ceiling = none →
    exec (.currentLimiter d i) s = .next s) ∧
  (∀ (m e u : Nat) (s : State), s.pwr.rails = true → s.flag Off.pwrLimitStat 30 = false → agrees m e = false →
    s.pwr.differSince = some u → u + 1000000000000 < s.clk.now →
    ∃ t, exec (.estimatorFault m e) s = .next t ∧ t.flag Off.pwrLimitStat 30 = true ∧ t.pwr.differSince = some u ∧
      t.log.seq = s.log.seq + 1 ∧ Kept ([.pwr] ++ logAreas) s t ∧ RegsKept (Off.pwrLimitStat :: logRegs) s t) ∧
  (∀ (m e u : Nat) (s : State), s.pwr.rails = true → s.flag Off.pwrLimitStat 30 = true → agrees m e = true →
    s.pwr.agreeSince = some u → u + 10000000000000 ≤ s.clk.now →
    ∃ t, exec (.estimatorFault m e) s = .next t ∧ t.flag Off.pwrLimitStat 30 = false ∧ t.pwr.differSince = none ∧
      t.log.seq = s.log.seq + 1 ∧ Kept ([.pwr] ++ logAreas) s t ∧ RegsKept (Off.pwrLimitStat :: logRegs) s t) ∧
  (∀ (m e : Nat) (s : State), s.pwr.rails = true → s.flag Off.pwrLimitStat 30 = false → agrees m e = true →
    ∃ t, exec (.estimatorFault m e) s = .next t ∧ t.pwr.differSince = none ∧ Kept [.pwr] s t) ∧
  (∀ (m e : Nat) (s : State), s.pwr.rails = false → exec (.estimatorFault m e) s = .next s)

/-- One loop iteration forms the thermal cap and, outside the lowest state, sets N, the memory fraction and the clock that the
cap rule gives for the power basis; in the lowest state those stand (15 R329-R331; 16 R346). -/
def Obligations.PowerLoopAppliesTheCap : Prop :=
  (∀ (r : PowerReading) (s : State), s.pwr.rails = true → s.fw.restarting.contains .power = false → s.lowest = false →
    s.estFault = false → s.pwr.climbing = false → s.thm.stopReq = none →
    ∃ t, exec (.powerLoop r) s = .next t ∧
      t.issue = ((⟨r, 1, 1, min s.budget t.thermalCap⟩ : Basis).cap s.opportunistic s.setting).n % 32 ∧
      t.memFrac = ((⟨r, 1, 1, min s.budget t.thermalCap⟩ : Basis).cap s.opportunistic s.setting).k % 32 ∧
      t.thermalCap = min s.capFlow (min s.capInlet s.capJunction) % 65536 ∧ t.thm.cj = s.capJunction ∧
      t.clock = s.clock ∧ t.pwr.climbing = false ∧ Kept ([.pwr, .thm] ++ logAreas) s t) ∧
  (∀ (r : PowerReading) (s : State), s.pwr.rails = true → s.fw.restarting.contains .power = false → s.lowest = true →
    ∃ t, exec (.powerLoop r) s = .next t ∧ t.issue = s.issue ∧ t.memFrac = s.memFrac ∧ t.clock = s.clock ∧
      t.thm.cj = s.capJunction ∧ Kept ([.pwr, .thm] ++ logAreas) s t) ∧
  (∀ (r : PowerReading) (s : State), s.pwr.rails = false ∨ s.fw.restarting.contains .power = true →
    exec (.powerLoop r) s = .next s)

/-- At a lock cycle the budget in force is B(L): that of the ramp, or the budget as it stands; an armed budget whose lock cycle
has come starts its ramp from B(AT). At its lock cycle an armed setting comes into force, but for the lowest state, in which it
waits (15 R337, R338). -/
def Obligations.ChangesAtAgreedLockCycles : Prop :=
  (∀ s : State, s.pwr.armed = none →
    ∃ t, exec .budgetLockCycle s = .next t ∧ t.budget = s.budgetAt s.lcNow % 65536 ∧
      t.pwr.ramp = s.pwr.ramp.filter (fun r => r.value s.lcNow != r.t) ∧
      Kept [.regs, .pwr] s t ∧ RegsKept [Off.pwrBudget, Off.pwrMode] s t) ∧
  (∀ (b rate : Nat) (s : State), s.pwr.armed = some (b, rate) → s.flag Off.pwrBudgetAt 63 = true →
    s.field Off.pwrBudgetAt 45 0 ≤ s.lcNow →
    ∃ t, exec .budgetLockCycle s = .next t ∧ t.pwr.armed = none ∧ t.flag Off.pwrBudgetAt 63 = false ∧
      t.pwr.ramp = (some ⟨s.budgetAt (s.field Off.pwrBudgetAt 45 0), b, rate, s.field Off.pwrBudgetAt 45 0⟩).filter
        (fun r => r.value s.lcNow != r.t) ∧
      t.budget = Ramp.value ⟨s.budgetAt (s.field Off.pwrBudgetAt 45 0), b, rate, s.field Off.pwrBudgetAt 45 0⟩ s.lcNow % 65536 ∧
      Kept [.regs, .pwr] s t ∧ RegsKept [Off.pwrBudget, Off.pwrBudgetAt, Off.pwrMode] s t) ∧
  (∀ s : State, s.freqDue = true → s.lowest = false →
    ∃ t, exec .freqSwitch s = .next t ∧ t.setting = s.field Off.pwrFreqAt 61 56 ∧ t.clock = s.field Off.pwrFreqAt 61 56 ∧
      t.opportunistic = s.flag Off.pwrFreqAt 62 ∧ t.flag Off.pwrFreqAt 63 = false ∧ t.pwr.nextClock = none ∧
      Kept [.regs, .pwr] s t ∧ RegsKept [Off.pwrMode, Off.pwrFreqAt] s t) ∧
  (∀ s : State, s.freqDue = false ∨ s.lowest = true → exec .freqSwitch s = .next s)

/-- A coolant pulse of at least 20 µs makes F the mean over at most the last eight intervals; without pulses F falls with the
time since the last, and is zero after STOP_MS and while none has come, which FLOW_LOW counts as low (16 R342, R348).

The inlet and outlet readings stand in THM.COOLANT; the first failure of either sensor is logged to the fleet manager, and a
failed sensor keeps its last field (16 R341, R343).

FLOW_LOW, INLET_HIGH and CAP_BINDING are set after a second of their condition and cleared after ten seconds of its end, each
with a log entry; else they stand (16 R348). -/
def Obligations.CoolantMonitors : Prop :=
  (∀ (w p : Nat) (ps : List Nat) (s : State), 20 ≤ w → s.pwr.aux = true → s.thm.pulses = p :: ps → ps.length < 8 →
    (p :: ps).getLastD 0 < s.clk.now →
    ∃ t, exec (.flowPulse w) s = .next t ∧ t.thm.lastPulse = some s.clk.now ∧ t.thm.pulses = s.clk.now :: p :: ps ∧
      t.thm.flow = (60000000000000 * (ps.length + 1), s.flowK * (s.clk.now - (p :: ps).getLastD 0)) ∧
      t.field Off.thmCoolant 63 48 = min t.flowCenti 65535 ∧ Kept [.regs, .thm] s t ∧ RegsKept [Off.thmCoolant] s t) ∧
  (∀ (w : Nat) (s : State), 20 ≤ w → s.pwr.aux = true → s.thm.pulses = [] →
    ∃ t, exec (.flowPulse w) s = .next t ∧ t.thm.pulses = [s.clk.now] ∧ t.thm.flow = s.thm.flow ∧ Kept [.thm] s t) ∧
  (∀ (w : Nat) (s : State), w < 20 ∨ s.pwr.aux = false → exec (.flowPulse w) s = .next s) ∧
  (∀ (p : Nat) (s : State), s.thm.lastPulse = some p → s.stopPs ≤ s.clk.now - p →
    ∃ t, exec .flowDecay s = .next t ∧ t.thm.flow = (0, 1) ∧ t.thm.pulses = [] ∧ t.field Off.thmCoolant 63 48 = 0 ∧
      Kept [.regs, .thm] s t ∧ RegsKept [Off.thmCoolant] s t) ∧
  (∀ (p : Nat) (s : State), s.thm.lastPulse = some p → p < s.clk.now → s.clk.now - p < s.stopPs →
    60000000000000 * s.thm.flow.2 < s.thm.flow.1 * (s.flowK * (s.clk.now - p)) →
    ∃ t, exec .flowDecay s = .next t ∧ t.thm.flow = (60000000000000, s.flowK * (s.clk.now - p)) ∧
      t.thm.pulses = s.thm.pulses ∧ Kept [.regs, .thm] s t ∧ RegsKept [Off.thmCoolant] s t) ∧
  (∀ s : State, s.thm.lastPulse = none → s.pwr.aux = true →
    ∃ t, exec .flowDecay s = .next t ∧ t.thm.flow = (0, 1) ∧ t.thm.flowLow = some (s.thm.flowLow.getD s.clk.now) ∧
      t.field Off.thmCoolant 63 48 = 0 ∧ Kept [.regs, .thm] s t ∧ RegsKept [Off.thmCoolant] s t) ∧
  (∀ s : State, s.thm.lastPulse = none → s.pwr.aux = false → exec .flowDecay s = .next s) ∧
  (∀ (i o : Int) (s : State), s.pwr.aux = true →
    ∃ t, exec (.coolantRead (some i) (some o)) s = .next t ∧ t.thm.inlet = some i ∧ t.thm.outlet = some o ∧
      t.thm.inletLost = false ∧ t.thm.outletLost = false ∧ t.field Off.thmCoolant 31 16 = (i % 65536).toNat ∧
      t.field Off.thmCoolant 47 32 = (o % 65536).toNat ∧
      (450 < i → s.thm.inletHigh = none → t.thm.inletHigh = some s.clk.now) ∧ (i ≤ 450 → t.thm.inletHigh = none) ∧
      Kept [.regs, .thm] s t ∧ RegsKept [Off.thmCoolant] s t) ∧
  (∀ (o : Int) (s : State), s.pwr.aux = true →
    ∃ t, exec (.coolantRead none (some o)) s = .next t ∧ t.thm.inlet = none ∧ t.thm.outlet = some o ∧
      t.thm.inletLost = true ∧ t.thm.outletLost = false ∧ t.field Off.thmCoolant 31 16 = s.field Off.thmCoolant 31 16 ∧
      (s.thm.inletLost = false → t.log.seq = s.log.seq + 1) ∧ (s.thm.inletLost = true → t.log = s.log) ∧
      Kept (.thm :: logAreas) s t ∧ RegsKept (Off.thmCoolant :: logRegs) s t) ∧
  (∀ (i : Int) (s : State), s.pwr.aux = true →
    ∃ t, exec (.coolantRead (some i) none) s = .next t ∧ t.thm.inlet = some i ∧ t.thm.outlet = none ∧
      t.thm.inletLost = false ∧ t.thm.outletLost = true ∧ t.field Off.thmCoolant 47 32 = s.field Off.thmCoolant 47 32 ∧
      (s.thm.outletLost = false → t.log.seq = s.log.seq + 1) ∧ (s.thm.outletLost = true → t.log = s.log) ∧
      Kept (.thm :: logAreas) s t ∧ RegsKept (Off.thmCoolant :: logRegs) s t) ∧
  (∀ (i o : Option Int) (s : State), s.pwr.aux = false → exec (.coolantRead i o) s = .next s) ∧
  (∀ (s : State),
    (∀ (u : Nat), s.thm.flowLow = some u → u + 1000000000000 ≤ s.clk.now → s.flag Off.thmStat 3 = false →
      ∃ t, exec .flowLow s = .next t ∧ t.flag Off.thmStat 3 = true ∧ t.log.seq = s.log.seq + 1 ∧
        Kept logAreas s t ∧ RegsKept (Off.thmStat :: logRegs) s t) ∧
    (∀ (u : Nat), s.thm.flowOk = some u → u + 10000000000000 ≤ s.clk.now → s.flag Off.thmStat 3 = true →
      ∃ t, exec .flowLow s = .next t ∧ t.flag Off.thmStat 3 = false ∧ t.log.seq = s.log.seq + 1 ∧
        Kept logAreas s t ∧ RegsKept (Off.thmStat :: logRegs) s t) ∧
    (∀ (u : Nat), s.thm.inletHigh = some u → u + 1000000000000 ≤ s.clk.now → s.flag Off.thmStat 4 = false →
      ∃ t, exec .inletHigh s = .next t ∧ t.flag Off.thmStat 4 = true ∧ t.log.seq = s.log.seq + 1 ∧
        Kept logAreas s t ∧ RegsKept (Off.thmStat :: logRegs) s t) ∧
    (∀ (u : Nat), s.thm.inletOk = some u → u + 10000000000000 ≤ s.clk.now → s.flag Off.thmStat 4 = true →
      ∃ t, exec .inletHigh s = .next t ∧ t.flag Off.thmStat 4 = false ∧ t.log.seq = s.log.seq + 1 ∧
        Kept logAreas s t ∧ RegsKept (Off.thmStat :: logRegs) s t) ∧
    (∀ (u : Nat), s.thm.binding = some u → u + 1000000000000 ≤ s.clk.now → s.flag Off.thmStat 5 = false →
      ∃ t, exec .capBinding s = .next t ∧ t.flag Off.thmStat 5 = true ∧ t.log.seq = s.log.seq + 1 ∧
        Kept logAreas s t ∧ RegsKept (Off.thmStat :: logRegs) s t) ∧
    (∀ (u : Nat), s.thm.unbound = some u → u + 10000000000000 ≤ s.clk.now → s.flag Off.thmStat 5 = true →
      ∃ t, exec .capBinding s = .next t ∧ t.flag Off.thmStat 5 = false ∧ t.log.seq = s.log.seq + 1 ∧
        Kept logAreas s t ∧ RegsKept (Off.thmStat :: logRegs) s t) ∧
    (s.flag Off.thmStat 3 = false → s.thm.flowLow = none → exec .flowLow s = .next s) ∧
    (s.flag Off.thmStat 4 = false → s.thm.inletHigh = none → exec .inletHigh s = .next s) ∧
    (s.flag Off.thmStat 5 = false → s.thm.binding = none → exec .capBinding s = .next s))

/-- With the rails up and no pulse for STOP_MS the module enters the lowest state, logs the stop and remembers to ask for
takeover; after a second of half the nominal flow the stop is released and logged (16 R344, R348). -/
def Obligations.FlowStopForcesLowestState : Prop :=
  (∀ (p : Nat) (s : State), s.thm.lastPulse = some p → s.pwr.rails = true → s.flowStopped = false →
    p + s.stopPs ≤ s.clk.now → s.lowest = false →
    ∃ t, exec .flowStop s = .next t ∧ t.flowStopped = true ∧ t.thm.flow = (0, 1) ∧ t.thm.pulses = [] ∧
      t.thm.stopReq = some s.log.seq ∧ t.AtLowest ∧ t.log.seq = s.log.seq + 1 ∧
      Kept ([.thm, .pwr, .fw] ++ logAreas) s t ∧
      RegsKept ([Off.thmStat, Off.thmCoolant] ++ logRegs ++ emergencyRegs) s t) ∧
  (∀ s : State, s.thm.lastPulse = none ∨ s.pwr.rails = false ∨ s.flowStopped = true → exec .flowStop s = .next s) ∧
  (∀ (u : Nat) (s : State), s.flowStopped = true → s.thm.flowHalf = some u → u + 1000000000000 ≤ s.clk.now →
    ∃ t, exec .flowStopRelease s = .next t ∧ t.flowStopped = false ∧ t.log.seq = s.log.seq + 1 ∧
      ((s.pwr.alert.isSome || s.hot || s.halted) = false → t.pwr.released = s.clk.now) ∧
      Kept ([.pwr, .fw] ++ logAreas) s t ∧ RegsKept (Off.thmStat :: logRegs ++ emergencyRegs) s t) ∧
  (∀ s : State, s.flowStopped = false ∨ s.thm.flowHalf = none → exec .flowStopRelease s = .next s)

/-- A working junction sensor's reading is kept; at 105 degC HOT and at 112 degC HALT come into force, which put the module in the
lowest state, and HALT stops issue in the hives. A sensor that stops, or reads outside -10 to 150 degC, is failed, counted and
logged; a failed one is not read again (16 R341, R343-R345). -/
def Obligations.JunctionLimits : Prop :=
  (∀ (n : Fin 1280) (v : Int) (s : State), sget false s.thm.failed n.val = false → s.pwr.aux = true → 105 ≤ v → v < 125 →
    s.thm.temps = [] → s.hot = false → s.lowest = false →
    ∃ t, exec (.junctionConversion n (some v)) s = .next t ∧ sget none t.thm.temps n.val = some v ∧ t.hot = true ∧
      t.AtLowest ∧ (112 ≤ v → t.halted = true ∧ t.hive.halt = true) ∧
      t.hive.hives = s.hive.hives ∧ Kept ([.thm, .pwr, .fw, .hive] ++ logAreas) s t ∧
      RegsKept (Off.thmStat :: logRegs ++ emergencyRegs) s t) ∧
  (∀ (n : Fin 1280) (r : Option Int) (s : State), sget false s.thm.failed n.val = false → s.pwr.aux = true →
    (∀ v, r = some v → v < -10 ∨ 150 < v) →
    ∃ t, exec (.junctionConversion n r) s = .next t ∧ sget false t.thm.failed n.val = true ∧ t.thm.temps = s.thm.temps ∧
      t.field Off.thmStat 15 8 = min (s.field Off.thmStat 15 8 + 1) 255 ∧ t.log.seq = s.log.seq + 1 ∧
      Kept (.thm :: logAreas) s t ∧ RegsKept (Off.thmStat :: logRegs) s t) ∧
  (∀ (n : Fin 1280) (r : Option Int) (s : State), sget false s.thm.failed n.val = true ∨ s.pwr.aux = false →
    exec (.junctionConversion n r) s = .next s)

/-- A reading of 125 degC or more takes the rails away with THERMTRIP_N low: the main domain collapses and the standby domain
stays. The line is released after ten seconds, with the outlet below 50 degC and half the flow, and a module reset follows; the
tray's low takes the rails away as well (16 R347; 19 R383). -/
def Obligations.ThermtripTakesTheRails : Prop :=
  (∀ (n : Fin 1280) (v : Int) (s : State), sget false s.thm.failed n.val = false → s.pwr.aux = true → 125 ≤ v → v ≤ 150 →
    s.thm.temps = [] → s.thm.trip = none →
    ∃ t, exec (.junctionConversion n (some v)) s = .next t ∧ t.thm.trip = some s.clk.now ∧ t.pwr.rails = false ∧
      t.out.head? = some (.pin "THERMTRIP_N" false) ∧ t.ctxs = [] ∧ t.mem.dev = [] ∧ t.reg Off.hifLinkStat = 0) ∧
  (∀ (u : Nat) (o : Int) (s : State), s.thm.trip = some u → u + 10000000000000 ≤ s.clk.now → s.thm.outlet = some o →
    o < 500 → s.flowAtLeast 50 = true → s.thm.trayTrip = false →
    ∃ t, exec .thermtripRelease s = .next t ∧ t.thm.trip = none ∧ t.out = s.abortedAcks ++ .pin "THERMTRIP_N" true :: s.out ∧
      t.regs = [] ∧ t.ctxs = [] ∧ t.mem.dev = [] ∧ t.mem.host = s.mem.host ∧ t.fw.fuses = s.fw.fuses ∧
      t.log.mem = s.log.mem ∧ t.log.crashSource = true ∧ t.pending = s.pending) ∧
  (∀ s : State, s.thm.trip = none ∨ s.thm.outlet = none ∨ s.flowAtLeast 50 = false ∨ s.thm.trayTrip = true →
    exec .thermtripRelease s = .next s) ∧
  (∀ s : State, s.pwr.rails = true →
    ∃ t, exec (.thermtripInput true) s = .next t ∧ t.thm.trayTrip = true ∧ t.thm.trayFell = true ∧ t.pwr.rails = false ∧
      t.ctxs = [] ∧ t.mem.dev = [] ∧ t.mem.host = s.mem.host ∧ t.log = s.log) ∧
  (∀ s : State, s.thm.trayFell = true → s.thm.trip = none →
    ∃ t, exec (.thermtripInput false) s = .next t ∧ t.thm.trayTrip = false ∧ t.thm.trayFell = false ∧ t.regs = [] ∧
      t.log.mem = s.log.mem ∧ t.pending = s.pending) ∧
  (∀ s : State, s.thm.trayFell = false →
    ∃ t, exec (.thermtripInput false) s = .next t ∧ t.thm.trayTrip = false ∧ Kept [.thm] s t)

/-- The supplies: AUX_12V valid or lost is a module reset; HV_IN outside 360 to 420 V is an emergency, outside 355 to 425 V the
alert line goes low, and outside 330 to 440 V converters that are on turn off and the main domain collapses; after such a shutdown
its return is a module reset that keeps the log (15 R319, R320).

A module reset that a message asked for comes when its delay is over and its acknowledgement is written; a fatal fault of the
security core resets at once, also while one waits, and keeps the log for a crash log; none is made while THERMTRIP_N is low. Registers,
memories and contexts are cleared; flash rows, fuses, host memory, the queue and what was sent stay, and who has a message in a mailbox
reads ABORTED (14 R291, R305, R314; 16 R347). -/
def Obligations.SupplyAndReset : Prop :=
  (∀ s : State, s.pwr.aux = false →
    ∃ t, exec .auxValid s = .next t ∧ t.pwr.aux = true ∧ t.regs = [] ∧ t.log = {} ∧ t.ctxs = [] ∧
      t.fw.fuses = s.fw.fuses ∧ t.mem.host = s.mem.host ∧ t.pending = s.pending) ∧
  (∀ s : State, s.pwr.aux = true → exec .auxValid s = .next s) ∧
  (∀ s : State, s.pwr.aux = true →
    ∃ t, exec .auxLoss s = .next t ∧ t.pwr.aux = false ∧ t.pwr.rails = false ∧ t.regs = [] ∧ t.log = {} ∧ t.ctxs = [] ∧
      t.fw.fuses = s.fw.fuses ∧ t.pending = s.pending) ∧
  (∀ s : State, s.pwr.shut = false →
    ∃ t, exec .hvInValid s = .next t ∧ t.pwr = { s.pwr with hv := true, hvOut := false } ∧ Kept [.regs, .pwr, .fw] s t ∧
      RegsKept [Off.fwlFwStat, Off.hifModuleStat] s t) ∧
  (∀ s : State, s.pwr.shut = true → exec .hvInValid s = .next s) ∧
  (∀ (v : Nat) (s : State), (3550 ≤ v ∧ v < 3600) ∨ (4200 < v ∧ v ≤ 4250) → s.pwr.aux = true →
    ∃ t, exec (.hvInOutOfRange v) s = .next t ∧ t.pwr = { s.pwr with hvOut := true } ∧ t.field Off.pwrMeas 15 0 = v ∧
      t.flag Off.fwlFwStat 61 = true ∧ t.log.seq = (if s.pwr.hvOut then s.log.seq else s.log.seq + 1) ∧
      Kept (.pwr :: logAreas) s t ∧ RegsKept ([Off.pwrMeas, Off.fwlFwStat, Off.hifModuleStat] ++ logRegs) s t) ∧
  (∀ (v : Nat) (s : State), (3300 ≤ v ∧ v < 3550) ∨ (4250 < v ∧ v ≤ 4400) → s.pwr.aux = true → s.pwr.alert = none →
    s.tripped = false → s.lowest = false →
    ∃ t, exec (.hvInOutOfRange v) s = .next t ∧ t.pwr.alert = some s.clk.now ∧ t.AtLowest ∧
      t.out.head? = some (.pin "CONV_ALERT_N" false) ∧ t.pwr.rails = s.pwr.rails ∧
      Kept (.pwr :: logAreas) s t) ∧
  (∀ (v : Nat) (s : State), v < 3600 ∨ 4200 < v → s.pwr.aux = false →
    ∃ t, exec (.hvInOutOfRange v) s = .next t ∧ t.pwr.hvOut = true ∧ t.pwr.alert = s.pwr.alert ∧ Kept [.pwr] s t) ∧
  (∀ (v : Nat) (s : State), v < 3300 ∨ 4400 < v → s.pwr.aux = true → s.pwr.rails = false →
    ∃ t, exec (.hvInOutOfRange v) s = .next t ∧ t.pwr.rails = false ∧ t.pwr.hv = false ∧ t.pwr.shut = s.pwr.shut ∧
      t.ctxs = s.ctxs ∧ t.fw.fuses = s.fw.fuses ∧ t.pending = s.pending) ∧
  (∀ (v : Nat) (s : State), v < 3300 ∨ 4400 < v → s.pwr.aux = true → s.pwr.rails = true →
    ∃ t, exec (.hvInOutOfRange v) s = .next t ∧ t.pwr.rails = false ∧ t.pwr.hv = false ∧ t.pwr.shut = true ∧ t.ctxs = [] ∧
      t.mem.dev = [] ∧ t.stks = s.keptRepairs ∧ t.reg Off.hifLinkStat = 0 ∧ t.fw.fuses = s.fw.fuses ∧ t.pending = s.pending) ∧
  (∀ s : State, s.pwr.shut = true → s.tripped = false →
    ∃ t, exec .hvInReturn s = .next t ∧ t.pwr.hv = true ∧ t.pwr.shut = false ∧ t.pwr.alert = s.pwr.alert.map (fun _ => 0) ∧ t.regs = [] ∧
      t.log.mem = s.log.mem ∧ t.pending = s.pending) ∧
  (∀ s : State, s.pwr.shut = false ∨ s.tripped = true →
    ∃ t, exec .hvInReturn s = .next t ∧ t.pwr = { s.pwr with hv := true, hvOut := false } ∧ Kept [.regs, .pwr, .fw] s t) ∧
  (∀ (u : Nat) (s : State), s.pwr.aux = true → s.tripped = false → s.mail.resetAt = some u → u ≤ s.clk.now →
    (s.box (boxKey (.towpath .security))).full = false →
    ∃ t, exec .moduleReset s = .next t ∧ t.regs = [] ∧ t.mem = { host := s.mem.host } ∧ t.ctxs = [] ∧ t.hive = {} ∧
      t.stks = [] ∧ t.combs = [] ∧ t.sync = {} ∧ t.layers = [] ∧ t.layersC = [] ∧ t.fail = {} ∧ t.mail = { boxes := s.abortedBoxes } ∧
      t.fw.fuses = s.fw.fuses ∧ t.fw.loaded = [] ∧ t.log.mem = s.log.mem ∧ t.log.crashSource = false ∧ t.clk.now = 0 ∧
      t.clk.lock = false ∧ t.thm = {} ∧ t.pending = s.pending ∧ t.out = s.abortedAcks ++ s.out) ∧
  (∀ (u : Nat) (s : State), s.pwr.aux = true → s.tripped = false →
    s.mail.resetAt = none ∨ (s.mail.resetAt = some u ∧ (s.clk.now < u ∨ (s.box (boxKey (.towpath .security))).full = true)) →
    ∃ t, exec .moduleReset s = .next t ∧ t.regs = [] ∧ t.mem = { host := s.mem.host } ∧ t.ctxs = [] ∧
      t.fw.fuses = s.fw.fuses ∧ t.log.mem = s.log.mem ∧ t.log.crashSource = true ∧ t.pending = s.pending ∧
      t.out = s.abortedAcks ++ s.out) ∧
  (∀ s : State, s.pwr.aux = false ∨ s.tripped = true → exec .moduleReset s = .next s)

/-- Steps 1 to 3 run with AUX_12V, from a module reset and out of recovery: a slot whose images all verify runs and boot stands at
step 3; with no slot left the module is in recovery (14 R292, R294).

Steps 4 to 6: the rails come up once HV_IN is valid and in range, THERMTRIP_N is high and there is flow; verified images are loaded,
and a slot that fails takes the rails away and starts boot again; then the defaults are applied and the protection set-up is locked
(14 Table 14-4; 17 R359; 19 R383). -/
def Obligations.BootOfASlot : Prop :=
  (∀ (a : BitVec 2) (b : BitVec 6) (s : State), s.pwr.aux = true → s.bootStep ≤ 1 → s.recovery = false →
    s.bootOrder = [] →
    ∃ t, exec (.bootRom a b) s = .next t ∧ t.recovery = true ∧ t.bootStep = 1 ∧ t.fw.traySlot = a ∧ t.fw.trayId = b ∧
      Kept [.regs, .fw] s t ∧ RegsKept [Off.hifModuleStat, Off.fwlFwStat] s t) ∧
  (∀ (a : BitVec 2) (b : BitVec 6) (k : Nat) (ks : List Nat) (s : State), s.pwr.aux = true → s.bootStep ≤ 1 →
    s.recovery = false → s.bootOrder = k :: ks → s.firstFail k [1, 2] = none →
    ∃ t, exec (.bootRom a b) s = .next t ∧ t.bootStep = 3 ∧ t.slot = k % 2 ∧ t.fw.traySlot = a ∧ t.fw.trayId = b ∧
      t.fw.fuses = s.fw.fuses ∧ t.mem.dev = s.mem.dev ∧ t.ctxs = s.ctxs ∧ t.pending = s.pending) ∧
  (∀ (a : BitVec 2) (b : BitVec 6) (s : State), s.pwr.aux = false ∨ 1 < s.bootStep ∨ s.recovery = true →
    exec (.bootRom a b) s = .next s) ∧
  (∀ s : State, s.bootStep = 3 → s.recovery = false → s.pwr.hv = true → s.pwr.hvOut = false → s.pwr.shut = false →
    s.thm.trip = none → s.thm.trayTrip = false → s.flowAtLeast 50 = true →
    ∃ t, exec .railBringUp s = .next t ∧ t.pwr.rails = true ∧ t.bootStep = 4 ∧ t.hive.halt = s.halted ∧
      (s.pwr.alert.isSome = true → s.lowest = false → t.AtLowest) ∧ t.hive.hives = s.hive.hives ∧
      Kept [.regs, .pwr, .fw, .hive] s t ∧ RegsKept emergencyRegs s t) ∧
  (∀ s : State, s.bootStep ≠ 3 ∨ s.recovery = true ∨ s.pwr.hv = false ∨ s.pwr.hvOut = true ∨ s.pwr.shut = true ∨
      s.thm.trip.isSome = true ∨ s.thm.trayTrip = true ∨ s.flowAtLeast 50 = false → exec .railBringUp s = .next s) ∧
  (∀ s : State, s.bootStep = 4 → s.firstFail s.slot [3, 4, 5] = none →
    ∃ t, exec .imageLoad s = .next t ∧ t.bootStep = 5 ∧ t.fw.fuses = s.fw.fuses ∧ t.fw.dev0 = s.fw.dev0 ∧
      t.fw.dev1 = s.fw.dev1 ∧ (t.port 0x40).state = 3 ∧ Kept [.regs, .fw, .lnk] s t) ∧
  (∀ (c k : Nat) (s : State), s.bootStep = 4 → s.firstFail s.slot [3, 4, 5] = some (c, k) →
    ∃ t, exec .imageLoad s = .next t ∧ t.bootStep = 1 ∧ t.pwr.rails = false ∧ t.fw.failedSlots = s.slot :: s.fw.failedSlots ∧
      t.ctxs = [] ∧ t.mem.dev = []) ∧
  (∀ s : State, s.bootStep ≠ 4 → exec .imageLoad s = .next s) ∧
  (∀ s : State, s.bootStep = 5 →
    ∃ t, exec .applyDefaults s = .next t ∧ t.bootStep = 6 ∧ t.flag Off.secProtLock 0 = true ∧
      t.fw.fuses.revoke = s.fw.fuses.revoke ∧ t.pending = s.pending) ∧
  (∀ s : State, s.bootStep ≠ 5 → exec .applyDefaults s = .next s)

/-- A stack access is charged to its partition with the bus time it takes. A write stores its 32 bytes and makes the unit readable
again; a read without symbol errors changes nothing but the charge; one whose errors the outer code corrects is delivered and
counted; errors that make another codeword are delivered unseen; one it cannot correct, or whose command failed parity twice, is reported, and the unit cannot be read until it is written;
what the on-die ECC reports is counted and logged. An access to a failed stack or beyond its bytes is not made, and one past its
partition's share waits (07 R119-R122, R135-R137). -/
def Obligations.StackAccess : Prop :=
  (∀ (n : Stack) (u : BitVec 30) (bs : List Byte) (m : StackMeets) (s : State), s.unitOk n.val u.toNat = true →
    s.sluiceOpen n.val (32 * u.toNat) = true → bs.length = 32 → m.inner = 0 → m.parity.toNat < 2 →
    ∃ t, exec (.stackAccess n u (some bs) m) s = .next t ∧
      t.mem.dev.bytes (n.val * 0x800000000 + 32 * u.toNat) 32 = bs ∧
      (∀ a, a < n.val * 0x800000000 + 32 * u.toNat ∨ n.val * 0x800000000 + 32 * u.toNat + 32 ≤ a →
        t.mem.dev.byte a = s.mem.dev.byte a) ∧
      sget false t.mem.bad (n.val * 0x800000000 + 32 * u.toNat) = false ∧
      (∀ k, k ≠ n.val → t.stk k = s.stk k) ∧
      (t.stk n.val).charged = ((s.stk n.val).charge (n.val * 0x800000000 + 32 * u.toNat) 32 true).charged ∧
      (t.stk n.val).served = (s.stk n.val).partitionOf (32 * u.toNat) ∧
      Kept [.dev, .bad, .stks] s t) ∧
  (∀ (n : Stack) (u : BitVec 30) (m : StackMeets) (s : State), s.unitOk n.val u.toNat = true →
    s.sluiceOpen n.val (32 * u.toNat) = true → m.inner = 0 → m.parity.toNat < 2 → errLanes m.errs = [] →
    sget false s.mem.bad (n.val * 0x800000000 + 32 * u.toNat) = false →
    ∃ t, exec (.stackAccess n u none m) s = .next t ∧
      (t.stk n.val).charged = ((s.stk n.val).charge (n.val * 0x800000000 + 32 * u.toNat) 32 false).charged ∧
      (∀ k, k ≠ n.val → t.stk k = s.stk k) ∧ Kept [.stks] s t) ∧
  (∀ (n : Stack) (u : BitVec 30) (m : StackMeets) (s : State), s.unitOk n.val u.toNat = true →
    s.sluiceOpen n.val (32 * u.toNat) = true → m.inner = 0 → m.parity.toNat < 2 → errLanes m.errs ≠ [] →
    sget false s.mem.bad (n.val * 0x800000000 + 32 * u.toNat) = false →
    outerDecode (s.corrLimit n.val) ((s.stk n.val).erased (32 * u.toNat)) (syndromes (errLanes m.errs)) =
      some (errLanes m.errs) →
    ∃ t, exec (.stackAccess n u none m) s = .next t ∧
      t.field (Off.memErrStat n.val) 47 24 = min (s.field (Off.memErrStat n.val) 47 24 + 1) (2 ^ 24 - 1) ∧
      (∀ a, t.mem.dev.byte a = s.mem.dev.byte a) ∧ Kept [.stks, .regs, .dev] s t ∧
      RegsKept [Off.memErrStat n.val] s t) ∧
  (∀ (n : Stack) (u : BitVec 30) (m : StackMeets) (s : State), s.unitOk n.val u.toNat = true →
    s.sluiceOpen n.val (32 * u.toNat) = true → m.inner = 0 → m.parity.toNat < 2 → errLanes m.errs ≠ [] →
    sget false s.mem.bad (n.val * 0x800000000 + 32 * u.toNat) = false →
    outerDecode (s.corrLimit n.val) ((s.stk n.val).erased (32 * u.toNat)) (syndromes (errLanes m.errs)) = some [] →
    ∃ t, exec (.stackAccess n u none m) s = .next t ∧
      (∀ a, a < n.val * 0x800000000 + 32 * u.toNat ∨ n.val * 0x800000000 + 32 * u.toNat + 32 ≤ a →
        t.mem.dev.byte a = s.mem.dev.byte a) ∧ Kept [.stks, .dev] s t) ∧
  (∀ (n : Stack) (u : BitVec 30) (m : StackMeets) (s : State), s.unitOk n.val u.toNat = true →
    s.sluiceOpen n.val (32 * u.toNat) = true → m.inner = 0 →
    2 ≤ m.parity.toNat ∨ sget false s.mem.bad (n.val * 0x800000000 + 32 * u.toNat) = true ∨
      errLanes m.errs ≠ [] ∧
        outerDecode (s.corrLimit n.val) ((s.stk n.val).erased (32 * u.toNat)) (syndromes (errLanes m.errs)) = none →
    ∃ t, exec (.stackAccess n u none m) s = .next t ∧
      sget false t.mem.bad (n.val * 0x800000000 + 32 * u.toNat) = true ∧
      t.field (Off.memErrStat n.val) 62 48 = min (s.field (Off.memErrStat n.val) 62 48 + 1) (2 ^ 15 - 1) ∧
      (t.stk n.val).repairs.any (fun r => r.1 == n.val * 0x800000000 + 32 * u.toNat) = true ∧
      t.log.seq = s.log.seq + 1 ∧ Kept (.stks :: .bad :: logAreas) s t ∧
      RegsKept (Off.memErrStat n.val :: Off.memErrAddr n.val :: logRegs) s t) ∧
  (∀ (n : Stack) (u : BitVec 30) (m : StackMeets) (s : State), s.unitOk n.val u.toNat = true →
    s.sluiceOpen n.val (32 * u.toNat) = true → m.inner ≠ 0 → m.parity.toNat < 2 → errLanes m.errs = [] →
    sget false s.mem.bad (n.val * 0x800000000 + 32 * u.toNat) = false →
    ∃ t, exec (.stackAccess n u none m) s = .next t ∧
      t.field (Off.memErrStat n.val) 23 0 = min (s.field (Off.memErrStat n.val) 23 0 + m.inner.toNat) (2 ^ 24 - 1) ∧
      t.log.seq = s.log.seq + 1 ∧ Kept (.stks :: logAreas) s t ∧ RegsKept (Off.memErrStat n.val :: logRegs) s t) ∧
  (∀ (n : Stack) (u : BitVec 30) (d : Option (List Byte)) (m : StackMeets) (s : State), s.unitOk n.val u.toNat = false →
    exec (.stackAccess n u d m) s = .next s) ∧
  (∀ (n : Stack) (u : BitVec 30) (d : Option (List Byte)) (m : StackMeets) (s : State), s.unitOk n.val u.toNat = true →
    s.sluiceOpen n.val (32 * u.toNat) = false →
    ∃ t, exec (.stackAccess n u d m) s = .next t ∧ (t.stk n.val).waits.contains ((s.stk n.val).partitionOf (32 * u.toNat)) = true ∧
      (t.stk n.val).asked.contains ((s.stk n.val).partitionOf (32 * u.toNat)) = true ∧
      (t.stk n.val).charged = (s.stk n.val).charged ∧ (∀ k, k ≠ n.val → t.stk k = s.stk k) ∧ Kept [.stks] s t)

/-- The patrol scrub reads outside every sluice; a SCRUB reads its range access by access and completes with the count of corrected
ones; a refresh is counted once or twice by the rate, one that the stack asks for by itself; scrub and refresh are taken off the
window; and at each boundary of 64 frames the shares are counted afresh, with what a partition was charged beyond its share carried
over and the requests made since the last boundary still waiting (log 33). A failed stack is neither scrubbed nor refreshed
(07 R119, R121, R122, R132, R138; 13 Table 13-11).

A commit of partitions and sluices is marked busy, and at the next frame boundary the written settings come into force
together, or, where a check fails, none does: REFUSED is set and the check and partition are logged (07 R123). While a
commit waits, writes of the partitions and sluices are ignored and logged, so that it applies what stood when it was made
(18 R368). -/
def Obligations.StackBandwidth : Prop :=
  (∀ (n : Stack) (u : BitVec 30) (m : StackMeets) (s : State), s.unitOk n.val u.toNat = true → m.inner = 0 →
    m.parity.toNat < 2 → errLanes m.errs = [] → sget false s.mem.bad (n.val * 0x800000000 + 32 * u.toNat) = false →
    ∃ t, exec (.patrolScrub n u m) s = .next t ∧ (t.stk n.val).patrolled = (s.stk n.val).patrolled + 1 ∧
      (t.stk n.val).charged = (s.stk n.val).charged ∧ (s.stk n.val).taken < (t.stk n.val).taken ∧
      (∀ k, k ≠ n.val → t.stk k = s.stk k) ∧ Kept [.stks] s t) ∧
  (∀ (n : Stack) (u : BitVec 30) (m : StackMeets) (s : State), s.unitOk n.val u.toNat = false →
    exec (.patrolScrub n u m) s = .next s) ∧
  (∀ (x : Ctx) (m : StackMeets) (d : Cmd) (s : State), s.scrubTurn x.val = some d → d.mgmtLen ≤ 32 * d.progress →
    s.Live x.val d →
    ∃ t, exec (.scrub ⟨x, m⟩) s = .next t ∧ Answers s t x.val d stOk (min d.units 0xFFFFFFFF) ∧ CtxsKept x.val s t ∧
      Kept [.ctxs] s t) ∧
  (∀ (x : Ctx) (m : StackMeets) (d : Cmd) (s : State), s.scrubTurn x.val = some d → 32 * d.progress < d.mgmtLen →
    s.Live x.val d → m.inner = 0 → m.parity.toNat < 2 → errLanes m.errs = [] →
    s.unitOk ((d.mgmtAddr + 32 * d.progress) / 0x800000000) ((d.mgmtAddr + 32 * d.progress) % 0x800000000 / 32) = true →
    s.sluiceOpen ((d.mgmtAddr + 32 * d.progress) / 0x800000000) ((d.mgmtAddr + 32 * d.progress) % 0x800000000) = true →
    sget false s.mem.bad (d.mgmtAddr + 32 * d.progress) = false →
    ∃ t, exec (.scrub ⟨x, m⟩) s = .next t ∧
      (t.ctx x.val).cmd d.idx = some { d with phase := .started, since := s.clk.now, progress := d.progress + 1 } ∧
      CtxsKept x.val s t ∧ Kept [.ctxs, .stks] s t) ∧
  (∀ (x : Ctx) (m : StackMeets) (s : State), s.scrubTurn x.val = none → exec (.scrub ⟨x, m⟩) s = .next s) ∧
  (∀ (n : Stack) (s : State), (s.stk n.val).dead = false →
    ∃ t, exec (.refresh ⟨n, false⟩) s = .next t ∧
      t.stk n.val = { s.stk n.val with
        refreshes := (s.stk n.val).refreshes + (if s.flag (Off.memTherm n.val) 3 then 2 else 1),
        taken := (s.stk n.val).taken + (if s.flag (Off.memTherm n.val) 3 then 2 else 1) * Config.refreshTime } ∧
      (∀ m, m ≠ n.val → t.stk m = s.stk m) ∧ Kept [.stks] s t) ∧
  (∀ (n : Stack) (s : State), (s.stk n.val).dead = false →
    ∃ t, exec (.refresh ⟨n, true⟩) s = .next t ∧
      t.stk n.val = { s.stk n.val with
        managed := (s.stk n.val).managed + 1, taken := (s.stk n.val).taken + Config.refreshTime } ∧
      (∀ m, m ≠ n.val → t.stk m = s.stk m) ∧ Kept [.stks] s t) ∧
  (∀ (n : Stack) (b : Bool) (s : State), (s.stk n.val).dead = true → exec (.refresh ⟨n, b⟩) s = .next s) ∧
  (∀ (n : Stack) (s : State), (s.stk n.val).window ≠ s.sluiceNo →
    ∃ t, exec (.sluiceWindow n) s = .next t ∧
      t.stk n.val = { s.stk n.val with
        charged := (s.stk n.val).carry (s.windowTime n.val), taken := 0, waits := (s.stk n.val).asked, asked := [],
        window := s.sluiceNo } ∧
      (∀ m, m ≠ n.val → t.stk m = s.stk m) ∧ Kept [.stks] s t) ∧
  (∀ (n : Stack) (s : State), (s.stk n.val).window = s.sluiceNo → exec (.sluiceWindow n) s = .next s) ∧
  (∀ (f : Func) (n : Stack) (s : State), s.barOpen = true → s.mayWrite f.val .pf 0 0 = true →
    s.flag (Off.memSluiceCmd n.val) 2 = false →
    ∃ t, exec (.sluiceCommit f n) s = .next t ∧ t.flag (Off.memSluiceCmd n.val) 2 = true ∧ (t.stk n.val).commit = true ∧
      (t.stk n.val).parts = (s.stk n.val).parts ∧ (t.stk n.val).shares = (s.stk n.val).shares ∧
      (∀ m, m ≠ n.val → t.stk m = s.stk m) ∧ Kept [.regs, .stks] s t ∧ RegsKept [Off.memSluiceCmd n.val] s t) ∧
  (∀ (f : Func) (n : Stack) (s : State), s.barOpen = true → s.mayWrite f.val .pf 0 0 = false →
    exec (.sluiceCommit f n) s = .next (s.ignored f.val (Off.memSluiceCmd n.val) 1)) ∧
  (∀ (f : Func) (n : Stack) (s : State), s.barOpen = false → exec (.sluiceCommit f n) s = .next s) ∧
  (∀ (n : Stack) (s : State), (s.stk n.val).commit = true → sluiceCheck (s.written n.val).1 (s.written n.val).2 = none →
    ∃ t, exec (.sluiceApply n) s = .next t ∧
      t.stk n.val = { s.stk n.val with commit := false, parts := (s.written n.val).1, shares := (s.written n.val).2 } ∧
      (∀ m, m ≠ n.val → t.stk m = s.stk m) ∧ t.flag (Off.memSluiceCmd n.val) 2 = false ∧ Kept [.regs, .stks] s t ∧
      RegsKept [Off.memSluiceCmd n.val] s t) ∧
  (∀ (n : Stack) (c p : Nat) (s : State), (s.stk n.val).commit = true →
    sluiceCheck (s.written n.val).1 (s.written n.val).2 = some (c, p) →
    ∃ t, exec (.sluiceApply n) s = .next t ∧ t.stk n.val = { s.stk n.val with commit := false } ∧
      t.flag (Off.memSluiceCmd n.val) 2 = false ∧ t.flag (Off.memSluiceCmd n.val) 1 = true ∧
      t.log.seq = s.log.seq + 1 ∧ Kept (.stks :: logAreas) s t ∧ RegsKept (Off.memSluiceCmd n.val :: logRegs) s t) ∧
  (∀ (n : Stack) (s : State), (s.stk n.val).commit = false → exec (.sluiceApply n) s = .next s) ∧
  (∀ (f : Func) (n : Stack) (i : Fin 8) (v : Word) (s : State), s.barOpen = true → s.flag (Off.memSluiceCmd n.val) 2 = true →
    exec (.registerWrite f (BitVec.ofNat 26 (Off.memPart n.val i.val)) 8 v) s =
        .next (s.ignored f.val (Off.memPart n.val i.val) v.toNat) ∧
      exec (.registerWrite f (BitVec.ofNat 26 (Off.memSluice n.val i.val)) 4 v) s =
        .next (s.ignored f.val (Off.memSluice n.val i.val) (v.toNat % 2 ^ 32)) ∧
      (∀ o w, (s.ignored f.val o w).written n.val = s.written n.val))

/-- A stack's reading stands in its register, sets the doubled refresh above 85 degC and chooses a throttle step, which comes into
force at the next frame boundary; the catastrophic indication takes the rails away (07 R119, R130, R132; 16 Table 16-1).

At a step boundary, or while a sweep waits for it, the row of an uncorrectable access is repaired, softly from now on and in
the repair records of both devices for the next reset, or, with no repair left, its page is retired in both devices and takeover is
asked for; a mirrored sweep that waited on it then fails, and a ring's DMA that waited for the repair completes; a due channel trains again and forgets its lanes' errors; a comb
line takes a spare of its bank (06 R115; 07 R133, R137, R139; 08 R160). -/
def Obligations.StackTemperatureAndRepairs : Prop :=
  (∀ (n : Stack) (v : BitVec 8) (s : State), (s.stk n.val).trained = true →
    v.toNat + 3 < s.field (Off.memTherm n.val) 23 16 → s.thm.temps = [] → s.hot = false → s.halted = false →
    (∀ m, m ≠ n.val → (s.stk m).trained = false) →
    ∃ t, exec (.stackTempRead n v) s = .next t ∧ t.field (Off.memTherm n.val) 15 8 = v.toNat ∧
      t.flag (Off.memTherm n.val) 3 = decide (85 < v.toNat) ∧
      (t.stk n.val).nextStep =
        (if throttleStep (s.field (Off.memTherm n.val) 23 16) v.toNat (s.field (Off.memTherm n.val) 2 0)
            = s.field (Off.memTherm n.val) 2 0 then none
         else some (throttleStep (s.field (Off.memTherm n.val) 23 16) v.toNat (s.field (Off.memTherm n.val) 2 0))) ∧
      t.hot = false ∧ t.halted = false ∧ (∀ m, m ≠ n.val → t.stk m = s.stk m) ∧
      Kept [.regs, .stks, .hive, .pwr, .fw] s t) ∧
  (∀ (n : Stack) (v : BitVec 8) (s : State), (s.stk n.val).trained = true → s.thm.temps = [] →
    s.field (Off.memTherm n.val) 23 16 ≤ v.toNat → s.hot = false → s.lowest = false →
    ∃ t, exec (.stackTempRead n v) s = .next t ∧ t.hot = true ∧ t.AtLowest) ∧
  (∀ (n : Stack) (v : BitVec 8) (s : State), (s.stk n.val).trained = false → exec (.stackTempRead n v) s = .next s) ∧
  (∀ (n : Stack) (k : Nat) (s : State), (s.stk n.val).nextStep = some k → k ≤ 4 →
    ∃ t, exec (.throttleStepChange n) s = .next t ∧ t.field (Off.memTherm n.val) 2 0 = k ∧
      t.stk n.val = { s.stk n.val with nextStep := none } ∧ (∀ m, m ≠ n.val → t.stk m = s.stk m) ∧
      Kept [.regs, .stks] s t ∧ RegsKept [Off.memTherm n.val] s t) ∧
  (∀ (n : Stack) (s : State), (s.stk n.val).nextStep = none → exec (.throttleStepChange n) s = .next s) ∧
  (∀ (n : Stack) (s : State), s.pwr.rails = true → s.thm.trip = none →
    ∃ t, exec (.stackCatastrophicTemperature n) s = .next t ∧ t.thm.trip = some s.clk.now ∧ t.pwr.rails = false ∧
      t.out.head? = some (.pin "THERMTRIP_N" false) ∧ t.ctxs = [] ∧ t.mem.dev = []) ∧
  (∀ (n : Stack) (s : State), s.pwr.rails = false ∨ s.thm.trip.isSome = true →
    exec (.stackCatastrophicTemperature n) s = .next s) ∧
  (∀ (n : Stack) (a k : Nat) (r : List (Nat × Nat)) (s : State), (s.stk n.val).repairs = (a, k) :: r →
    a / 0x800000000 = n.val → (s.stepBoundary || s.sweepWaits n.val) = true → s.rowSpare a = true →
    (∀ e ∈ s.ctxs, e.2.badDma = none) →
    ∃ t, exec (.rowRepair n) s = .next t ∧
      (t.stk n.val).repairs = r.filter (fun e => !(rowKey e.1 == rowKey a)) ∧ (t.stk n.val).softRows = (s.stk n.val).softRows ++ [a] ∧
      sget 0 (t.stk n.val).repairsUsed (bankKey a) = sget 0 (s.stk n.val).repairsUsed (bankKey a) + 1 ∧
      t.fw.dev0.repair.rows = s.fw.dev0.repair.rows ++ [a] ∧ t.fw.dev1.repair.rows = s.fw.dev1.repair.rows ++ [a] ∧
      t.mem.bad = s.mem.bad.filter (fun e => !((a :: (r.filter (fun u => rowKey u.1 == rowKey a)).map (·.1)).filter
        s.partnerHolds).contains e.1) ∧
      (∀ m, m ≠ n.val → t.stk m = s.stk m) ∧ Kept [.stks, .bad, .fw] s t) ∧
  (∀ (n : Stack) (x : Ctx) (a u k i : Nat) (r : List (Nat × Nat)) (d : Cmd) (s : State), (s.stk n.val).repairs = (a, k) :: r →
    a / 0x800000000 = n.val → (s.stepBoundary || s.sweepWaits n.val) = true → s.rowSpare a = true →
    s.ctxs.map Prod.fst = [x.val] → (s.ctx x.val).badDma = some (i, u) → rowKey u = rowKey a → d.idx = i →
    s.Live x.val d →
    ∃ t, exec (.rowRepair n) s = .next t ∧ (t.stk n.val).repairs = r.filter (fun e => !(rowKey e.1 == rowKey a)) ∧ (t.ctx x.val).badDma = none ∧
      Answers s t x.val d stStepFailed 0 ∧ Kept [.stks, .bad, .fw, .ctxs] s t) ∧
  (∀ (n : Stack) (a k : Nat) (r : List (Nat × Nat)) (s : State), (s.stk n.val).repairs = (a, k) :: r →
    (s.stepBoundary || s.sweepWaits n.val) = true → s.rowSpare a = false →
    (∀ e ∈ s.ctxs, e.2.badDma = none ∧ ∀ w, e.2.sweep = some w → w.met = []) → (∀ e ∈ r, rowKey e.1 ≠ rowKey a) →
    ∃ t, exec (.rowRepair n) s = .next t ∧ (t.stk n.val).repairs = r ∧ sget false t.mem.retired (a / 4096) = true ∧
      t.fw.dev0.repair.pages = a / 4096 :: s.fw.dev0.repair.pages ∧
      t.fw.dev1.repair.pages = a / 4096 :: s.fw.dev1.repair.pages ∧ t.log.seq = s.log.seq + 1 ∧
      Kept ([.stks, .retired, .fw] ++ logAreas) s t ∧ RegsKept logRegs s t) ∧
  (∀ (n : Stack) (x : Ctx) (a k : Nat) (r : List (Nat × Nat)) (w : Sweep) (d : Cmd) (s : State),
    (s.stk n.val).repairs = (a, k) :: r → s.sweepWaits n.val = true → s.rowSpare a = false → s.ctxs.map Prod.fst = [x.val] →
    (s.ctx x.val).badDma = none → (s.ctx x.val).sweep = some w → w.stopped.contains n.val = true →
    w.met.any (fun m => m / 4096 == a / 4096) = true → (∀ e ∈ r, rowKey e.1 ≠ rowKey a) → d.idx = w.idx → s.Live x.val d →
    ∃ t, exec (.rowRepair n) s = .next t ∧ sget false t.mem.retired (a / 4096) = true ∧
      Answers s t x.val d stStepFailed (s.causes x.val w.bits) ∧
      Kept ([.stks, .retired, .fw, .ctxs] ++ logAreas) s t) ∧
  (∀ (n : Stack) (s : State), (s.stk n.val).repairs = [] ∨ s.stepBoundary = false ∧ s.sweepWaits n.val = false →
    exec (.rowRepair n) s = .next s) ∧
  (∀ (n : Stack) (c : Fin 16) (s : State), sget false (s.stk n.val).retrain c.val = true → s.stepBoundary = true →
    (∀ e ∈ s.stks, e.2.wantTakeover = false) →
    ∃ t, exec (.channelRetrain n c []) s = .next t ∧ sget false (t.stk n.val).retrain c.val = false ∧
      (∀ l, l / 72 = c.val → sget [] (t.stk n.val).laneErrs l = []) ∧ (t.stk n.val).failedLanes = (s.stk n.val).failedLanes ∧
      (∀ m, m ≠ n.val → t.stk m = s.stk m) ∧ Kept [.stks] s t) ∧
  (∀ (n : Stack) (c : Fin 16) (ls : List (Fin 72)) (s : State),
    sget false (s.stk n.val).retrain c.val = false ∨ s.stepBoundary = false → exec (.channelRetrain n c ls) s = .next s) ∧
  (∀ (c : Sector) (a : Nat) (r : List Nat) (s : State), (sget ({} : CombSt) s.combs c.val).due = a :: r →
    s.stepBoundary = true → sget 0 (sget ({} : CombSt) s.combs c.val).used (bits a 13 8) < 256 →
    ∃ t, exec (.combLineSpare c) s = .next t ∧ (sget ({} : CombSt) t.combs c.val).due = r ∧
      sget 0 (sget ({} : CombSt) t.combs c.val).used (bits a 13 8) =
        sget 0 (sget ({} : CombSt) s.combs c.val).used (bits a 13 8) + 1 ∧
      (sget ({} : CombSt) t.combs c.val).spared.contains a = true ∧ t.mem.dev = s.mem.dev ∧
      Kept (.combs :: logAreas) s t ∧ RegsKept logRegs s t) ∧
  (∀ (c : Sector) (s : State), (sget ({} : CombSt) s.combs c.val).due = [] ∨ s.stepBoundary = false →
    exec (.combLineSpare c) s = .next s)

/-- Once boot has locked the set-up a stack trains: one that trains has its TMAX read and each failed lane without a spare marked;
one that does not is failed as a unit, counted, logged, and takeover is asked for. With the last of them boot is complete (07 R119,
R133, R134; 14 Table 14-4). -/
def Obligations.StackTraining : Prop :=
  (∀ (n : Stack) (v : BitVec 8) (s : State), 6 ≤ s.bootStep → (s.stk n.val).trained = false → (s.stk n.val).dead = false →
    (s.stk n.val).wantTakeover = false →
    ∃ t, exec (.stackTraining n ⟨true, v, []⟩) s = .next t ∧ (t.stk n.val).trained = true ∧ (t.stk n.val).dead = false ∧
      t.field (Off.memTherm n.val) 23 16 = v.toNat ∧ t.mem.dev = s.mem.dev ∧ t.ctxs = s.ctxs ∧
      ((∀ c, c < 16 → s.sparesLeft n.val c ≠ 0) → t.mem = s.mem) ∧
      (s.bootStep = 6 → (∀ m, m < 32 → m ≠ n.val → ((s.stk m).trained || (s.stk m).dead) = true) → t.bootStep = 7)) ∧
  (∀ (n : Stack) (v : BitVec 8) (c : Fin 16) (l : Fin 72) (s : State), 6 ≤ s.bootStep → (s.stk n.val).trained = false →
    (s.stk n.val).dead = false → s.sparesLeft n.val c.val = 0 →
    ∃ t, exec (.stackTraining n ⟨true, v, [(c, l)]⟩) s = .next t ∧ (t.stk n.val).trained = true ∧
      sget false (t.stk n.val).failedLanes (72 * c.val + l.val) = true) ∧
  (∀ (n : Stack) (v : BitVec 8) (ls : List (Fin 16 × Fin 72)) (s : State), 6 ≤ s.bootStep → (s.stk n.val).trained = false →
    (s.stk n.val).dead = false →
    ∃ t, exec (.stackTraining n ⟨false, v, ls⟩) s = .next t ∧ t.stk n.val = { s.stk n.val with dead := true } ∧
      t.field Off.hifModuleStat 13 8 = min (s.field Off.hifModuleStat 13 8 + 1) 63 ∧ t.log.seq = s.log.seq + 1 ∧
      (s.bootStep = 6 → (∀ m, m < 32 → m ≠ n.val → ((s.stk m).trained || (s.stk m).dead) = true) → t.bootStep = 7) ∧
      (∀ m, m ≠ n.val → t.stk m = s.stk m) ∧ Kept (.stks :: .fw :: logAreas) s t ∧
      RegsKept (Off.hifModuleStat :: logRegs) s t) ∧
  (∀ (n : Stack) (k : Sys2Proof.StackTraining) (s : State),
    s.bootStep < 6 ∨ (s.stk n.val).trained = true ∨ (s.stk n.val).dead = true → exec (.stackTraining n k) s = .next s)

/-- A hive that no run holds moves: its store is at the new slot byte for byte, nothing outside that slot changes, and its logical
window goes there from then on; the move done, what was held is delivered in its order. A move from or to a slot that has failed
or been taken is given up (06 R109; 09 R186; 10 R200).

A die that may rotate begins a move of the logical hive after its spare slot, after PERIOD seconds, or early where it is hot and
its spare ten degrees cooler; one that may not stays (09 R188; 16 R349). -/
def Obligations.HiveMoves : Prop :=
  (∀ (h : Hive) (k : Nat) (s : State), s.movingTo h.val = some k → s.hiveFree h.val = true → k < 5 →
    s.slotOfHive h.val ≠ 5 * (h.val / 4) + k → s.mem.dev.wf = true → s.slotFailed (s.slotOfHive h.val) = false →
    s.slotFailed (5 * (h.val / 4) + k) = false → s.hiveIn (5 * (h.val / 4) + k) = none → s.hive.halt = false →
    ∃ t, exec (.hiveMove h) s = .next t ∧ t.slotOfHive h.val = 5 * (h.val / 4) + k ∧
      (∀ o, o < 0x1800000 → t.mem.dev.byte (slotBase (5 * (h.val / 4) + k) + o) = s.mem.dev.byte (slotBase (s.slotOfHive h.val) + o)) ∧
      (∀ a, a < slotBase (5 * (h.val / 4) + k) ∨ slotBase (5 * (h.val / 4) + k) + 0x1800000 ≤ a →
        t.mem.dev.byte a = s.mem.dev.byte a) ∧
      t.mem.dev.wf = true ∧ (∀ l, l ≠ h.val → t.slotOfHive l = s.slotOfHive l) ∧ t.hive.hives = s.hive.hives ∧
      Kept [.dev, .hive] s t) ∧
  (∀ (h : Hive) (k : Nat) (s : State), s.movingTo h.val = some k → s.slotOfHive h.val ≠ 5 * (h.val / 4) + k →
    s.slotFailed (s.slotOfHive h.val) = true ∨ s.slotFailed (5 * (h.val / 4) + k) = true ∨
      (s.hiveIn (5 * (h.val / 4) + k)).isSome = true → s.sync.held = [] →
    ∃ t, exec (.hiveMove h) s = .next t ∧ t.movingTo h.val = none ∧ t.slotOfHive h.val = s.slotOfHive h.val ∧
      t.hive.hives = s.hive.hives ∧ Kept [.hive] s t) ∧
  (∀ (h : Hive) (k : Nat) (s : State), s.movingTo h.val = some k → s.slotOfHive h.val = 5 * (h.val / 4) + k →
    s.sync.held = [] →
    ∃ t, exec (.hiveMoveDone h) s = .next t ∧ t.movingTo h.val = none ∧ t.slotOfHive h.val = s.slotOfHive h.val ∧
      (∀ l, l ≠ h.val → t.movingTo l = s.movingTo l) ∧ Kept [.hive] s t) ∧
  (∀ (h : Hive) (k x p n g q i : Nat) (s : State), s.movingTo h.val = some k → s.slotOfHive h.val = 5 * (h.val / 4) + k →
    (∀ l, l ≠ h.val → s.movingTo l = none) → s.sync.held = [.signal x p n (.queue g q i)] →
    s.joins (sectorOfHive g) (sectorOfObject false p) = true → s.counterFull p n = false → s.overrun p n = false →
    s.sync.watches = [] →
    ∃ t, exec (.hiveMoveDone h) s = .next t ∧ t.movingTo h.val = none ∧ t.sync.held = [] ∧
      t.counter p = { s.counter p with value := (s.counter p).value + n } ∧
      (∀ q, q ≠ p → t.counter q = s.counter q) ∧ Kept [.hive, .sync] s t) ∧
  (∀ (h : Hive) (s : State), s.movingTo h.val = none →
    exec (.hiveMove h) s = .next s ∧ exec (.hiveMoveDone h) s = .next s) ∧
  (∀ (h : Hive) (k : Nat) (s : State), s.movingTo h.val = some k → s.slotFailed (s.slotOfHive h.val) = false →
    s.slotFailed (5 * (h.val / 4) + k) = false → s.hiveIn (5 * (h.val / 4) + k) = none →
    s.hiveFree h.val = false ∨ s.hive.halt = true → exec (.hiveMove h) s = .next s) ∧
  (∀ (d : Die) (k l : Nat) (s : State), s.rotation d.val = some (k, l) →
    s.sinceRotation d.val (s.field Off.thmHiveRot 15 0) = true →
    ∃ t, exec (.hiveRotation d) s = .next t ∧ t.movingTo l = some k ∧ sget 0 t.hive.lastRotation d.val = s.clk.now ∧
      (∀ m, m ≠ l → t.movingTo m = s.movingTo m) ∧ t.hive.hives = s.hive.hives ∧ t.hive.slotOf = s.hive.slotOf ∧
      Kept [.hive] s t) ∧
  (∀ (d : Die) (k l : Nat) (a b : Int) (s : State), s.rotation d.val = some (k, l) → s.flag Off.thmTjCfg 8 = true →
    s.activeTemp d.val k = some a → s.slotTemp d.val k = some b → (s.tjTarget : Int) - 5 ≤ a → b + 10 ≤ a →
    s.sinceRotation d.val 2 = true →
    ∃ t, exec (.earlyRotation d) s = .next t ∧ t.movingTo l = some k ∧ sget 0 t.hive.lastRotation d.val = s.clk.now ∧
      Kept [.hive] s t) ∧
  (∀ (d : Die) (s : State), s.rotation d.val = none →
    exec (.hiveRotation d) s = .next s ∧ exec (.earlyRotation d) s = .next s) ∧
  (∀ (d : Die) (s : State), s.flag Off.thmTjCfg 8 = false ∨ s.sinceRotation d.val 2 = false →
    exec (.earlyRotation d) s = .next s) ∧
  (∀ (d : Die) (s : State), s.sinceRotation d.val (s.field Off.thmHiveRot 15 0) = false →
    exec (.hiveRotation d) s = .next s)

/-- A hive that fails has its slot failed and the open steps of the contexts that own it to be replayed; on a die without a spare
three slots do its work and takeover is asked for; a spare that fails is retired. At the step boundary the die's spare takes the
number of a failed hive with a store of zeros, and the slot is retired. An uncorrectable word of a hive store fails the hive; one of a comb die has its line due
for a spare; a corrected one is logged and nothing else (01 R16; 06 R112, R115; 09 R187, R189).

SELF_TEST is turned away while another runs; it holds the spares of its dies, runs its items and writes its 128 result bytes
(09 R190, R191; 13 R285). Whether an item passes is a free value (log 9). -/
def Obligations.HiveFailureScrubAndSelfTest : Prop :=
  (∀ (p : Slot) (l k : Nat) (s : State), s.slotFailed p.val = false → s.hiveIn p.val = some l →
    s.spareSlot (p.val / 5) = some k →
    ∃ t, exec (.hiveFailure p) s = .next t ∧ t.slotFailed p.val = true ∧
      (∀ x, x < 64 → s.ctxEnabled x = true → s.ownsHive x l = true → s.stepOpen x = true → (s.ctx x).fault = none →
        (t.ctx x).fault = some (.replay, 0x30)) ∧
      (∀ x, s.stepOpen x = false → t.ctx x = s.ctx x) ∧ t.hive.hives = s.hive.hives ∧ t.hive.slotOf = s.hive.slotOf ∧
      Kept [.hive, .ctxs] s t) ∧
  (∀ (p : Slot) (l : Nat) (s : State), s.slotFailed p.val = false → s.hiveIn p.val = some l →
    s.spareSlot (p.val / 5) = none → s.dieMoving (p.val / 5) = false → sget false s.hive.three (p.val / 5) = false →
    ∃ t, exec (.hiveFailure p) s = .next t ∧ t.slotFailed p.val = true ∧ sget false t.hive.three (p.val / 5) = true ∧
      t.out = (s.takeoverReq 0x31 p.val).out ∧ Kept [.hive, .ctxs, .out] s t) ∧
  (∀ (p : Slot) (s : State), s.slotFailed p.val = false → s.hiveIn p.val = none →
    ∃ t, exec (.hiveFailure p) s = .next t ∧ t.slotFailed p.val = true ∧
      t.fw.dev0.repair.slots = p.val :: s.fw.dev0.repair.slots ∧ t.fw.dev1.repair.slots = p.val :: s.fw.dev1.repair.slots ∧
      t.log.seq = s.log.seq + 1 ∧ Kept (.hive :: .fw :: logAreas) s t ∧ RegsKept logRegs s t) ∧
  (∀ (p : Slot) (s : State), s.slotFailed p.val = true → exec (.hiveFailure p) s = .next s) ∧
  (∀ (d : Die) (l k : Nat) (s : State), s.toReplace d.val = some l → s.spareSlot d.val = some k → k < 5 →
    s.slotFailed (s.slotOfHive l) = true →
    ∃ t, exec (.hiveReplacement d) s = .next t ∧ t.slotOfHive l = 5 * (l / 4) + k ∧
      (∀ o, o < 0x1800000 → t.mem.dev.byte (slotBase (5 * d.val + k) + o) = 0) ∧
      (∀ a, a < slotBase (5 * d.val + k) ∨ slotBase (5 * d.val + k) + 0x1800000 ≤ a →
        t.mem.dev.byte a = s.mem.dev.byte a) ∧ t.hive.hives = s.hive.hives ∧
      (∀ m, m ≠ l → t.slotOfHive m = s.slotOfHive m) ∧ t.fw.dev0.repair.slots = s.slotOfHive l :: s.fw.dev0.repair.slots ∧
      t.fw.dev1.repair.slots = s.slotOfHive l :: s.fw.dev1.repair.slots ∧ t.log.seq = s.log.seq + 1 ∧
      Kept ([.dev, .hive, .ctxs, .fw] ++ logAreas) s t ∧ RegsKept logRegs s t) ∧
  (∀ (d : Die) (l : Nat) (s : State), s.toReplace d.val = some l → s.spareSlot d.val = none →
    s.slotFailed (s.slotOfHive l) = true → s.slotOfHive l / 5 = d.val → s.dieMoving d.val = false →
    sget false s.hive.three d.val = false →
    ∃ t, exec (.hiveReplacement d) s = .next t ∧ sget false t.hive.three d.val = true ∧
      t.out = (s.takeoverReq 0x31 (s.slotOfHive l)).out ∧ Kept [.hive, .out] s t) ∧
  (∀ (d : Die) (s : State), s.toReplace d.val = none → exec (.hiveReplacement d) s = .next s) ∧
  (∀ (a : BitVec 48) (s : State), exec (.sramScrub a .none) s = .next s) ∧
  (∀ (a : BitVec 48) (s : State), sramAt (a.toNat / 8 * 8) = true →
    ∃ t, exec (.sramScrub a .corrected) s = .next t ∧ t.log.seq = s.log.seq + 1 ∧ Kept logAreas s t ∧ RegsKept logRegs s t) ∧
  (∀ (a : BitVec 48) (s : State), sramAt (a.toNat / 8 * 8) = true → 0x11000000000 ≤ a.toNat / 8 * 8 →
    ∃ t, exec (.sramScrub a .uncorrectable) s = .next t ∧
      t.slotFailed ((a.toNat / 8 * 8 - 0x11000000000) / 0x2000000) = true ∧ t.mem.dev = s.mem.dev) ∧
  (∀ (a : BitVec 48) (s : State), sramAt (a.toNat / 8 * 8) = true → a.toNat / 8 * 8 < 0x11000000000 →
    ∃ t, exec (.sramScrub a .uncorrectable) s = .next t ∧
      (a.toNat / 8 * 8) / 64 * 64 ∈
        (sget ({} : CombSt) t.combs ((a.toNat / 8 * 8 - 0x10000000000) / 0x40000000)).due ∧ t.mem.dev = s.mem.dev ∧
      t.hive = s.hive) ∧
  (∀ (a : BitVec 48) (e : SramError) (s : State), sramAt (a.toNat / 8 * 8) = false → exec (.sramScrub a e) s = .next s) ∧
  (∀ (x : Ctx) (d : Cmd) (s : State), s.startableOp x.val 0x13 = some d → s.Live x.val d → s.testBusy d = true →
    ∃ t, exec (.selfTest x) s = .next t ∧ Answers s t x.val d stBusy 0 ∧ t.hive = s.hive ∧ CtxsKept x.val s t ∧ Kept [.ctxs] s t) ∧
  (∀ (x : Ctx) (d : Cmd) (s : State), s.startableOp x.val 0x13 = some d → s.testBusy d = false → d.items < 4 →
    ∃ t v, exec (.selfTest x) s = .next t ∧ t.hive.test = some v ∧ v.x = x.val ∧ v.idx = d.idx ∧ v.items = d.items ∧ v.ran = 0 ∧
      (∀ e, e ∈ v.dies → sget false t.hive.spareHeld e = true ∧ (s.spareSlot e).isSome = true) ∧
      (t.ctx x.val).entries = (s.ctx x.val).entries ∧ t.hive.hives = s.hive.hives ∧ CtxsKept x.val s t ∧
      Kept [.ctxs, .hive] s t) ∧
  (∀ (x : Ctx) (v : SelfTest) (d : Cmd) (i : Nat) (s : State), s.startableOp x.val 0x13 = none → s.hive.test = some v →
    v.x = x.val → (s.ctx x.val).cmd v.idx = some d → s.testReady v d = true → (itemsOf v.items)[v.ran]? = some i → 2 ≤ i →
    ∃ t u, exec (.selfTest x) s = .next t ∧ t.hive.test = some u ∧ u.ran = v.ran + 1 ∧
      (sget 0 u.codes (64 + i) = 1 ∨ (sget 0 u.codes (64 + i) = 2 ∧ t.log.seq = s.log.seq + 1)) ∧
      (i = 6 → t.flag Off.pwrLimitStat 30 = false) ∧ t.ctxs = s.ctxs ∧ Kept ([.hive, .pwr] ++ logAreas) s t) ∧
  (∀ (x : Ctx) (v : SelfTest) (d : Cmd) (i k : Nat) (e : Nat) (s : State), s.startableOp x.val 0x13 = none →
    s.hive.test = some v → v.x = x.val → (s.ctx x.val).cmd v.idx = some d → s.testReady v d = true →
    (itemsOf v.items)[v.ran]? = some i → i < 2 → v.dies = [e] → s.spareSlot e = some k →
    sget false s.hive.spareHeld e = true → sget 0 v.codes e ≠ 2 →
    ∃ t u, exec (.selfTest x) s = .next t ∧ t.hive.test = some u ∧ u.ran = v.ran + 1 ∧
      ((sget 0 u.codes e = 1 ∧ t.hive.failed = s.hive.failed ∧ t.fw = s.fw ∧ (i = 0 → s.slotBad (5 * e + k) = false)) ∨
        (sget 0 u.codes e = 2 ∧ sget false t.hive.failed (5 * e + k) = true ∧ sget false t.hive.spareHeld e = false ∧
          t.fw.dev0.repair.slots = (5 * e + k) :: s.fw.dev0.repair.slots ∧ t.log.seq = s.log.seq + 1)) ∧
      t.hive.hives = s.hive.hives ∧ t.ctxs = s.ctxs ∧ Kept ([.hive, .fw] ++ logAreas) s t) ∧
  (∀ (x : Ctx) (v : SelfTest) (d : Cmd) (s : State), s.startableOp x.val 0x13 = none → s.hive.test = some v →
    v.x = x.val → v.idx = d.idx → s.Live x.val d → s.testReady v d = true → (itemsOf v.items)[v.ran]? = none →
    d.resultAddr + 128 ≤ 0x10000000000 → s.isProtected d.resultAddr 128 = false →
    ∃ t, exec (.selfTest x) s = .next t ∧ t.hive.test = none ∧ t.hive.spareHeld = [] ∧ Answers s t x.val d stOk v.result ∧
      t.mem.dev.bytes d.resultAddr 128 = v.bytes ∧
      (∀ a, a < d.resultAddr ∨ d.resultAddr + 128 ≤ a → t.mem.dev.byte a = s.mem.dev.byte a) ∧ CtxsKept x.val s t ∧
      Kept [.ctxs, .hive, .dev, .bad, .lnk, .stks] s t) ∧
  (∀ (x : Ctx) (v : SelfTest) (d : Cmd) (s : State), s.startableOp x.val 0x13 = none → s.hive.test = some v →
    v.x = x.val → v.idx = d.idx → s.Live x.val d → s.testReady v d = true → (itemsOf v.items)[v.ran]? = none →
    s.isProtected d.resultAddr 128 = true →
    ∃ t, exec (.selfTest x) s = .next t ∧ t.hive.test = none ∧ t.hive.spareHeld = [] ∧
      Answers s t x.val d stBadAddress v.result ∧ CtxsKept x.val s t ∧ Kept [.ctxs, .hive, .lnk] s t) ∧
  (∀ (x : Ctx) (v : SelfTest) (d : Cmd) (s : State), s.startableOp x.val 0x13 = none → s.hive.test = none ∨
      (s.hive.test = some v ∧ (v.x ≠ x.val ∨ ((s.ctx x.val).cmd v.idx = some d ∧ s.testReady v d = false))) →
    exec (.selfTest x) s = .next s)

/-- SETX, ADDX, BLT, NOP and END execute at fetch: SETX and ADDX write X1 to X7, BLT branches where its register is below the limit,
END stops fetch; the slot index goes on, and nothing outside the hive changes but the bus time that the fetch is charged (04 R63, R64, R66; 07 R121). -/
def Obligations.ControlRowsExecuteAtFetch : Prop :=
  ∀ (h : Hive) (x : Nat) (s : State),
    (∀ r w, s.NextInsn h.val x .setx (.setx r w) →
      ∃ t, exec (.setx h) s = .next t ∧
        t.hiveSt h.val = { s.hiveSt h.val with xs := (s.hiveSt h.val).xs.set (r - 1) w, pos := s.nextPos h.val x } ∧
        HivesKept h.val s t ∧ Kept [.hive, .stks] s t) ∧
    (∀ r w, s.NextInsn h.val x .addx (.addx r w) →
      ∃ t, exec (.addx h) s = .next t ∧
        t.hiveSt h.val = { s.hiveSt h.val with
          xs := (s.hiveSt h.val).xs.set (r - 1) ((s.hiveSt h.val).xs.getD (r - 1) 0 + w), pos := s.nextPos h.val x } ∧
        HivesKept h.val s t ∧ Kept [.hive, .stks] s t) ∧
    (∀ r l g, s.NextInsn h.val x .blt (.blt r l g) →
      ∃ t, exec (.blt h) s = .next t ∧
        t.hiveSt h.val = { s.hiveSt h.val with
          pos := if (s.hiveSt h.val).xs.getD (r - 1) 0 < l then g else s.nextPos h.val x } ∧
        HivesKept h.val s t ∧ Kept [.hive, .stks] s t) ∧
    (s.NextInsn h.val x .nop .nop →
      ∃ t, exec (.nop h) s = .next t ∧ t.hiveSt h.val = { s.hiveSt h.val with pos := s.nextPos h.val x } ∧
        HivesKept h.val s t ∧ Kept [.hive, .stks] s t) ∧
    (s.NextInsn h.val x .endStream .endStream →
      ∃ t, exec (.endStream h) s = .next t ∧
        t.hiveSt h.val = { s.hiveSt h.val with pos := s.nextPos h.val x, ended := true, fetching := false } ∧
        HivesKept h.val s t ∧ Kept [.hive, .stks] s t)

/-- TILE, DRAIN, WOP, COPY, CONVERT, TRANSPOSE, ADD_WRITE, GATHER, SCATTER_ADD, SIGNAL, WAIT and BARRIER enter the tail of their
queue, which runs in order as far as it can; one whose queue is empty and which completes leaves its queue empty and its effect
behind; a queue with 64 entries stalls fetch (04 R64, R67). -/
def Obligations.QueuedRowsRunInOrder : Prop :=
  ∀ (h : Hive) (x q : Nat) (row : HiveRow) (i : Insn) (op : Op) (v : HiveState) (s : State),
    (s.Queues h.val x row i q op v →
      exec (row.command h) s = .next ((State.pump 65 (s.placed h.val x q op v) h.val q).drainQueues h.val)) ∧
    (∀ u, s.Queues h.val x row i q op v → v.queue q = [] → q < v.queues.length → (s.ctx x).fault = none →
      (s.placed h.val x q op v).runEntry x h.val q v.mode { pos := v.pos, op := op } = .done u →
      (u.ctx x).fault = none → (u.hiveSt h.val).queues.length = v.queues.length →
      exec (row.command h) s = .next ((u.emptied h.val q).drainQueues h.val)) ∧
    (s.NextInsn h.val x row i → i.queue = some q → 64 ≤ ((s.hiveSt h.val).queue q).length →
      exec (row.command h) s = .next s)

/-- What the entries do at the head of their queue: a TILE, DRAIN or WOP its engine's operation, its accesses to stacks charged, held
while a sluice that they pass is shut or a scale array or map of theirs is out of reach; a transfer its moves, held likewise; a SIGNAL its
increment, a WAIT nothing once its condition holds and else it holds its queue, a BARRIER its arrival, unless it is two rounds ahead or its slot's hive moves,
and then it holds; a queue that is no participant fails (01 R7; 04 R65, R67; 06 R109, R117; 07 R121, R122; 10 R194, R201, R205). -/
def Obligations.EntriesExecute : Prop :=
  ∀ (x h q mode : Nat) (i : QItem) (s u : State),
    (∀ o, i.op = .tile o → s.runEntry x h q mode i = s.runOp h i (s.tileReads x h o) [] (s.runTile x h mode o)) ∧
    (∀ o, i.op = .drain o →
      s.runEntry x h q mode i = s.runOp h i (s.drainReads x h mode o) (s.drainOuts x h mode o) (s.runDrain x h mode o)) ∧
    (∀ o, i.op = .wop o →
      s.runEntry x h q mode i = s.runOp h i (s.wopIns x h o ++ s.wopOwn x h o) (s.wopOuts x h o) (s.runWop x h mode o)) ∧
    (∀ rd wr, (extentEnds (rd ++ wr)).any s.onMove = false → s.reachesAll (sectorOfHive h) (extentEnds (rd ++ wr)) = true →
      s.sluicesOpen (rd ++ wr) = true → s.runOp h i rd wr (.ok u) = .done ((u.chargeAll rd).chargeAll wr true)) ∧
    (∀ rd wr, (extentEnds (rd ++ wr)).any s.onMove = true ∨ s.reachesAll (sectorOfHive h) (extentEnds (rd ++ wr)) = false →
      s.runOp h i rd wr (.ok u) = .hold s i) ∧
    (∀ rd wr, (extentEnds (rd ++ wr)).any s.onMove = false → s.reachesAll (sectorOfHive h) (extentEnds (rd ++ wr)) = true →
      s.sluicesOpen (rd ++ wr) = false → s.runOp h i rd wr (.ok u) = .hold (s.waitsAll (rd ++ wr)) i) ∧
    (∀ rd wr st, s.runOp h i rd wr (.error st) = .fail s st) ∧
    (∀ d, i.op = .dma d → s.dmaHeld x (some (sectorOfHive h)) d = false → s.sluicesOpen (s.dmaExtents x d) = true →
      (s.runDma x d (some (h, mode))).status = stOk → (s.runDma x d (some (h, mode))).bad = none →
      s.runEntry x h q mode i = .done ((s.runDma x d (some (h, mode))).s.markHost h d i.pos)) ∧
    (∀ d, i.op = .dma d → s.dmaHeld x (some (sectorOfHive h)) d = true → s.runEntry x h q mode i = .hold s i) ∧
    (∀ d, i.op = .dma d → s.dmaHeld x (some (sectorOfHive h)) d = false → s.sluicesOpen (s.dmaExtents x d) = false →
      s.runEntry x h q mode i = .hold (s.waitsAll (s.dmaExtents x d)) i) ∧
    (∀ a id n, i.op = .signal a id n → s.isLocal (s.xl x id) = true → s.accepted x (s.xl x id) = true →
      s.counterFull (s.xl x id).object n = false → s.overrun (s.xl x id).object n = false →
      s.homeAway (sectorOfHive h) false (s.xl x id).object = false → s.sync.watches = [] →
      s.runEntry x h q mode i = .done (s.setCounter (s.xl x id).object
        { s.counter (s.xl x id).object with value := (s.counter (s.xl x id).object).value + n })) ∧
    (∀ id g, i.op = .wait id g → s.waitMet x id g (waitTag h q) = true →
      s.runEntry x h q mode i = .done (s.clearRelease (waitTag h q) id)) ∧
    (∀ id g, i.op = .wait id g → s.waitMet x id g (waitTag h q) = false → i.held = true →
      s.runEntry x h q mode i = .hold s i) ∧
    (∀ id p, i.op = .barrier id → s.partIndex (s.xl x id).object (.queue h q) = some p → s.accepted x (s.xl x id) = true →
      s.homeAway (sectorOfHive h) true (s.xl x id).object = false → i.held = false → s.mayArrive (s.xl x id).object p = true →
      (s.xl x id).hold = false →
      s.runEntry x h q mode i = .done (s.arriveAt (s.xl x id).object p)) ∧
    (∀ id p, i.op = .barrier id → s.partIndex (s.xl x id).object (.queue h q) = some p → s.accepted x (s.xl x id) = true →
      s.homeAway (sectorOfHive h) true (s.xl x id).object = false → i.held = false → s.mayArrive (s.xl x id).object p = false →
      s.runEntry x h q mode i = .hold s { i with held := true, since := s.clk.now }) ∧
    (∀ id p, i.op = .barrier id → s.partIndex (s.xl x id).object (.queue h q) = some p →
      s.homeAway (sectorOfHive h) true (s.xl x id).object = true → s.runEntry x h q mode i = .hold s i) ∧
    (∀ id, i.op = .barrier id → s.partIndex (s.xl x id).object (.queue h q) = none →
      s.runEntry x h q mode i = .fail s stBadDescriptor)

/-- COPY moves bytes: in stack memory its destination then holds what its source held, and no other byte, register, counter or context
changes, but for the bus time that its accesses are charged (04 Table 4-6, R70; 07 R121). -/
def Obligations.CopyMovesBytes : Prop :=
  ∀ (x : Nat) (d : DmaOp) (s : State), d.mode = 0 → d.src + d.count ≤ 0x10000000000 → d.dst + d.count ≤ 0x10000000000 →
    s.mayAccess x d.src d.count = true → s.mayAccess x d.dst d.count = true → s.isProtected d.dst d.count = false →
    s.mem.bad = [] →
    ∃ t, s.runDma x d none = { s := t, status := stOk } ∧ t.mem.dev.bytes d.dst d.count = s.mem.dev.bytes d.src d.count ∧
      (∀ a, a < d.dst ∨ d.dst + d.count ≤ a → t.mem.dev.byte a = s.mem.dev.byte a) ∧ Kept [.dev, .stks] s t

/-- A stream at its length, a reserved encoding and a failed check fail the run: its status stands with the hive and slot that found it,
its hives stop fetching, and a second failure changes neither; a stream that cannot be read stops the step (04 R65, 06 R115, 07 R137,
13 Table 13-4).

A finished run completes its command, with OK or the status of its first failure and its RESULT, and its hives are free; a
suspended one whose queues are empty reports SUSPENDED once and keeps them; a SUSPEND that waits for a run that ends completes with it
(04 R64, R65; 12 Table 12-5; 13 R273). -/
def Obligations.FetchFailureAndRunEnd : Prop :=
  (∀ (h : Hive) (x : Nat) (row : HiveRow) (s : State), s.FetchFails h.val x row →
    exec (row.command h) s = .next ((s.failRun h.val (s.hiveSt h.val).pos stBadDescriptor).drainQueues h.val)) ∧
  (∀ (h : Hive) (x st : Nat) (row : HiveRow) (i : Insn) (s : State), s.CheckFails h.val x row i st →
    exec (row.command h) s = .next (((s.fetched h.val x).failRun h.val (s.hiveSt h.val).pos st).drainQueues h.val)) ∧
  (∀ (h : Hive) (x i a : Nat) (row : HiveRow) (r : Run) (s : State), (s.hiveSt h.val).run = some (x, i) → s.fetching h.val = true →
    (s.hiveSt h.val).pos < (s.hiveSt h.val).len → s.badAmong (s.fetchReads x (s.hiveSt h.val)) = some a →
    a < 0x10400000000 → (s.ctx x).fault = none → (s.ctx x).runs = [r] → r.idx = i → r.hives = [h.val] → (s.hiveSt h.val).queues = List.replicate 6 [] →
    ∃ t, exec (row.command h) s = .next t ∧ (t.ctx x).fault.isSome = true ∧ (t.hiveSt h.val).fetching = false ∧
      (t.ctx x).runs = [{ r with fail := some (stStepReplayed, h.val * 2 ^ 24 + (s.hiveSt h.val).pos % 2 ^ 24) }]) ∧
  (∀ (h x i p st : Nat) (r : Run) (s : State), (s.hiveSt h).run = some (x, i) →
    (s.ctx x).runs.find? (fun r => r.idx == i) = some r → r.fail.isSome = true →
    (s.failRun h p st).ctx x = s.ctx x) ∧
  (∀ (h x i p st : Nat) (r : Run) (s : State), (s.hiveSt h).run = some (x, i) →
    (s.ctx x).runs.find? (fun r => r.idx == i) = some r → r.fail = none →
    ∃ r', ((s.failRun h p st).ctx x).runs.find? (fun r => r.idx == i) = some r' ∧
      r'.fail = some (st, h * 2 ^ 24 + p % 2 ^ 24) ∧
      (∀ g, g ∈ r.hives → ((s.failRun h p st).hiveSt g).fetching = false) ∧ Kept [.hive, .ctxs] s (s.failRun h p st)) ∧
  (∀ (h : Hive) (row : HiveRow) (s : State), s.fetching h.val = false → exec (row.command h) s = .next s) ∧
  (∀ (x : Ctx) (r : Run) (d : Cmd) (s : State), s.doneRun x.val = some r → s.Live x.val d → d.idx = r.idx →
    ∃ t, exec (.runComplete x) s = .next t ∧
      Answers s t x.val d ((r.fail.map Prod.fst).getD stOk) ((r.fail.map Prod.snd).getD 0) ∧
      (∀ h, h ∈ r.hives → t.hiveSt h = {}) ∧ (∀ h, h ∉ r.hives → t.hiveSt h = s.hiveSt h) ∧
      (t.ctx x.val).runs = (s.ctx x.val).runs.filter (fun q => q.idx != r.idx) ∧ CtxsKept x.val s t ∧
      Kept [.hive, .ctxs] s t) ∧
  (∀ (x : Ctx) (s : State), s.doneRun x.val = none → exec (.runComplete x) s = .next s) ∧
  (∀ (x : Ctx) (r : Run) (d : Cmd) (s : State), (s.ctx x.val).runs = [r] → r.suspended = true → r.fail = none →
    r.hives.all (fun h => (s.hiveSt h).idle) = true → s.Live x.val d → d.idx = r.idx → d.suspended = false →
    (∀ e, e ∈ (s.ctx x.val).cmds → e.opcode ≠ 0x18) →
    ∃ t, exec (.runSuspended x) s = .next t ∧ Answers s t x.val d stSuspended 0 ∧
      ((t.ctx x.val).cmd d.idx).map (·.suspended) = some true ∧ t.hive = s.hive ∧ (t.ctx x.val).runs = [r] ∧
      CtxsKept x.val s t ∧ Kept [.ctxs] s t) ∧
  (∀ (x : Ctx) (r : Run) (d e : Cmd) (s : State), s.doneRun x.val = some r → (s.ctx x.val).cmds = [d, e] → d.live = true →
    e.opcode = 0x18 → e.acted = true → e.live = true → d.idx = r.idx → e.f 95 64 = r.idx → d.idx ≠ e.idx →
    (s.ctx x.val).suspends d.idx = [e] →
    ∃ t, exec (.runComplete x) s = .next t ∧ (t.ctx x.val).entries = (s.ctx x.val).entries ++
      [(s.ctx x.val).entryOf d ((r.fail.map Prod.fst).getD stOk) ((r.fail.map Prod.snd).getD 0), (s.ctx x.val).entryOf e stOk 0]) ∧
  (∀ (x : Ctx) (s : State), (s.ctx x.val).runs = [] → exec (.runSuspended x) s = .next s)

/-- A signal message at its home: fresh, of the counter's generation and from an accepted origin, it adds its increment; one that would
pass 2^48 - 1 or overrun its channel is refused and logged, and fails the step of a sender of this module; one for a counter of a
moving hive is held; one of another generation or origin is dropped, with the first in a millisecond logged
(10 R192, R193, R197, R200, R203). -/
def Obligations.SignalMessageAtItsHome : Prop :=
  (∀ (m : SyncMsg) (s : State), m.type = 1 → s.msgWaits m = false → s.tooOld m = false → m.gen = (s.counter m.object.toNat).gen →
    s.originOk false m = true → s.counterFull m.object.toNat m.value.toNat = false →
    s.overrun m.object.toNat m.value.toNat = false → s.sync.watches = [] →
    ∃ t, exec (.signalMessage m) s = .next t ∧
      t.counter m.object.toNat = { s.counter m.object.toNat with value := (s.counter m.object.toNat).value + m.value.toNat } ∧
      (∀ p, p ≠ m.object.toNat → t.counter p = s.counter p) ∧ t.sync.barriers = s.sync.barriers ∧ Kept [.sync] s t) ∧
  (∀ (m : SyncMsg) (s : State), m.type = 1 → s.msgWaits m = false → s.tooOld m = false → m.gen = (s.counter m.object.toNat).gen →
    s.originOk false m = true → s.counterFull m.object.toNat m.value.toNat = true ∨
      s.overrun m.object.toNat m.value.toNat = true →
    ∃ t, exec (.signalMessage m) s = .next t ∧ t.sync.counters = s.sync.counters ∧ t.log.seq = s.log.seq + 1 ∧
      (m.origin.toNat = s.moduleNo → (s.ctx m.ctx.toNat).fault = none →
        (t.ctx m.ctx.toNat).fault.map Prod.fst = some .fail) ∧
      (m.origin.toNat ≠ s.moduleNo → t.ctxs = s.ctxs) ∧ CtxsKept m.ctx.toNat s t ∧
      Kept (.sync :: .ctxs :: logAreas) s t ∧ RegsKept logRegs s t) ∧
  (∀ (m : SyncMsg) (s : State), m.type = 1 → s.msgWaits m = false → s.tooOld m = false →
    m.gen ≠ (s.counter m.object.toNat).gen ∨ s.originOk false m = false →
    ∃ t, exec (.signalMessage m) s = .next t ∧ t.sync.counters = s.sync.counters ∧ t.sync.barriers = s.sync.barriers ∧
      (∀ x, s.ownerOf false m.object.toNat = some x →
        t.field (Off.synCtxSync x) 15 0 = min (s.field (Off.synCtxSync x) 15 0 + 1) 65535) ∧
      t.log.seq = (if s.sync.dropMs = s.clk.now / 1000000000 + 1 then s.log.seq else s.log.seq + 1) ∧
      Kept (.sync :: logAreas) s t) ∧
  (∀ (m : SyncMsg) (s : State), m.type = 1 → s.msgWaits m = false → s.tooOld m = true →
    ∃ t, exec (.signalMessage m) s = .next t ∧ t.sync.counters = s.sync.counters ∧ t.sync.barriers = s.sync.barriers ∧
      t.out = (s.reportDiscard m s.moduleNo).out ∧
      (∀ x, s.ownerOf false m.object.toNat = some x → m.origin.toNat ≠ s.moduleNo → (s.ctx x).state ≠ 0 →
        (s.ctx x).fault = none → (t.ctx x).fault = some (.fail, stStepFailed)) ∧
      Kept [.sync, .regs, .out, .ctxs, .lnk] s t) ∧
  (∀ (m : SyncMsg) (s : State), m.type = 1 → s.msgWaits m = true →
    ∃ t, exec (.signalMessage m) s = .next t ∧ t.sync.held = s.sync.held ++ [.message m none] ∧
      t.sync.counters = s.sync.counters ∧ t.sync.barriers = s.sync.barriers ∧ Kept [.sync] s t)

/-- A watch is kept at its home, or, its target reached, answered with a release that carries the step count; a release meets the held
wait that it matches and is else dropped (10 R202).

A held waiter whose condition holds goes on; one held beyond SYN.WAIT_LIMIT is logged once and goes on waiting; a message
too old, wherever it waits, is discarded, with both modules told and the sender's or home's step failed (10 R199, R202, R210). -/
def Obligations.WaitsWatchesAndReleases : Prop :=
  (∀ (m : SyncMsg) (s : State), m.type = 2 → watchesBarrier m = false → s.msgWaits m = false → s.tooOld m = false →
    m.gen = (s.counter m.object.toNat).gen →
    s.originOk false m = true → s.sync.watches = [] → s.stepCount m.object.toNat < m.value.toNat →
    ∃ t, exec (.watchMessage m) s = .next t ∧
      t.sync.watches = [⟨false, m.object.toNat, m.value.toNat, m.origin.toNat, m.ctx.toNat, m.tag.toNat, m.gen⟩] ∧
      t.sync.counters = s.sync.counters ∧ Kept [.sync] s t) ∧
  (∀ (m : SyncMsg) (s : State), m.type = 2 → watchesBarrier m = false → s.msgWaits m = false → s.tooOld m = false →
    m.gen = (s.counter m.object.toNat).gen →
    s.originOk false m = true → s.sync.watches = [] → m.value.toNat ≤ s.stepCount m.object.toNat →
    ∃ t o, exec (.watchMessage m) s = .next t ∧ t.sync.watches = [] ∧ t.sync.outbox.getLast? = some o ∧
      o.dest = m.origin.toNat ∧ o.msg.type = 3 ∧ o.msg.tag = m.tag ∧ o.msg.gen = m.gen ∧ o.msg.object = m.object ∧
      o.msg.ctx = m.ctx ∧ o.msg.value.toNat = s.stepCount m.object.toNat % 2 ^ 48 ∧ t.sync.counters = s.sync.counters ∧
      Kept [.sync] s t) ∧
  (∀ (m : SyncMsg) (i : Nat) (s : State), m.type = 3 → s.tooOld m = false → s.releaseFor m = some i →
    ∃ t, exec (.releaseMessage m) s = .next t ∧ t.sync.released = s.sync.released ++ [(m.tag.toNat % barrierTag, i)] ∧
      t.sync.counters = s.sync.counters ∧ Kept [.sync] s t) ∧
  (∀ (m : SyncMsg) (s : State), m.type = 3 → s.tooOld m = false → s.releaseFor m = none →
    ∃ t, exec (.releaseMessage m) s = .next t ∧ t.sync.released = s.sync.released ∧
      t.field (Off.synCtxSync m.ctx.toNat) 15 0 = min (s.field (Off.synCtxSync m.ctx.toNat) 15 0 + 1) 65535 ∧
      Kept (.sync :: logAreas) s t) ∧
  (∀ (x : Ctx) (d : Cmd) (s : State), (s.ctx x.val).stopped = false → (s.ctx x.val).mayRun = true →
    (s.ctx x.val).openWaits = [d] → d.opcode = 4 → s.waitMet x.val d.ident (d.f 175 128) (hostTag x.val) = true →
    s.Live x.val d →
    ∃ t, exec (.waitRelease (.host x)) s = .next t ∧ Answers s t x.val d stOk 0 ∧ CtxsKept x.val s t ∧
      t.sync.counters = s.sync.counters ∧ Kept [.ctxs, .sync] s t) ∧
  (∀ (h : Hive) (q : Fin 6) (x i id g : Nat) (e : QItem) (s : State), (s.hiveSt h.val).run = some (x, i) →
    (s.hiveSt h.val).queue q.val = [e] → q.val < (s.hiveSt h.val).queues.length → e.op = .wait id g →
    s.hive.halt = false → s.waitMet x id g (waitTag h.val q.val) = true →
    exec (.waitRelease (.queue h q)) s =
      .next (((s.clearRelease (waitTag h.val q.val) id).emptied h.val q.val).drainQueues h.val)) ∧
  (∀ (i : Nat) (w : Watch) (s : State), s.sync.watches = [w] → i = 0 → w.target ≤ s.stepCount w.object →
    ∃ t, exec (.waitRelease (.remote i)) s = .next t ∧ t.sync.watches = [] ∧
      (t.sync.outbox.getLast?).map (fun o => (o.dest, o.msg.type)) = some (w.origin, 3) ∧ Kept [.sync] s t) ∧
  (∀ (x : Ctx) (d : Cmd) (s : State), (s.ctx x.val).openWaits = [d] → d.logged = false → s.longHeld d.since = true →
    ∃ t, exec (.longWait (.host x)) s = .next t ∧ t.log.seq = s.log.seq + 1 ∧ t.sync = s.sync ∧
      (t.ctx x.val).entries = (s.ctx x.val).entries ∧ CtxsKept x.val s t ∧ Kept (.ctxs :: logAreas) s t ∧
      RegsKept logRegs s t) ∧
  (∀ (h : Hive) (q : Fin 6) (x i id g : Nat) (e : QItem) (r : List QItem) (s : State),
    (s.hiveSt h.val).run = some (x, i) → (s.hiveSt h.val).queue q.val = e :: r → e.op = .wait id g → e.held = true →
    e.logged = false → s.longHeld e.since = true →
    ∃ t, exec (.longWait (.queue h q)) s = .next t ∧ t.log.seq = s.log.seq + 1 ∧ t.sync = s.sync ∧
      HivesKept h.val s t ∧ Kept (.hive :: logAreas) s t ∧ RegsKept logRegs s t) ∧
  (∀ (x : Ctx) (s : State), (s.ctx x.val).openWaits = [] →
    exec (.longWait (.host x)) s = .next s ∧ exec (.waitRelease (.host x)) s = .next s) ∧
  (∀ (i : Nat) (o : OutMsg) (s : State), s.sync.outbox[i]? = some o → s.tooOld o.msg = true →
    o.msg.origin.toNat = s.moduleNo → o.dest ≠ s.moduleNo →
    ∃ t, exec (.messageAgeCheck (.outgoing i)) s = .next t ∧ t.sync = { s.sync with outbox := s.sync.outbox.eraseIdx i } ∧
      t.out = (s.reportDiscard o.msg o.dest).out ∧
      (∀ x, s.senderCtx o.msg = some x → (s.ctx x).state ≠ 0 → (s.ctx x).fault = none →
        (t.ctx x).fault = some (.fail, stStepFailed)) ∧
      (∀ y, s.senderCtx o.msg ≠ some y → t.ctx y = s.ctx y) ∧ Kept [.sync, .regs, .out, .ctxs, .lnk] s t) ∧
  (∀ (i : Nat) (s : State), (∀ o, s.sync.outbox[i]? = some o → s.tooOld o.msg = false) →
    exec (.messageAgeCheck (.outgoing i)) s = .next s) ∧
  (∀ (p : PortCode) (s : State), (∀ k ∈ (s.port p.toNat).packets, ((s.port p.toNat).queued k).2.filter s.tooOld = []) →
    (∀ b ∈ (s.port p.toNat).barges, b.2.heldMsgs.filter s.tooOld = []) →
    exec (.messageAgeCheck (.port p)) s = .next s) ∧
  (∀ (p : PortCode) (k : Packet) (m : SyncMsg) (s : State), (s.port p.toNat).queue = [k] → (s.port p.toNat).barges = [] →
    (s.port p.toNat).outRest = [] → (s.port p.toNat).inPart = [] → packetMsgs k = [m] → s.tooOld m = true → m.origin.toNat ≠ s.moduleNo → k.dest.toNat ≠ s.moduleNo →
    ∃ t, exec (.messageAgeCheck (.port p)) s = .next t ∧ (t.port p.toNat).queue = [] ∧ t.ctxs = s.ctxs ∧
      t.out = (s.reportDiscard m k.dest.toNat).out) ∧
  (∀ (m : SyncMsg) (s : State), s.sync.held = [.message m none] → s.tooOld m = true →
    ∃ t, exec (.messageAgeCheck .home) s = .next t ∧ t.sync = { s.sync with held := [] } ∧
      t.out = (s.reportDiscard m s.moduleNo).out ∧
      (∀ x, s.ownerOf (ofBarrier m) m.object.toNat = some x → (s.ctx x).state ≠ 0 → (s.ctx x).fault = none →
        (t.ctx x).fault = some (.fail, stStepFailed)) ∧ Kept [.sync, .regs, .out, .ctxs, .lnk] s t)

/-- A barrier arrival from another module counts for its participant of a root slot; the arrival that completes a round advances L and
releases it, or, of a slot with a parent elsewhere, sends its arrival there. An accepted barrier release raises the parent's count, and
W follows both counts; one from another parent or generation changes no slot; both are held for a moving hive (10 R200, R205, R206). -/
def Obligations.BarrierMessages : Prop :=
  (∀ (m : SyncMsg) (p : Nat) (s : State), m.type = 4 → s.msgWaits m = false → s.tooOld m = false →
    m.gen = (s.bar m.object.toNat).gen →
    s.originOk true m = true → s.partIndex m.object.toNat (.remote m.origin.toNat m.tag.toNat) = some p →
    s.hasParent m.object.toNat = false →
    ∃ t, exec (.barrierArrivalMessage m) s = .next t ∧ (t.bar m.object.toNat).a p = (s.bar m.object.toNat).a p + 1 ∧
      (∀ j, j ≠ p → (t.bar m.object.toNat).a j = (s.bar m.object.toNat).a j) ∧
      ((∀ j, j < s.barParts m.object.toNat → j ≠ p → (s.bar m.object.toNat).l < (s.bar m.object.toNat).a j) →
        (s.bar m.object.toNat).a p = (s.bar m.object.toNat).l →
        (t.bar m.object.toNat).l = (s.bar m.object.toNat).l + 1 ∧
        (t.bar m.object.toNat).w = max (s.bar m.object.toNat).w ((s.bar m.object.toNat).l + 1)) ∧
      t.sync.counters = s.sync.counters) ∧
  (∀ (m : SyncMsg) (p : Nat) (s : State), m.type = 4 → s.msgWaits m = false → s.tooOld m = false →
    m.gen = (s.bar m.object.toNat).gen → s.originOk true m = true →
    s.partIndex m.object.toNat (.remote m.origin.toNat m.tag.toNat) = some p → s.flag (Off.synBarCfg m.object.toNat) 16 = true →
    s.flag (Off.synBarCfg m.object.toNat) 17 = true → m.object.toNat < 65536 →
    (∀ j, j < s.barParts m.object.toNat → j ≠ p → (s.bar m.object.toNat).l < (s.bar m.object.toNat).a j) →
    (s.bar m.object.toNat).a p = (s.bar m.object.toNat).l →
    ∃ t, exec (.barrierArrivalMessage m) s = .next t ∧ (t.bar m.object.toNat).a p = (s.bar m.object.toNat).a p + 1 ∧
      (t.bar m.object.toNat).l = (s.bar m.object.toNat).l + 1 ∧
      t.sync.outbox.any (fun o => decide (o.msg.type = 4 ∧ o.dest = s.field (Off.synBarCfg m.object.toNat) 31 18 ∧
        o.msg.tag.toNat = m.object.toNat ∧ o.msg.object.toNat = s.field (Off.synBarCfg m.object.toNat) 12 0)) = true ∧
      t.sync.counters = s.sync.counters) ∧
  (∀ (m : SyncMsg) (s : State), m.type = 4 ∨ m.type = 5 → s.msgWaits m = true →
    ∃ t u, exec (.barrierArrivalMessage m) s = .next t ∧ exec (.barrierReleaseMessage m) s = .next u ∧
      (m.type = 4 → t.sync.held = s.sync.held ++ [.message m none]) ∧ (m.type = 5 → u.sync.held = s.sync.held ++ [.message m none]) ∧
      t.sync.barriers = s.sync.barriers ∧ u.sync.barriers = s.sync.barriers ∧ Kept [.sync] s t ∧ Kept [.sync] s u) ∧
  (∀ (m : SyncMsg) (s : State), m.type = 4 → s.msgWaits m = false → s.tooOld m = false →
    m.gen ≠ (s.bar m.object.toNat).gen ∨ s.originOk true m = false →
    ∃ t, exec (.barrierArrivalMessage m) s = .next t ∧ t.sync.barriers = s.sync.barriers ∧
      t.sync.counters = s.sync.counters ∧ Kept (.sync :: logAreas) s t) ∧
  (∀ (m : SyncMsg) (s : State), m.type = 5 → s.msgWaits m = false → s.tooOld m = false →
    (∀ j c, j < s.barParts m.object.toNat → s.part m.object.toNat j ≠ .child c) →
    s.acceptsRelease m.object.toNat m.origin.toNat m.tag.toNat m.gen true = true →
    ∃ t, exec (.barrierReleaseMessage m) s = .next t ∧
      (t.bar m.object.toNat).pw = max (s.bar m.object.toNat).pw m.value.toNat ∧
      (t.bar m.object.toNat).w = max (s.bar m.object.toNat).w ((s.bar m.object.toNat).cw +
        min ((s.bar m.object.toNat).l - (s.bar m.object.toNat).cl) (max (s.bar m.object.toNat).pw m.value.toNat)) ∧
      (t.bar m.object.toNat).arr = (s.bar m.object.toNat).arr ∧ (t.bar m.object.toNat).l = (s.bar m.object.toNat).l ∧
      (∀ n, n ≠ m.object.toNat → t.bar n = s.bar n) ∧ t.sync.counters = s.sync.counters ∧ Kept [.sync] s t) ∧
  (∀ (m : SyncMsg) (s : State), m.type = 5 → s.msgWaits m = false → s.tooOld m = false →
    s.acceptsRelease m.object.toNat m.origin.toNat m.tag.toNat m.gen true = false →
    ∃ t, exec (.barrierReleaseMessage m) s = .next t ∧ t.sync.barriers = s.sync.barriers ∧
      t.sync.counters = s.sync.counters ∧ Kept (.sync :: logAreas) s t)

/-- A write of a translation entry takes its writable bits, keeps a local entry's generation, and touches no other register; a rebind
advances its object's generation and zeroes its counts, at once or, within 1 ms of the last, after it with PENDING shown. Writes
while a run is in progress, or naming an object of another context, are ignored and logged (10 R196, R198).

A write of a barrier slot's set-up takes its writable bits when its writer may write it, no run of its owner is in progress and its limits hold; else
it is ignored and logged (10 R196, R204, R206). -/
def Obligations.SynchronisationSetup : Prop :=
  (∀ (f : Func) (x : Ctx) (i : Fin 4096) (v : Word) (s : State), s.barOpen = true → s.mayWrite f.val .ctx x.val i.val = true →
    s.running x.val = false → (xlOf v.toNat).valid = true → (xlOf v.toNat).kind = 0 → (xlOf v.toNat).remote = false →
    s.ownsCounter x.val (xlOf v.toNat).object = true →
    ∃ t, exec (.xlateWrite f x i v) s = .next t ∧ (t.xl x.val i.val).valid = true ∧ (t.xl x.val i.val).kind = 0 ∧
      (t.xl x.val i.val).object = (xlOf v.toNat).object ∧ (t.xl x.val i.val).hold = (xlOf v.toNat).hold ∧
      (t.xl x.val i.val).gen = (s.xl x.val i.val).gen ∧ (t.xl x.val i.val).dirty = (s.xl x.val i.val).dirty ∧
      Kept [.regs] s t ∧ RegsKept [Off.synXlate x.val i.val] s t) ∧
  (∀ (f : Func) (x : Ctx) (i : Fin 4096) (v : Word) (s : State), s.barOpen = true → s.mayWrite f.val .ctx x.val i.val = true →
    s.running x.val = true →
    ∃ t, exec (.xlateWrite f x i v) s = .next t ∧ t.xl x.val i.val = s.xl x.val i.val ∧
      t.flag (Off.synCtxSync x.val) 62 = true ∧ t.log.seq = s.log.seq + 1 ∧ t.sync = s.sync ∧ Kept logAreas s t) ∧
  (∀ (f : Func) (x : Ctx) (i : Fin 4096) (v : Word) (s : State), s.barOpen = true → s.mayWrite f.val .ctx x.val i.val = true →
    s.running x.val = false → (xlOf v.toNat).valid = true → (xlOf v.toNat).kind = 0 → (xlOf v.toNat).remote = false →
    s.ownsCounter x.val (xlOf v.toNat).object = true → (s.xl x.val i.val).pending = false →
    s.rebindDue false (xlOf v.toNat).object = true →
    ∃ t, exec (.rebind f x i v) s = .next t ∧
      t.counter (xlOf v.toNat).object =
        { gen := (s.counter (xlOf v.toNat).object).gen + 1, rebound := some s.clk.now } ∧
      (∀ p, p ≠ (xlOf v.toNat).object → t.counter p = s.counter p) ∧ Kept [.regs, .sync] s t) ∧
  (∀ (f : Func) (x : Ctx) (i : Fin 4096) (v : Word) (s : State), s.barOpen = true → s.mayWrite f.val .ctx x.val i.val = true →
    s.running x.val = false → (xlOf v.toNat).valid = true → (xlOf v.toNat).kind = 0 → (xlOf v.toNat).remote = false →
    s.ownsCounter x.val (xlOf v.toNat).object = true → (s.xl x.val i.val).pending = false →
    s.rebindDue false (xlOf v.toNat).object = false →
    ∃ t, exec (.rebind f x i v) s = .next t ∧ (t.xl x.val i.val).pending = true ∧
      t.sync = { s.sync with rebinds := s.sync.rebinds ++ [⟨x.val, i.val, false, (xlOf v.toNat).object⟩] } ∧
      Kept [.regs, .sync] s t ∧ RegsKept [Off.synXlate x.val i.val] s t) ∧
  (∀ (x : Ctx) (i : Fin 4096) (o : Nat) (s : State), s.sync.rebinds = [⟨x.val, i.val, false, o⟩] →
    s.rebindDue false o = true →
    ∃ t, exec (.rebindEffect x i) s = .next t ∧ t.sync.rebinds = [] ∧
      t.counter o = { gen := (s.counter o).gen + 1, rebound := some s.clk.now } ∧ Kept [.regs, .sync] s t) ∧
  (∀ (x : Ctx) (i : Fin 4096) (s : State), s.sync.rebinds = [] → exec (.rebindEffect x i) s = .next s) ∧
  (∀ (f : Func) (x : Ctx) (i : Fin 4096) (v : Word) (s : State), s.barOpen = false →
    exec (.xlateWrite f x i v) s = .next s ∧ exec (.rebind f x i v) s = .next s) ∧
  (∀ (f : Func) (n : Fin 4368) (v : Word) (s : State), s.barOpen = true → s.mayWrite f.val .slot n.val 0 = true →
    s.ownerRuns (s.ownerOf true n.val) = false → s.barCfgOk n.val v.toNat = true →
    ∃ t, exec (.barCfgWrite f n none v) s = .next t ∧ t.barParts n.val = bits v.toNat 54 48 ∧
      t.hasParent n.val = v.toNat.testBit 16 ∧ t.sync = s.sync ∧ Kept [.regs] s t ∧ RegsKept [Off.synBarCfg n.val] s t) ∧
  (∀ (f : Func) (n : Fin 4368) (j : Fin 64) (v : Word) (s : State), s.barOpen = true →
    s.mayWrite f.val .slot n.val j.val = true → s.ownerRuns (s.ownerOf true n.val) = false → partOk n.val (v.toNat % 2 ^ 32) = true →
    ∃ t, exec (.barCfgWrite f n (some j) v) s = .next t ∧ t.sync = s.sync ∧
      (t.reg (Off.synBarPart n.val j.val)) = maskedWrite 0xCFFFDFFF 0 (s.reg (Off.synBarPart n.val j.val)) (v.toNat % 2 ^ 32) ∧
      Kept [.regs] s t ∧ RegsKept [Off.synBarPart n.val j.val] s t) ∧
  (∀ (f : Func) (n : Fin 4368) (v : Word) (s : State), s.barOpen = true → s.mayWrite f.val .slot n.val 0 = true →
    s.barCfgOk n.val v.toNat = false →
    ∃ t, exec (.barCfgWrite f n none v) s = .next t ∧ t.reg (Off.synBarCfg n.val) = s.reg (Off.synBarCfg n.val) ∧
      t.log.seq = s.log.seq + 1 ∧ Kept logAreas s t) ∧
  (∀ (f : Func) (n : Fin 4368) (j : Option (Fin 64)) (v : Word) (s : State), s.barOpen = false →
    exec (.barCfgWrite f n j v) s = .next s)

/-- A doorbell write of the owning function counts as a heartbeat; an acceptable tail or head is taken, any other sets its bit of
CTX.RING_ERR and is logged, and one of another function is ignored and logged (12 R245, R249).

A read of up to 16 descriptors starts at FETCH; its arrival moves FETCH past them and the commands whose checks pass wait, in ring
order; a failed read is logged and stops the context in RING_FAULT (12 R250, 13 R268). -/
def Obligations.DoorbellsAndDescriptorReads : Prop :=
  (∀ (f : Func) (x : Ctx) (v : BitVec 32) (s : State), s.barOpen = true → s.funcOwns f.val (some x.val) = true →
    (v - (s.ctx x.val).released).toNat ≤ (s.ctx x.val).sqSize →
    (v - (s.ctx x.val).fetch).toNat ≤ (v - (s.ctx x.val).released).toNat →
    ∃ t, exec (.sqTail f x v) s = .next t ∧ t.ctx x.val = { s.ctx x.val with tail := v, lastBeat := s.clk.now } ∧
      CtxsKept x.val s t ∧ Kept [.ctxs] s t) ∧
  (∀ (f : Func) (x : Ctx) (v : BitVec 32) (s : State), s.barOpen = true → s.funcOwns f.val (some x.val) = true →
    (s.ctx x.val).sqSize < (v - (s.ctx x.val).released).toNat ∨
      (v - (s.ctx x.val).released).toNat < (v - (s.ctx x.val).fetch).toNat →
    ∃ t, exec (.sqTail f x v) s = .next t ∧ t.ctx x.val = { s.ctx x.val with lastBeat := s.clk.now } ∧
      t.flag (Off.ctxRingErr x.val) 1 = true ∧ t.log.seq = s.log.seq + 1 ∧ CtxsKept x.val s t ∧
      Kept (.ctxs :: logAreas) s t ∧ RegsKept (Off.ctxRingErr x.val :: logRegs) s t) ∧
  (∀ (f : Func) (x : Ctx) (v : BitVec 32) (s : State), s.barOpen = true → s.funcOwns f.val (some x.val) = true →
    ((s.ctx x.val).cqTail - v).toNat ≤ (s.ctx x.val).cqSize →
    ∃ t, exec (.cqHead f x v) s = .next t ∧ t.ctx x.val = { s.ctx x.val with cqHead := v, lastBeat := s.clk.now } ∧
      CtxsKept x.val s t ∧ Kept [.ctxs] s t) ∧
  (∀ (f : Func) (x : Ctx) (v : BitVec 32) (s : State), s.barOpen = true → s.funcOwns f.val (some x.val) = true →
    (s.ctx x.val).cqSize < ((s.ctx x.val).cqTail - v).toNat →
    ∃ t, exec (.cqHead f x v) s = .next t ∧ t.ctx x.val = { s.ctx x.val with lastBeat := s.clk.now } ∧
      t.flag (Off.ctxRingErr x.val) 2 = true ∧ t.log.seq = s.log.seq + 1 ∧ CtxsKept x.val s t ∧
      Kept (.ctxs :: logAreas) s t ∧ RegsKept (Off.ctxRingErr x.val :: logRegs) s t) ∧
  (∀ (f : Func) (x : Ctx) (v : BitVec 32) (s : State), s.barOpen = true → s.funcOwns f.val (some x.val) = true →
    ∃ t, exec (.heartbeat f x v) s = .next t ∧ t.ctx x.val = { s.ctx x.val with lastBeat := s.clk.now } ∧
      CtxsKept x.val s t ∧ Kept [.ctxs] s t) ∧
  (∀ (f : Func) (x : Ctx) (v : BitVec 32) (s : State), s.barOpen = true → s.funcOwns f.val (some x.val) = false →
    exec (.sqTail f x v) s = .next (s.ignored f.val (0x1000 * x.val) v.toNat) ∧
      exec (.cqHead f x v) s = .next (s.ignored f.val (0x1000 * x.val + 4) v.toNat) ∧
      exec (.heartbeat f x v) s = .next (s.ignored f.val (0x1000 * x.val + 8) v.toNat)) ∧
  (∀ (f : Func) (x : Ctx) (v : BitVec 32) (s : State), s.barOpen = false →
    exec (.sqTail f x v) s = .next s ∧ exec (.cqHead f x v) s = .next s ∧ exec (.heartbeat f x v) s = .next s) ∧
  (∀ (x : Ctx) (s : State), s.booted = true → s.fail.moved = false → s.hostOk x.val = true → (s.ctx x.val).state ≠ 6 →
    (s.ctx x.val).read = none → (s.ctx x.val).replayReady = false → 0 < (s.ctx x.val).readSize →
    s.ideHolds (s.funcOf x.val) ((s.ctx x.val).sqBase + 64 * ((s.ctx x.val).fetch.toNat % 2 ^ (s.ctx x.val).sqLog)) = false →
    ∃ t, exec (.descriptorFetch x) s = .next t ∧
      t.ctx x.val = { s.ctx x.val with read := some ((s.ctx x.val).fetch, (s.ctx x.val).readSize, s.clk.now) } ∧
      (s.ctx x.val).readSize ≤ 16 ∧ CtxsKept x.val s t ∧ Kept [.ctxs] s t) ∧
  (∀ (x : Ctx) (s : State), s.hostOk x.val = false ∨ (s.ctx x.val).read.isSome = true ∨ (s.ctx x.val).readSize = 0 →
    exec (.descriptorFetch x) s = .next s) ∧
  (∀ (x : Ctx) (i : BitVec 32) (u : Nat) (d : Cmd) (s : State), (s.ctx x.val).read = some (i, 1, u) →
    (s.ctx x.val).cmds = [] → (s.ctx x.val).drain = none →
    d = { idx := i.toNat, desc := s.slotDesc (s.ctx x.val) i, since := s.clk.now } →
    s.descCheck x.val d = stOk →
    ∃ t, exec (.descriptorArrival x .ok) s = .next t ∧ (t.ctx x.val).cmds = [d] ∧ (t.ctx x.val).fetch = i + 1 ∧
      (t.ctx x.val).read = none ∧ (t.ctx x.val).entries = (s.ctx x.val).entries ∧ CtxsKept x.val s t ∧ Kept [.ctxs] s t) ∧
  (∀ (x : Ctx) (i : BitVec 32) (u : Nat) (d : Cmd) (s : State), (s.ctx x.val).read = some (i, 1, u) →
    (s.ctx x.val).cmds = [] → (s.ctx x.val).drain = none →
    d = { idx := i.toNat, desc := s.slotDesc (s.ctx x.val) i, since := s.clk.now } → d.f 23 16 ≠ 1 →
    ∃ t, exec (.descriptorArrival x .ok) s = .next t ∧ Answers s t x.val d stVersionMismatch 0 ∧
      (t.ctx x.val).fetch = i + 1 ∧ CtxsKept x.val s t ∧ Kept [.ctxs] s t) ∧
  (∀ (x : Ctx) (i : BitVec 32) (n u : Nat) (c : CplStatus) (s : State), (s.ctx x.val).read = some (i, n, u) → c ≠ .ok →
    ∃ t, exec (.descriptorArrival x c) s = .next t ∧ (t.ctx x.val).state = 6 ∧ (t.ctx x.val).read = none ∧
      (t.ctx x.val).fetch = (s.ctx x.val).fetch ∧ (t.ctx x.val).cmds = (s.ctx x.val).cmds ∧
      t.flag (Off.ctxRingErr x.val) 3 = true ∧ (sget ({} : FuncCfg) t.io.cfg (s.funcOf x.val)).advisory = true ∧ t.log.seq = s.log.seq + 1 ∧ CtxsKept x.val s t ∧
      Kept ([.ctxs, .io] ++ logAreas) s t) ∧
  (∀ (x : Ctx) (c : CplStatus) (s : State), (s.ctx x.val).read = none → exec (.descriptorArrival x c) s = .next s)

/-- The first waiting completion entry is written, with its phase bit, at CQ_TAIL, which advances; no other byte of host or device memory
changes. A failed write holds the entries and stops the context. Entries or a time-out raise the context's vector
(12 R251, R252; 13 Table 13-3). -/
def Obligations.CompletionWrites : Prop :=
  (∀ (x : Ctx) (e : Entry) (r : List Entry) (s : State), (s.ctx x.val).entries = e :: r → s.mayWriteEntry x.val = true →
    e.intr = false → (s.ctx x.val).irqCount + 1 < s.irqEvery x.val →
    ∃ t, exec (.completionWrite x .ok) s = .next t ∧ (t.ctx x.val).entries = r ∧
      (t.ctx x.val).cqTail = (s.ctx x.val).cqTail + 1 ∧ (t.ctx x.val).irqCount = (s.ctx x.val).irqCount + 1 ∧
      t.mem.host.bytes ((s.ctx x.val).cqBase + 16 * ((s.ctx x.val).cqTail.toNat % 2 ^ (s.ctx x.val).cqLog)) 16
        = e.bytes (s.ctx x.val) ∧
      (∀ a, a < (s.ctx x.val).cqBase + 16 * ((s.ctx x.val).cqTail.toNat % 2 ^ (s.ctx x.val).cqLog) ∨
          (s.ctx x.val).cqBase + 16 * ((s.ctx x.val).cqTail.toNat % 2 ^ (s.ctx x.val).cqLog) + 16 ≤ a →
        t.mem.host.byte a = s.mem.host.byte a) ∧ CtxsKept x.val s t ∧ Kept [.ctxs, .host] s t) ∧
  (∀ (x : Ctx) (e : Entry) (r : List Entry) (s : State), (s.ctx x.val).entries = e :: r → s.mayWriteEntry x.val = true →
    e.intr = true → s.flag (Off.ctxIrqCfg x.val) 0 = true → s.msixMasked (s.funcOf x.val) (1 + x.val) = false →
    ∃ t, exec (.completionWrite x .ok) s = .next t ∧ (t.ctx x.val).entries = r ∧ (t.ctx x.val).irqCount = 0 ∧
      t.out = .irq (s.funcOf x.val) (1 + x.val) :: s.out ∧ Kept [.ctxs, .host, .out] s t) ∧
  (∀ (x : Ctx) (e : Entry) (r : List Entry) (c : CplStatus) (s : State), (s.ctx x.val).entries = e :: r →
    s.mayWriteEntry x.val = true → c ≠ .ok →
    ∃ t, exec (.completionWrite x c) s = .next t ∧ (t.ctx x.val).entries = e :: r ∧ (t.ctx x.val).cqHeld = true ∧
      (t.ctx x.val).state = 6 ∧ (t.ctx x.val).cqTail = (s.ctx x.val).cqTail ∧ t.flag (Off.ctxRingErr x.val) 4 = true ∧
      t.log.seq = s.log.seq + 1 ∧ CtxsKept x.val s t ∧ Kept ([.ctxs, .io] ++ logAreas) s t) ∧
  (∀ (x : Ctx) (c : CplStatus) (s : State), (s.ctx x.val).entries = [] ∨ s.mayWriteEntry x.val = false →
    exec (.completionWrite x c) s = .next s) ∧
  (∀ (x : Ctx) (u : Nat) (s : State), (s.ctx x.val).irqSince = some u → s.field (Off.ctxIrqCfg x.val) 31 16 ≠ 0 →
    u + s.field (Off.ctxIrqCfg x.val) 31 16 * 1000000 ≤ s.clk.now → s.hostOk x.val = true →
    s.flag (Off.ctxIrqCfg x.val) 0 = true → s.msixMasked (s.funcOf x.val) (1 + x.val) = false →
    ∃ t, exec (.irqTimeout x) s = .next t ∧ t.out = .irq (s.funcOf x.val) (1 + x.val) :: s.out ∧
      t.ctx x.val = { s.ctx x.val with irqCount := 0, irqSince := none } ∧ CtxsKept x.val s t ∧ Kept [.ctxs, .out] s t) ∧
  (∀ (x : Ctx) (s : State), (s.ctx x.val).irqSince = none ∨ s.field (Off.ctxIrqCfg x.val) 31 16 = 0 ∨ s.hostOk x.val = false →
    exec (.irqTimeout x) s = .next s)

/-- A loss of the host: an attached context drains with the cause and drops the read under way; one that lost it before keeps its state
and takes the newer cause. The events are an expired heartbeat, a completion time-out, Bus Master Enable cleared, D3hot and VF
Enable cleared (12 R261, R262, Table 12-6).

PERST_N or a link-down takes the host from every context and resets every function: Bus Master Enable, D3hot and VF Enable clear, the
MSI-X tables and IDE streams return to reset, and the link falls; device and host memory and the log stay. A function reset
does so for its own contexts. Released, PERST_N lets the link train (12 R261, R265; 18 R369). -/
def Obligations.HostLossAndResets : Prop :=
  (∀ (k x : Nat) (s : State), (s.ctx x).state = 1 ∨ (s.ctx x).state = 5 ∨ (s.ctx x).state = 6 →
    (s.hostLost k x).ctx x = { s.ctx x with state := 2, cause := BitVec.ofNat 4 k, read := none } ∧
      CtxsKept x s (s.hostLost k x) ∧ Kept [.ctxs, .io, .out] s (s.hostLost k x)) ∧
  (∀ (k x : Nat) (s : State), (s.ctx x).state = 2 ∨ (s.ctx x).state = 3 ∨ (s.ctx x).state = 4 →
    s.hostLost k x = s.setCtx x { s.ctx x with cause := BitVec.ofNat 4 k, read := none }) ∧
  (∀ (x : Ctx) (s : State), s.field (Off.ctxHbCfg x.val) 15 0 ≠ 0 →
    (s.ctx x.val).lastBeat + s.field (Off.ctxHbCfg x.val) 15 0 * 1000000000 ≤ s.clk.now →
    (s.ctx x.val).state = 1 ∨ (s.ctx x.val).state = 5 ∨ (s.ctx x.val).state = 6 →
    ∃ t, exec (.heartbeatExpiry x) s = .next t ∧ t.ctx x.val = lostCtx 1 (s.ctx x.val) ∧ (t.ctx x.val).state = 2 ∧
      (t.ctx x.val).cause = 1 ∧ CtxsKept x.val s t ∧ Kept [.ctxs, .io, .out] s t) ∧
  (∀ (x : Ctx) (s : State), s.field (Off.ctxHbCfg x.val) 15 0 = 0 ∨
      s.clk.now < (s.ctx x.val).lastBeat + s.field (Off.ctxHbCfg x.val) 15 0 * 1000000000 ∨
      ((s.ctx x.val).state ≠ 1 ∧ (s.ctx x.val).state ≠ 5 ∧ (s.ctx x.val).state ≠ 6) →
    exec (.heartbeatExpiry x) s = .next s) ∧
  (∀ (x : Ctx) (s : State), s.hostOk x.val = true →
    ∃ t, exec (.completionTimeout x) s = .next t ∧ FuncLost 2 (s.funcOf x.val) s t ∧
      t.field (Off.hifFuncStat (s.funcOf x.val)) 47 32 = min (s.field (Off.hifFuncStat (s.funcOf x.val)) 47 32 + 1) 65535 ∧
      Kept [.regs, .ctxs, .io, .out] s t ∧ RegsKept [Off.hifFuncStat (s.funcOf x.val)] s t) ∧
  (∀ (x : Ctx) (s : State), s.hostOk x.val = false → exec (.completionTimeout x) s = .next s) ∧
  (∀ (f : Func) (s : State), s.flag (Off.hifFuncStat f.val) 63 = true →
    ∃ t, exec (.busMasterDisable f) s = .next t ∧ t.flag (Off.hifFuncStat f.val) 63 = false ∧ FuncLost 3 f.val s t ∧
      Kept [.regs, .ctxs] s t ∧ RegsKept [Off.hifFuncStat f.val] s t) ∧
  (∀ (f : Func) (s : State), s.flag (Off.hifFuncStat f.val) 62 = false →
    ∃ t, exec (.d3hotEntry f) s = .next t ∧ t.flag (Off.hifFuncStat f.val) 62 = true ∧ FuncLost 4 f.val s t ∧
      Kept [.regs, .ctxs] s t ∧ RegsKept [Off.hifFuncStat f.val] s t) ∧
  (∀ (f : Func) (s : State), s.flag (Off.hifFuncStat f.val) 63 = false → exec (.busMasterDisable f) s = .next s) ∧
  (∀ (f : Func) (s : State), s.flag (Off.hifFuncStat f.val) 62 = true → exec (.d3hotEntry f) s = .next s) ∧
  (∀ s : State, s.flag (Off.hifFuncStat 0) 61 = true →
    ∃ t, exec .vfDisable s = .next t ∧ t.flag (Off.hifFuncStat 0) 61 = false ∧
      (∀ x, t.ctx x = if x < 64 ∧ s.ctxEnabled x = true ∧ s.funcOf x ≠ 0 then lostCtx 5 (s.ctx x) else s.ctx x) ∧
      Kept [.regs, .ctxs] s t ∧ RegsKept [Off.hifFuncStat 0] s t) ∧
  (∀ s : State, s.flag (Off.hifFuncStat 0) 61 = false → exec .vfDisable s = .next s) ∧
  (∀ s : State, ∃ t, exec .perst s = .next t ∧ t.io.perst = true ∧
    (∀ x, t.ctx x = if x < 64 ∧ s.ctxEnabled x = true then lostCtx 7 (s.ctx x) else s.ctx x) ∧
    t.reg Off.hifLinkStat = 0 ∧ (∀ f, f < 16 → t.FunctionAtReset f) ∧ Kept [.regs, .ctxs, .io, .out] s t ∧
    RegsKept (Off.hifLinkStat :: (List.range 16).map Off.hifFuncStat ++ (List.range 64).flatMap ctxHostRegs) s t) ∧
  (∀ s : State, ∃ t, exec .linkDown s = .next t ∧ t.io.perst = s.io.perst ∧
    (∀ x, t.ctx x = if x < 64 ∧ s.ctxEnabled x = true then lostCtx 7 (s.ctx x) else s.ctx x) ∧
    t.reg Off.hifLinkStat = 0 ∧ (∀ f, f < 16 → t.FunctionAtReset f) ∧ Kept [.regs, .ctxs, .io, .out] s t ∧
    RegsKept (Off.hifLinkStat :: (List.range 16).map Off.hifFuncStat ++ (List.range 64).flatMap ctxHostRegs) s t) ∧
  (∀ (f : Func) (s : State), f.val ≠ 0 →
    ∃ t, exec (.functionLevelReset f) s = .next t ∧ FuncLost 6 f.val s t ∧ t.FunctionAtReset f.val ∧
      (∀ x, x ∈ s.ctxsOf f.val → (s.box (64 + x)).full = true →
        (t.box (64 + x)).full = false ∧ (t.box (64 + x)).ack = some 0x0040) ∧
      Kept [.regs, .ctxs, .io, .out, .mail] s t ∧
      RegsKept (Off.hifFuncStat f.val :: (List.range 64).flatMap ctxHostRegs) s t) ∧
  (∀ (f : Func) (s : State), f.val = 0 →
    ∃ t, exec (.functionLevelReset f) s = .next t ∧
      (∀ x, t.ctx x = if x < 64 ∧ s.ctxEnabled x = true ∧ s.funcOf x = 0 then lostCtx 6 (s.ctx x)
        else if x < 64 ∧ s.ctxEnabled x = true ∧ s.flag (Off.hifFuncStat 0) 61 = true then lostCtx 5 (s.ctx x)
        else s.ctx x) ∧
      t.FunctionAtReset 0 ∧
      (∀ x, x ∈ s.ctxsOf 0 → (s.box (64 + x)).full = true →
        (t.box (64 + x)).full = false ∧ (t.box (64 + x)).ack = some 0x0040) ∧
      Kept [.regs, .ctxs, .io, .out, .mail] s t ∧
      RegsKept (Off.hifFuncStat 0 :: (List.range 64).flatMap ctxHostRegs) s t) ∧
  (∀ s : State, s.pwr.aux = true → s.flag Off.hifLinkStat 1 = false →
    ∃ t, exec .perstNDeasserted s = .next t ∧ t.io.perst = false ∧ t.flag Off.hifLinkStat 1 = true ∧
      Kept [.regs, .io] s t ∧ RegsKept [Off.hifLinkStat] s t) ∧
  (∀ s : State, s.pwr.aux = false ∨ s.flag Off.hifLinkStat 1 = true →
    ∃ t, exec .perstNDeasserted s = .next t ∧ t.io = { s.io with perst := false } ∧ Kept [.io] s t)

/-- A configuration request is answered with Request Retry Status until step 6 of boot, and then completes: a write sets what it names,
and one for what the module does not list is rejected and logged. The BARs of the VFs are those of the physical function's SR-IOV
capability, and a VF has none of its own. A VF answers once VF Enable is set, and none answers while PERST_N is
asserted (00 R6; 12 R241, R244; 14 R293).

A draining context parks once no step is in progress, and is held where its step must wait for the host; a joined one is then reported.
A host access that gets an error completion is counted and reported as an advisory error, and fails its command, or the run of the
hive whose transfer made it, with BAD_ADDRESS (06 R117; 12 R263, R264, Table 12-1). -/
def Obligations.ConfigurationParkingAndHostErrors : Prop :=
  (∀ (f : Func) (a : ConfigAccess) (s : State), s.io.perst = false → s.pwr.aux = true → s.flag Off.hifLinkStat 1 = true →
    s.bootStep < 6 →
    exec (.configRequest f a) s = .next (s.send (.completion f.val 3))) ∧
  (∀ (f : Func) (a : ConfigAccess) (s : State), s.io.perst = false → s.pwr.aux = true → s.flag Off.hifLinkStat 1 = true →
    6 ≤ s.bootStep → f.val ≠ 0 → s.flag (Off.hifFuncStat 0) 61 = false →
    exec (.configRequest f a) s = .next (s.send (.completion f.val 1))) ∧
  (∀ (f : Func) (a : ConfigAccess) (s : State), s.io.perst = false → s.pwr.aux = true → s.flag Off.hifLinkStat 1 = true →
    6 ≤ s.bootStep → f.val = 0 ∨ s.flag (Off.hifFuncStat 0) 61 = true → rejectsConfig a = false →
    ∃ t, exec (.configRequest f a) s = .next t ∧ t.out = .completion f.val 0 :: s.out ∧
      (a = .busMasterEnable → t.flag (Off.hifFuncStat f.val) 63 = true) ∧
      (a = .d0 → t.flag (Off.hifFuncStat f.val) 62 = false) ∧
      (a = .vfEnable → f.val = 0 → t.flag (Off.hifFuncStat 0) 61 = true) ∧
      (a = .read ∨ a = .unlisted .spare → t.regs = s.regs ∧ t.io = s.io) ∧
      Kept [.regs, .io, .out] s t ∧ RegsKept [Off.hifFuncStat f.val, Off.hifLinkStat] s t) ∧
  (∀ (f : Func) (i : Fin 3) (c : BitVec 3) (k : BitVec 4) (w : BitVec 5) (b : BitVec 64) (s : State), s.io.perst = false →
    s.pwr.aux = true → s.flag Off.hifLinkStat 1 = true → 6 ≤ s.bootStep →
    f.val = 0 ∨ s.flag (Off.hifFuncStat 0) 61 = true →
    (c.toNat ≤ 2 → ∃ t, exec (.configRequest f (.maxPayload c)) s = .next t ∧ (sget ({} : FuncCfg) t.io.cfg f.val).payload = c.toNat) ∧
    (c.toNat ≤ 5 → ∃ t, exec (.configRequest f (.maxReadRequest c)) s = .next t ∧ (sget ({} : FuncCfg) t.io.cfg f.val).readRequest = c.toNat) ∧
    (timeoutCodes.contains k.toNat = true →
      ∃ t, exec (.configRequest f (.timeoutRange k)) s = .next t ∧ (sget ({} : FuncCfg) t.io.cfg f.val).timeout = k.toNat) ∧
    (f.val = 0 → i.val < (sget ({} : FuncCfg) s.io.cfg 0).bars.length →
      ∃ t, exec (.configRequest f (.bar i b)) s = .next t ∧ (sget ({} : FuncCfg) t.io.cfg 0).bars.getD i.val 0 = barAt i.val b) ∧
    (f.val = 0 → i.val < (sget ({} : FuncCfg) s.io.cfg 0).vfBars.length →
      ∃ t, exec (.configRequest f (.vfBar i b)) s = .next t ∧ (sget ({} : FuncCfg) t.io.cfg 0).vfBars.getD i.val 0 = barAt i.val b) ∧
    (f.val ≠ 0 → ∃ t u, exec (.configRequest f (.bar i b)) s = .next t ∧ exec (.configRequest f (.vfBar i b)) s = .next u ∧
      t.io = s.io ∧ u.io = s.io) ∧
    (w.toNat ∈ [1, 2, 4, 8, 16] → w.toNat ≤ s.field Off.hifLinkStat 47 40 →
      ∃ t, exec (.configRequest f (.l0p w)) s = .next t ∧ t.field Off.hifLinkStat 39 32 = w.toNat)) ∧
  (∀ (f : Func) (a : ConfigAccess) (s : State), s.io.perst = false → s.pwr.aux = true → s.flag Off.hifLinkStat 1 = true →
    6 ≤ s.bootStep → f.val = 0 ∨ s.flag (Off.hifFuncStat 0) 61 = true → rejectsConfig a = true →
    ∃ t, exec (.configRequest f a) s = .next t ∧ t.out.head? = some (.completion f.val 1) ∧ t.log.seq = s.log.seq + 1 ∧
      t.io = s.io ∧ Kept logAreas s t ∧ RegsKept logRegs s t) ∧
  (∀ (f : Func) (a : ConfigAccess) (s : State), s.io.perst = true ∨ s.pwr.aux = false →
    exec (.configRequest f a) s = .next s) ∧
  (∀ (x : Ctx) (s : State), (s.ctx x.val).state = 2 → (s.ctx x.val).sweep = none → s.waitsHost x.val = false →
    (s.ctx x.val).stepCmds = [] → (s.ctx x.val).abandon = none →
    ∃ t, exec (.contextParked x) s = .next t ∧ t.ctx x.val = { s.ctx x.val with state := 3 } ∧ CtxsKept x.val s t ∧
      Kept [.ctxs, .io, .out] s t) ∧
  (∀ (x : Ctx) (s : State), (s.ctx x.val).state = 2 → (s.ctx x.val).sweep = none → s.waitsHost x.val = true →
    s.joined x.val = false →
    ∃ t, exec (.contextParked x) s = .next t ∧ t.ctx x.val = { s.ctx x.val with state := 4 } ∧ CtxsKept x.val s t ∧
      Kept [.ctxs, .io, .out] s t) ∧
  (∀ (x : Ctx) (s : State), (s.ctx x.val).state ≠ 2 → exec (.contextParked x) s = .next s) ∧
  (∀ (x : Ctx) (c : CplStatus) (d : Cmd) (s : State), c ≠ .ok → s.hostOk x.val = true → (s.ctx x.val).runs = [] →
    s.hostCmd x.val = some d → s.Live x.val d →
    ∃ t, exec (.hostAccessFailure x c) s = .next t ∧ Answers s t x.val d stBadAddress 0 ∧
      t.field (Off.hifFuncStat (s.funcOf x.val)) 31 16 = min (s.field (Off.hifFuncStat (s.funcOf x.val)) 31 16 + 1) 65535 ∧
      (sget ({} : FuncCfg) t.io.cfg (s.funcOf x.val)).advisory = true ∧
      t.mem = s.mem ∧ CtxsKept x.val s t ∧ Kept [.ctxs, .regs, .io] s t) ∧
  (∀ (x : Ctx) (c : CplStatus) (h p : Nat) (s : State), c ≠ .ok → s.hostOk x.val = true →
    (s.ctx x.val).runHives.find? (fun g => !(s.headEnds g).isEmpty) = none → s.hostCmd x.val = none →
    (s.ctx x.val).runHives.find? (fun g => (s.hiveSt g).hostAt.isSome) = some h → (s.hiveSt h).hostAt = some p →
    exec (.hostAccessFailure x c) s = .next ((((s.hostError (s.funcOf x.val)).setHive h
      { s.hiveSt h with hostAt := none }).failRun h p stBadAddress).drainQueues h)) ∧
  (∀ (x : Ctx) (s : State), exec (.hostAccessFailure x .ok) s = .next s) ∧
  (∀ (x : Ctx) (c : CplStatus) (s : State), s.hostOk x.val = false → exec (.hostAccessFailure x c) s = .next s)

/-- A write of CTX.RING_CFG with EN starts empty rings and attaches the context; sizes out of range are a configuration error. A parked or
held context is reattached to go on, to replay its step or to cancel it; one that is not may not be (12 R248, R266). -/
def Obligations.RingSetupAndReattachment : Prop :=
  (∀ (f : Func) (x : Ctx) (v : Word) (s : State), s.barOpen = true → s.mayWrite f.val .ctx x.val 0 = true →
    s.ctxEnabled x.val = true → v.toNat.testBit 31 = true → sizeOk (bits v.toNat 4 0) = true →
    sizeOk (bits v.toNat 12 8) = true → s.flag (Off.ctxRingCfg x.val) 31 = false → (s.ctx x.val).state = 0 →
    ∃ t, exec (.ringCfgWrite f x v) s = .next t ∧ (t.ctx x.val).state = 1 ∧ t.flag (Off.ctxRingCfg x.val) 31 = true ∧
      (t.ctx x.val).sqLog = bits v.toNat 4 0 ∧ (t.ctx x.val).cqLog = bits v.toNat 12 8 ∧
      (t.ctx x.val).sqBase = s.field (Off.ctxSqBase x.val) 63 12 * 4096 ∧ (t.ctx x.val).cmds = [] ∧ (t.ctx x.val).tail = 0 ∧
      (t.ctx x.val).fetch = 0 ∧ CtxsKept x.val s t ∧ Kept [.regs, .ctxs, .io, .out] s t ∧
      RegsKept [Off.ctxRingCfg x.val] s t) ∧
  (∀ (f : Func) (x : Ctx) (v : Word) (s : State), s.barOpen = true → s.mayWrite f.val .ctx x.val 0 = true →
    s.ctxEnabled x.val = true → v.toNat.testBit 31 = true → sizeOk (bits v.toNat 4 0) = false →
    ∃ t, exec (.ringCfgWrite f x v) s = .next t ∧ t.ctxs = s.ctxs ∧
      t.reg (Off.ctxRingCfg x.val) = s.reg (Off.ctxRingCfg x.val)) ∧
  (∀ (f : Func) (x : Ctx) (s : State), s.barOpen = true → s.mayWrite f.val .ctx x.val 0 = true → s.mayAttach x.val = true →
    (s.ctx x.val).fault = none →
    ∃ t, exec (.attachResume f x) s = .next t ∧ (t.ctx x.val).state = 1 ∧ (t.ctx x.val).cmds = (s.ctx x.val).cmds ∧
      (t.ctx x.val).cqHeld = false ∧ CtxsKept x.val s t ∧ Kept [.ctxs, .io, .out] s t) ∧
  (∀ (f : Func) (x : Ctx) (s : State), s.barOpen = true → s.mayWrite f.val .ctx x.val 0 = true → s.mayAttach x.val = true →
    s.joined x.val = false → (s.ctx x.val).stepCmds = [] →
    ∃ t u, exec (.attachReplay f x) s = .next t ∧ exec (.attachCancel f x) s = .next u ∧ (t.ctx x.val).state = 1 ∧
      (u.ctx x.val).state = 1 ∧ CtxsKept x.val s t ∧ CtxsKept x.val s u) ∧
  (∀ (f : Func) (x : Ctx) (s : State), s.barOpen = true → s.mayWrite f.val .ctx x.val 0 = true → s.mayAttach x.val = true →
    s.joined x.val = false → (s.ctx x.val).stepCmds ≠ [] → (s.ctx x.val).ending = false →
    s.journalBad x.val = none →
    ∃ t u, exec (.attachReplay f x) s = .next t ∧ exec (.attachCancel f x) s = .next u ∧
      t = (s.attach x.val 1).abandonStep x.val .replay ∧ (t.ctx x.val).abandon = some (.replay, s.clk.now) ∧
      (u.ctx x.val).abandon = some (.cancel, s.clk.now)) ∧
  (∀ (f : Func) (x : Ctx) (s : State), s.barOpen = true → s.mayWrite f.val .ctx x.val 0 = true → s.mayAttach x.val = false →
    exec (.attachResume f x) s = .next (s.setFlag (Off.ctxAttach x.val) 2 true) ∧
      exec (.attachReplay f x) s = .next (s.setFlag (Off.ctxAttach x.val) 2 true) ∧
      exec (.attachCancel f x) s = .next (s.setFlag (Off.ctxAttach x.val) 2 true)) ∧
  (∀ (f : Func) (x : Ctx) (v : Word) (s : State), s.barOpen = false →
    exec (.ringCfgWrite f x v) s = .next s ∧ exec (.attachResume f x) s = .next s ∧ exec (.attachReplay f x) s = .next s ∧
      exec (.attachCancel f x) s = .next s)

/-- A step that faulted is abandoned: its uncompleted commands complete with the status of the cause, its hives stop and lose their queues
and groups, and a wait of 1 ms begins. A RESULT keeps the causes that the sweep had met and the round that a BARRIER entered; a step to
be replayed whose journal cannot be read fails. A joined context's waits for its job; without a fault, or with a step already ending,
nothing happens (07 R137; 10 R209; 12 R256, R260; 13 R271, R272, R279). -/
def Obligations.StepAbandonment : Prop :=
  (∀ (x : Ctx) (a : Abandon) (st : Nat) (s : State), (s.ctx x.val).fault = some (a, st) → (s.ctx x.val).ending = false →
    s.joined x.val = false ∨ a = .moved → a ≠ .replay ∨ s.journalBad x.val = none →
    ∃ t, exec (.abandonStep x) s = .next t ∧ (t.ctx x.val).abandon = some (a, s.clk.now) ∧ (t.ctx x.val).fault.isSome = false ∧
      (t.ctx x.val).runs = [] ∧ (t.ctx x.val).sweep = none ∧
      t.hive.hives.all (fun e => e.2.run.map Prod.fst != some x.val) = true ∧ t.sync = s.sync ∧ t.layers = s.layers ∧
      CtxsKept x.val s t) ∧
  (∀ (x : Ctx) (a : Abandon) (st : Nat) (d : Cmd) (s : State), (s.ctx x.val).fault = some (a, st) →
    (s.ctx x.val).ending = false → s.joined x.val = false → (s.ctx x.val).cmds = [d] → d.isStep = true → d.past = false →
    d.phase = .started → s.journalBad x.val = none →
    ∃ t, exec (.abandonStep x) s = .next t ∧ Answers s t x.val d a.status (s.abandonedResult x.val d.idx)) ∧
  (∀ (x : Ctx) (st u : Nat) (s : State), (s.ctx x.val).fault = some (.replay, st) → (s.ctx x.val).ending = false →
    s.joined x.val = false → s.journalBad x.val = some u →
    ∃ t, exec (.abandonStep x) s = .next t ∧ (t.ctx x.val).abandon = some (.fail, s.clk.now) ∧ CtxsKept x.val s t) ∧
  (∀ (x : Ctx) (s : State), (s.ctx x.val).fault = none ∨ (s.ctx x.val).ending = true → exec (.abandonStep x) s = .next s)

/-- A millisecond after the abandonment, or at once in a context held for its host, counters, barrier slots and layers are as
committed, the rows, headers and overflow maps that the step replaced in memory are back, and a replay may start, unless an entry of
the journal has become unreadable, and then it fails. The replay returns FETCH to the step's first command, has every step command from
there fetched again, and raises the attempt number (03 R40; 07 R137; 10 R209; 12 R256, R257). -/
def Obligations.RestoreAndReplay : Prop :=
  (∀ (x : Ctx) (a : Abandon) (u : Nat) (s : State), (s.ctx x.val).abandon = some (a, u) →
    u + 1000000000 ≤ s.clk.now ∨ (s.ctx x.val).state = 4 → swf {} s.layersC = true →
    ∃ t, exec (.abandonRestore x) s = .next t ∧ (t.ctx x.val).abandon = none ∧
      (t.ctx x.val).replayReady = decide (a = .replay) ∧
      (∀ p, s.ownsCounter x.val p = true → (t.counter p).value = (s.counter p).committed) ∧
      (∀ p, s.ownsCounter x.val p = false → t.counter p = s.counter p) ∧
      (∀ n, s.ownsSlot x.val n = true → (t.bar n).arr = (s.bar n).cArr ∧ (t.bar n).l = (s.bar n).cl ∧ (t.bar n).w = (s.bar n).cw) ∧
      (∀ n, s.ownsSlot x.val n = false → t.bar n = s.bar n) ∧
      (∀ n, s.hasLayer x.val n = true → sget {} t.layers n = sget {} s.layersC n) ∧
      (∀ n, s.hasLayer x.val n = false → sget {} t.layers n = sget {} s.layers n) ∧
      t.mem.dev = ((s.rollJournal x.val).restoreTensors x.val).mem.dev ∧ t.mem.bad = ((s.rollJournal x.val).restoreTensors x.val).mem.bad ∧
      (t.ctx x.val).journal = [] ∧ (t.ctx x.val).touched = [] ∧ (t.ctx x.val).mapOld = [] ∧
      (a = .replay → (s.journalBad x.val).isSome = true → (t.ctx x.val).fault.isSome = true) ∧ CtxsKept x.val s t) ∧
  (∀ (x r k g : Nat) (o : List Byte) (s : State), (s.ctx x).journal = [{ addr := r, fmt := g, old := o, scaleAddr := none, oldScale := 0, kept := k }] →
    r + o.length ≤ 0x10000000000 → s.badIn k (o.length + 8) = none →
    (s.rollJournal x).mem.dev.bytes r o.length = o ∧
      (∀ b, b < r ∨ r + o.length ≤ b → (s.rollJournal x).mem.dev.byte b = s.mem.dev.byte b)) ∧
  (∀ (x b : Nat) (v : Byte) (s : State), (s.ctx x).touched = [] → (s.ctx x).mapOld = [(b, v)] → b < 0x10000000000 →
    (s.restoreTensors x).mem.dev.byte b = v ∧ (∀ c, c ≠ b → (s.restoreTensors x).mem.dev.byte c = s.mem.dev.byte c)) ∧
  (∀ (x : Ctx) (a : Abandon) (u : Nat) (s : State), (s.ctx x.val).abandon = some (a, u) → s.clk.now < u + 1000000000 →
    (s.ctx x.val).state ≠ 4 → exec (.abandonRestore x) s = .next s) ∧
  (∀ (x : Ctx) (s : State), (s.ctx x.val).abandon = none → exec (.abandonRestore x) s = .next s) ∧
  (∀ (x : Ctx) (s : State), (s.ctx x.val).replayReady = true → (s.ctx x.val).drain = none → s.repaired x.val = true →
    ∃ t, exec (.replay x) s = .next t ∧
      t.ctx x.val = { s.ctx x.val with
        replayReady := false, read := none, attempt := (s.ctx x.val).attempt + 1,
        crcFirst := if (s.ctx x.val).attempt = 0 then (s.ctx x.val).stepCrc else (s.ctx x.val).crcFirst,
        cmds := (s.ctx x.val).cmds.map (fun d => if d.isStep ∧ !d.past then { d with phase := .waiting, stale := true } else d),
        fetch := ((s.ctx x.val).stepCmds.head?.map (fun d => BitVec.ofNat 32 d.idx)).getD (s.ctx x.val).fetch } ∧
      CtxsKept x.val s t ∧ Kept [.ctxs] s t) ∧
  (∀ (x : Ctx) (s : State), (s.ctx x.val).replayReady = false ∨ (s.ctx x.val).drain.isSome = true ∨ s.repaired x.val = false →
    exec (.replay x) s = .next s)

/-- RUN_PROGRAM checks its image and starts its hives from their streams, or completes with the status of the first check that fails;
with a hive taken it waits (04 R62, R63; 13 R273).

A joined context's faulted step is reported on the towpath once and waits in HOLD_JOB; at the lock cycle that the job agreed it is
abandoned as the job asked, and HOLD_JOB ends (12 R258). -/
def Obligations.RunProgramsAndJoinedSteps : Prop :=
  (∀ (x : Ctx) (d : Cmd) (s : State), s.startableOp x.val 1 = some d → s.Live x.val d → s.runCheck x.val (d.addr 64) ≠ stOk →
    s.badAmong (s.imageReads x.val (d.addr 64)) = none →
    ∃ t, exec (.runProgram x) s = .next t ∧ Answers s t x.val d (s.runCheck x.val (d.addr 64)) 0xFFFFFFFF ∧
      t.hive = s.hive ∧ CtxsKept x.val s t ∧ Kept [.ctxs] s t) ∧
  (∀ (x : Ctx) (d : Cmd) (s : State), s.startableOp x.val 1 = some d → s.Live x.val d → s.runCheck x.val (d.addr 64) = stOk →
    s.badAmong (s.imageReads x.val (d.addr 64)) = none →
    (∀ l, l ∈ (s.hivesOf x.val).take (s.imageHdr x.val (d.addr 64)).hives →
      (s.hiveSt l).run = none ∧ sget none s.hive.moving l = none) →
    ∃ t, exec (.runProgram x) s = .next t ∧
      (t.ctx x.val).runs = (s.ctx x.val).runs ++ [Run.mk d.idx (s.imageHdr x.val (d.addr 64)).mode
        ((s.hivesOf x.val).take (s.imageHdr x.val (d.addr 64)).hives) none false] ∧
      (∀ i l, ((s.hivesOf x.val).take (s.imageHdr x.val (d.addr 64)).hives)[i]? = some l →
        (t.hiveSt l).run = some (x.val, d.idx) ∧ (t.hiveSt l).fetching = true ∧ (t.hiveSt l).pos = 0 ∧
        (t.hiveSt l).xs = [0, 0, 0, 0, 0, 0, 0] ∧
        (t.hiveSt l).base = d.addr 64 + (s.imageStream x.val (d.addr 64) (s.imageHdr x.val (d.addr 64)) i).1 ∧
        (t.hiveSt l).len = (s.imageStream x.val (d.addr 64) (s.imageHdr x.val (d.addr 64)) i).2) ∧
      (∀ l, l ∉ (s.hivesOf x.val).take (s.imageHdr x.val (d.addr 64)).hives → t.hiveSt l = s.hiveSt l) ∧
      (t.ctx x.val).entries = (s.ctx x.val).entries ∧ CtxsKept x.val s t ∧ Kept [.ctxs, .hive, .stks] s t) ∧
  (∀ (x : Ctx) (d : Cmd) (l : Nat) (s : State), s.startableOp x.val 1 = some d → s.runCheck x.val (d.addr 64) = stOk →
    s.badAmong (s.imageReads x.val (d.addr 64)) = none →
    l ∈ (s.hivesOf x.val).take (s.imageHdr x.val (d.addr 64)).hives →
    (s.hiveSt l).run.isSome = true ∨ (sget none s.hive.moving l).isSome = true → exec (.runProgram x) s = .next s) ∧
  (∀ (x : Ctx) (s : State), s.startableOp x.val 1 = none → exec (.runProgram x) s = .next s) ∧
  (∀ (x : Ctx) (a : Abandon) (st : Nat) (s : State), (s.ctx x.val).fault = some (a, st) → s.joined x.val = true →
    (s.ctx x.val).heldReported = false → (s.ctx x.val).ending = false → a ≠ .moved → (s.ctx x.val).state = 1 →
    ∃ t p, exec (.stepHeld x) s = .next t ∧ t.ctx x.val = { s.ctx x.val with heldReported := true, state := 5 } ∧
      p = Output.towpath 0x0023 (natLe x.val 1 ++ natLe (s.field (Off.ctxJobId x.val) 15 0) 2 ++
        natLe ((s.ctx x.val).step + 1) 6 ++ natLe (if a = .fail then st else a.status) 1) ∧
      (t.out = p :: s.out ∨ t.out = .irq (s.funcOf x.val) 0 :: p :: s.out) ∧ CtxsKept x.val s t ∧ Kept [.ctxs, .io, .out] s t) ∧
  (∀ (x : Ctx) (s : State), (s.ctx x.val).fault = none ∨ s.joined x.val = false ∨ (s.ctx x.val).heldReported = true →
    exec (.stepHeld x) s = .next s) ∧
  (∀ (x : Ctx) (act lr : Nat) (s : State), (s.ctx x.val).jobAct = some (act, lr) → s.clk.lock = true → lr ≤ s.lockCycle →
    (s.ctx x.val).ending = false → (s.ctx x.val).state = 5 → act ≠ 1 ∨ s.journalBad x.val = none →
    ∃ t, exec (.jobActionAtLr x) s = .next t ∧ (t.ctx x.val).abandon = some (jobAbandon act, s.clk.now) ∧
      (t.ctx x.val).state = 1 ∧ (t.ctx x.val).jobAct = none ∧ (t.ctx x.val).runs = [] ∧ CtxsKept x.val s t) ∧
  (∀ (x : Ctx) (act lr : Nat) (s : State), (s.ctx x.val).jobAct = some (act, lr) → s.clk.lock = false ∨ s.lockCycle < lr →
    exec (.jobActionAtLr x) s = .next s) ∧
  (∀ (x : Ctx) (s : State), (s.ctx x.val).jobAct = none → exec (.jobActionAtLr x) s = .next s)

/-- The ring's step commands: a DMA makes its transfer and completes with its status; a SIGNAL increments its counter and completes; a WAIT
completes once its target is reached and else is open; a BARRIER whose arrival is not accepted does not arrive; an unusable or
dirty identifier is a bad descriptor (12 R254; 13 R274-R276). -/
def Obligations.RingStepCommands : Prop :=
  (∀ (x : Ctx) (d : Cmd) (s : State), s.dmaTurn x.val = some d → s.dmaHeld x.val none d.dma = false →
    s.sluicesOpen (s.dmaExtents x.val d.dma) = true → s.Live x.val d →
    ((s.start x.val d.idx).runDma x.val d.dma none).bad = none →
    (((s.start x.val d.idx).runDma x.val d.dma none).s.ctx x.val).cmd d.idx =
      ((s.start x.val d.idx).ctx x.val).cmd d.idx →
    (((s.start x.val d.idx).runDma x.val d.dma none).s.ctx x.val).suspends d.idx = [] →
    (((s.start x.val d.idx).runDma x.val d.dma none).s.ctx x.val).fault = none →
    ∃ t, exec (.dma x) s = .next t ∧
      t = ((s.start x.val d.idx).runDma x.val d.dma none).s.complete x.val d.idx
        ((s.start x.val d.idx).runDma x.val d.dma none).status ((s.start x.val d.idx).runDma x.val d.dma none).result ∧
      t.mem = ((s.start x.val d.idx).runDma x.val d.dma none).s.mem ∧
      Answers ((s.start x.val d.idx).runDma x.val d.dma none).s t x.val d
        ((s.start x.val d.idx).runDma x.val d.dma none).status ((s.start x.val d.idx).runDma x.val d.dma none).result) ∧
  (∀ (x : Ctx) (d : Cmd) (s : State), s.startableOp x.val 3 = some d → s.Live x.val d →
    (s.xl x.val d.ident).usable = true → (s.xl x.val d.ident).dirty = false → (s.xl x.val d.ident).kind = 0 →
    (s.xl x.val d.ident).remote = false → s.accepted x.val (s.xl x.val d.ident) = true →
    s.counterFull (s.xl x.val d.ident).object (d.f 95 80) = false → s.overrun (s.xl x.val d.ident).object (d.f 95 80) = false →
    s.homeAway 0 false (s.xl x.val d.ident).object = false → s.sync.watches = [] →
    ∃ t, exec (.signalCommand x) s = .next t ∧ Answers s t x.val d stOk 0 ∧
      (t.counter (s.xl x.val d.ident).object).value = (s.counter (s.xl x.val d.ident).object).value + d.f 95 80 ∧
      (∀ p, p ≠ (s.xl x.val d.ident).object → t.counter p = s.counter p) ∧ CtxsKept x.val s t ∧ Kept [.ctxs, .sync] s t) ∧
  (∀ (x : Ctx) (d : Cmd) (s : State), s.startableOp x.val 3 = some d → s.Live x.val d →
    (s.xl x.val d.ident).usable = false ∨ (s.xl x.val d.ident).dirty = true →
    ∃ t, exec (.signalCommand x) s = .next t ∧ Answers s t x.val d stBadDescriptor 0 ∧ CtxsKept x.val s t ∧ Kept [.ctxs] s t) ∧
  (∀ (x : Ctx) (d : Cmd) (s : State), s.startableOp x.val 4 = some d → s.Live x.val d →
    (s.xl x.val d.ident).usable = false ∨ (s.xl x.val d.ident).dirty = true →
    ∃ t, exec (.waitCommand x) s = .next t ∧ Answers s t x.val d stBadDescriptor 0 ∧ CtxsKept x.val s t ∧ Kept [.ctxs] s t) ∧
  (∀ (x : Ctx) (d : Cmd) (s : State), s.startableOp x.val 5 = some d → s.Live x.val d →
    (s.xl x.val d.ident).usable = false ∨ (s.xl x.val d.ident).dirty = true →
    ∃ t, exec (.barrierCommand x) s = .next t ∧ Answers s t x.val d stBadDescriptor 0 ∧ CtxsKept x.val s t ∧ Kept [.ctxs] s t) ∧
  (∀ (x : Ctx) (d : Cmd) (s : State), s.startableOp x.val 4 = some d → s.Live x.val d → d.opcode = 4 →
    (s.xl x.val d.ident).usable = true → (s.xl x.val d.ident).dirty = false →
    s.waitMet x.val d.ident (d.f 175 128) (hostTag x.val) = true →
    ∃ t, exec (.waitCommand x) s = .next t ∧ Answers s t x.val d stOk 0 ∧ t.sync.counters = s.sync.counters ∧
      CtxsKept x.val s t ∧ Kept [.ctxs, .sync] s t) ∧
  (∀ (x : Ctx) (d : Cmd) (p : Nat) (s : State), s.startableOp x.val 5 = some d → s.Live x.val d → d.opcode = 5 →
    d.progress = 0 → (s.xl x.val d.ident).usable = true → (s.xl x.val d.ident).dirty = false →
    (s.xl x.val d.ident).kind = 1 → (s.xl x.val d.ident).remote = false → (s.xl x.val d.ident).hold = false →
    s.partIndex (s.xl x.val d.ident).object (.host x.val) = some p → s.accepted x.val (s.xl x.val d.ident) = true →
    s.homeAway 0 true (s.xl x.val d.ident).object = false → s.mayArrive (s.xl x.val d.ident).object p = true →
    s.hasParent (s.xl x.val d.ident).object = false →
    ∃ t, exec (.barrierCommand x) s = .next t ∧
      (t.bar (s.xl x.val d.ident).object).a p = (s.bar (s.xl x.val d.ident).object).a p + 1 ∧
      Answers s t x.val d stOk ((s.bar (s.xl x.val d.ident).object).a p + 1 -
        sget 0 (s.bar (s.xl x.val d.ident).object).cArr p) ∧ t.sync.counters = s.sync.counters ∧ CtxsKept x.val s t)

/-- POWER_HINT, LOG_MARK, TRACE and TELEMETRY have their effect at once and complete with OK; a hint's phase begins its lead after the
fetch. TELEMETRY writes the block of Table 14-16, but not to a protected range; the places that the table does not give its values are the
model's choice (log 47) (08 R146; 13 R284, R286; 14 R314-R316; 15 R333). -/
def Obligations.RingServiceCommands : Prop :=
  (∀ (x : Ctx) (d : Cmd) (s : State), s.startableOp x.val 0x12 = some d → s.Live x.val d →
    ∃ t, exec (.powerHint x) s = .next t ∧ Answers s t x.val d stOk 0 ∧
      (t.ctx x.val).hint = some (Hint.mk (d.f 65 64) (d.f 76 72) (d.since + d.f 127 96 * 1000000) (d.f 159 128 * 1000000) false) ∧
      CtxsKept x.val s t ∧ Kept [.ctxs] s t) ∧
  (∀ (x : Ctx) (h : Hint) (s : State), (s.ctx x.val).hint = some h → h.start ≤ s.clk.now → h.active = false → s.emergency = false →
    ∃ t, exec (.hintPhaseStart x) s = .next t ∧ t.ctx x.val = { s.ctx x.val with hint := some { h with active := true } } ∧
      CtxsKept x.val s t ∧ Kept [.ctxs] s t) ∧
  (∀ (x : Ctx) (s : State), (s.ctx x.val).hint = none ∨ s.emergency = true → exec (.hintPhaseStart x) s = .next s) ∧
  (∀ (x : Ctx) (d : Cmd) (s : State), s.startableOp x.val 0x20 (some 3) = some d → s.Live x.val d →
    ∃ t, exec (.logMark x) s = .next t ∧ Answers s t x.val d stOk 0 ∧ t.log.seq = s.log.seq + 1 ∧
      (t.log.mem.head?).map (fun r => (r.args.code, r.args.ctx, r.args.args)) =
        some (0x0A10, some x, [BitVec.ofNat 64 d.value, BitVec.ofNat 64 d.idx]) ∧
      CtxsKept x.val s t ∧ Kept (.ctxs :: logAreas) s t ∧ RegsKept logRegs s t) ∧
  (∀ (x : Ctx) (d : Cmd) (s : State), s.startableOp x.val 0x20 (some 4) = some d → s.Live x.val d →
    ∃ t, exec (.trace x) s = .next t ∧ Answers s t x.val d stOk 0 ∧
      (∀ n, d.f 271 256 ≤ n → n < d.f 271 256 + d.f 287 272 →
        t.flag (Off.fwlTraceEn (n / 32)) (n % 32) = (d.f 288 288 == 1)) ∧
      (∀ n, n < d.f 271 256 ∨ d.f 271 256 + d.f 287 272 ≤ n →
        t.flag (Off.fwlTraceEn (n / 32)) (n % 32) = s.flag (Off.fwlTraceEn (n / 32)) (n % 32)) ∧
      CtxsKept x.val s t ∧ Kept [.ctxs, .regs] s t) ∧
  (∀ (x : Ctx) (d : Cmd) (s : State), s.startableOp x.val 0x20 (some 1) = some d → s.Live x.val d →
    isHostAddr d.mgmtAddr = false → s.isProtected d.mgmtAddr 4096 = false → s.copyReady x.val [d.mgmtAddr] = true →
    ∃ t, exec (.telemetry x) s = .next t ∧ Answers s t x.val d stOk 4096 ∧
      t.mem = (s.stores x.val d.mgmtAddr s.telemetryBlock).mem ∧ s.telemetryBlock.take 4 = natLe 0x544C4D59 4 ∧
      t.log.crashPos = s.log.crashPos + 1536 ∧ CtxsKept x.val s t ∧ Kept [.ctxs, .dev, .bad, .log, .stks] s t) ∧
  (∀ (x : Ctx) (d : Cmd) (s : State), s.startableOp x.val 0x20 (some 1) = some d → s.Live x.val d →
    s.isProtected d.mgmtAddr 4096 = true →
    ∃ t, exec (.telemetry x) s = .next t ∧ Answers s t x.val d stBadAddress 0 ∧ CtxsKept x.val s t ∧ Kept [.ctxs] s t) ∧
  (∀ (x : Ctx) (s : State), s.startable x.val = none →
    exec (.powerHint x) s = .next s ∧ exec (.logMark x) s = .next s ∧ exec (.trace x) s = .next s ∧
      exec (.telemetry x) s = .next s ∧ exec (.runProgram x) s = .next s ∧
      exec (.signalCommand x) s = .next s ∧ exec (.waitCommand x) s = .next s ∧ exec (.barrierCommand x) s = .next s)

/-- SUSPEND, RESUME and CANCEL act as soon as they are fetched. SUSPEND marks a waiting command; of a running program it stops fetch and
waits for its queues; a SNAPSHOT, SELF_TEST or SCRUB reports SUSPENDED with what it has done; of any other started command it is BUSY. RESUME takes the mark away
or lets the program go on, but beside a self-test of module scope nothing resumes but the test (09 R191). CANCEL of a waiting service command, or of a started one, completes it with CANCELLED, and of a step command
marks its step to be cancelled. A target that is done is OK, one that is no earlier slot a bad descriptor (12 R259, R260, Tables 12-4,
12-5). -/
def Obligations.ControlCommands : Prop :=
  (∀ (x : Ctx) (d e : Cmd) (s : State), s.controlTurn x.val 0x18 = some d → (s.ctx x.val).targetOf d = .waiting e →
    s.Live x.val d → d.idx ≠ e.idx →
    ∃ t, exec (.suspend x) s = .next t ∧ Answers s t x.val d stOk 0 ∧
      (∀ c, c ∈ (t.ctx x.val).cmds → c.idx = e.idx → c.suspended = true) ∧ CtxsKept x.val s t ∧ Kept [.ctxs] s t) ∧
  (∀ (x : Ctx) (d e : Cmd) (s : State), s.controlTurn x.val 0x18 = some d → (s.ctx x.val).targetOf d = .started e →
    e.opcode = 1 → e.suspended = false →
    ∃ t, exec (.suspend x) s = .next t ∧ (t.ctx x.val).entries = (s.ctx x.val).entries ∧
      (∀ r, r ∈ (t.ctx x.val).runs → r.idx = e.idx → r.suspended = true) ∧ t.hive = s.hive ∧ CtxsKept x.val s t ∧
      Kept [.ctxs] s t) ∧
  (∀ (x : Ctx) (d e : Cmd) (s : State), s.controlTurn x.val 0x18 = some d → (s.ctx x.val).targetOf d = .started e →
    e.stoppable = true → e.suspended = false → s.Live x.val d → s.Live x.val e → d.idx ≠ e.idx →
    ∃ t, exec (.suspend x) s = .next t ∧
      (t.ctx x.val).entries = (s.ctx x.val).entries ++ [(s.ctx x.val).entryOf e stSuspended (s.partResult e), (s.ctx x.val).entryOf d stOk 0] ∧
      (∀ c, c ∈ (t.ctx x.val).cmds → c.idx = e.idx → c.suspended = true) ∧ CtxsKept x.val s t ∧ Kept [.ctxs] s t) ∧
  (∀ (x : Ctx) (d e : Cmd) (s : State), s.controlTurn x.val 0x18 = some d → (s.ctx x.val).targetOf d = .started e →
    e.opcode ≠ 1 → e.stoppable = false → s.Live x.val d →
    ∃ t, exec (.suspend x) s = .next t ∧ Answers s t x.val d stBusy 0 ∧ CtxsKept x.val s t ∧ Kept [.ctxs] s t) ∧
  (∀ (x : Ctx) (d e : Cmd) (s : State), s.controlTurn x.val 0x19 = some d → (s.ctx x.val).targetOf d = .waiting e →
    s.Live x.val d → d.idx ≠ e.idx →
    ∃ t, exec (.resume x) s = .next t ∧ Answers s t x.val d stOk 0 ∧
      (∀ c, c ∈ (t.ctx x.val).cmds → c.idx = e.idx → c.suspended = false) ∧ CtxsKept x.val s t ∧ Kept [.ctxs] s t) ∧
  (∀ (x : Ctx) (d e : Cmd) (s : State), s.controlTurn x.val 0x19 = some d → (s.ctx x.val).targetOf d = .started e →
    e.opcode = 1 ∨ e.stoppable = true → s.moduleTest = false ∨ e.opcode = 0x13 → s.Live x.val d → (∀ c, c ∈ (s.ctx x.val).cmds → c.opcode ≠ 0x18) → d.idx ≠ e.idx →
    ∃ t, exec (.resume x) s = .next t ∧ Answers s t x.val d stOk 0 ∧
      (∀ r, r ∈ (t.ctx x.val).runs → r.idx = e.idx → r.suspended = false) ∧
      (∀ c, c ∈ (t.ctx x.val).cmds → c.idx = e.idx → c.suspended = false) ∧ CtxsKept x.val s t ∧ Kept [.ctxs] s t) ∧
  (∀ (x : Ctx) (d e : Cmd) (s : State), s.controlTurn x.val 0x19 = some d → (s.ctx x.val).targetOf d = .started e →
    e.opcode ≠ 1 → e.stoppable = false → s.moduleTest = false → s.Live x.val d →
    ∃ t, exec (.resume x) s = .next t ∧ Answers s t x.val d stBusy 0 ∧ CtxsKept x.val s t ∧ Kept [.ctxs] s t) ∧
  (∀ (x : Ctx) (d e : Cmd) (s : State), s.controlTurn x.val 0x19 = some d → (s.ctx x.val).targetOf d = .started e →
    s.moduleTest = true → e.opcode ≠ 0x13 → exec (.resume x) s = .next s) ∧
  (∀ (x : Ctx) (d e : Cmd) (s : State), s.controlTurn x.val 0x1A = some d → (s.ctx x.val).targetOf d = .started e →
    e.stoppable = true → e.opcode ≠ 0x13 → e.isStep = false → s.Live x.val d → s.Live x.val e → d.idx ≠ e.idx →
    ∃ t, exec (.cancel x) s = .next t ∧
      (t.ctx x.val).entries =
        (s.ctx x.val).entries ++ [(s.ctx x.val).entryOf e stCancelled (s.partResult e), (s.ctx x.val).entryOf d stOk 0] ∧
      CtxsKept x.val s t ∧ Kept [.ctxs] s t) ∧
  (∀ (x : Ctx) (d e : Cmd) (s : State), s.controlTurn x.val 0x1A = some d → (s.ctx x.val).targetOf d = .waiting e →
    e.isStep = false → s.Live x.val d → s.Live x.val e → d.idx ≠ e.idx →
    ∃ t, exec (.cancel x) s = .next t ∧
      (t.ctx x.val).entries = (s.ctx x.val).entries ++ [(s.ctx x.val).entryOf e stCancelled 0, (s.ctx x.val).entryOf d stOk 0] ∧
      CtxsKept x.val s t ∧ Kept [.ctxs] s t) ∧
  (∀ (x : Ctx) (d e : Cmd) (s : State), s.controlTurn x.val 0x1A = some d → (s.ctx x.val).targetOf d = .started e →
    e.opcode = 1 ∨ e.opcode = 2 → s.joined x.val = false → d.idx ≠ e.idx →
    ∃ t, exec (.cancel x) s = .next t ∧ (∀ c, c ∈ (t.ctx x.val).cmds → c.idx = e.idx → c.cancel = true) ∧
      (t.ctx x.val).entries = (s.ctx x.val).entries ∧ CtxsKept x.val s t ∧ Kept [.ctxs] s t) ∧
  (∀ (x : Ctx) (d e : Cmd) (s : State), s.controlTurn x.val 0x1A = some d → (s.ctx x.val).targetOf d = .started e →
    e.opcode = 1 ∨ e.opcode = 2 → s.joined x.val = true → s.Live x.val d → d.idx ≠ e.idx →
    ∃ t, exec (.cancel x) s = .next t ∧ (∀ c, c ∈ (t.ctx x.val).cmds → c.idx = e.idx → c.cancel = true) ∧
      Answers s t x.val d stDeferred 0 ∧ CtxsKept x.val s t ∧ Kept [.ctxs] s t) ∧
  (∀ (x : Ctx) (d e : Cmd) (s : State), s.controlTurn x.val 0x1A = some d → (s.ctx x.val).targetOf d = .started e →
    e.opcode = 6 → (s.ctx x.val).sweep.all (fun w =>
      decide (w.phase ≠ .start ∧ w.phase ≠ .norm ∧ w.phase ≠ .decide)) = true → s.Live x.val d →
    ∃ t, exec (.cancel x) s = .next t ∧ Answers s t x.val d stBusy 0 ∧ CtxsKept x.val s t ∧ Kept [.ctxs] s t) ∧
  (∀ (x : Ctx) (d : Cmd) (s : State), (s.ctx x.val).targetOf d = .none ∨ (s.ctx x.val).targetOf d = .done →
    s.Live x.val d →
    (s.controlTurn x.val 0x18 = some d → ∃ t, exec (.suspend x) s = .next t ∧
      Answers s t x.val d (if (s.ctx x.val).targetOf d = .done then stOk else stBadDescriptor) 0 ∧ CtxsKept x.val s t ∧
      Kept [.ctxs] s t) ∧
    (s.controlTurn x.val 0x19 = some d → ∃ t, exec (.resume x) s = .next t ∧
      Answers s t x.val d (if (s.ctx x.val).targetOf d = .done then stOk else stBadDescriptor) 0 ∧ CtxsKept x.val s t ∧
      Kept [.ctxs] s t) ∧
    (s.controlTurn x.val 0x1A = some d → ∃ t, exec (.cancel x) s = .next t ∧
      Answers s t x.val d (if (s.ctx x.val).targetOf d = .done then stOk else stBadDescriptor) 0 ∧ CtxsKept x.val s t ∧
      Kept [.ctxs] s t)) ∧
  (∀ (x : Ctx) (s : State), (s.ctx x.val).cmds = [] →
    exec (.suspend x) s = .next s ∧ exec (.resume x) s = .next s ∧ exec (.cancel x) s = .next s)

/-- EXPORT on a ring: HOST_START starts the one host copy with its tail word at zero and HOST_STOP ends it; SET_TENSORS takes a list
for the next commit; SNAPSHOT checks its table and writes the context's committed state record by record, unless another is open; RESTORE
checks its table and every record of its buffer and applies all, in SEQ order, or none, and writes no protected range
(08 R145, R146; 09 R166, R170, R174; 13 R268, R280-R282). -/
def Obligations.ExportCommands : Prop :=
  (∀ (x : Ctx) (d : Cmd) (s : State), s.startableOp x.val 0x10 (some 0) = some d → s.Live x.val d →
    s.fail.exp.host.isSome = true →
    ∃ t, exec (.hostStart x) s = .next t ∧ Answers s t x.val d stBusy 0 ∧ CtxsKept x.val s t ∧ Kept [.ctxs] s t) ∧
  (∀ (x : Ctx) (d : Cmd) (s : State), s.startableOp x.val 0x10 (some 0) = some d → s.Live x.val d →
    s.fail.exp.host = none → s.hostReady x.val d.tailAddr = true → isHostAddr d.tailAddr = true →
    ∃ t, exec (.hostStart x) s = .next t ∧ Answers s t x.val d stOk 0 ∧
      t.fail.exp.host = some (HostCopy.mk x.val d.buf d.tailAddr d.size 0 0 s.fail.exp.seq false) ∧
      t.mem.host.bytes (s.busAddr x.val d.tailAddr) 4 = [0, 0, 0, 0] ∧
      (∀ a, a < s.busAddr x.val d.tailAddr ∨ s.busAddr x.val d.tailAddr + 4 ≤ a → t.mem.host.byte a = s.mem.host.byte a) ∧
      CtxsKept x.val s t ∧ Kept [.ctxs, .fail, .host] s t) ∧
  (∀ (x : Ctx) (d : Cmd) (s : State), s.startableOp x.val 0x10 (some 1) = some d → s.Live x.val d →
    ∃ t, exec (.hostStop x) s = .next t ∧ Answers s t x.val d stOk 0 ∧ t.fail.exp = { s.fail.exp with host := none } ∧
      CtxsKept x.val s t ∧ Kept [.ctxs, .fail] s t) ∧
  (∀ (x : Ctx) (d : Cmd) (s : State), s.startableOp x.val 0x10 (some 4) = some d → s.Live x.val d →
    s.copyReady x.val [d.list] = true →
    (∀ a, a ∈ s.tensorList x.val d → isHostAddr a = false ∧ a % 64 = 0 ∧ s.mayAccess x.val a 64 = true) →
    ∃ t, exec (.setTensors x) s = .next t ∧ Answers s t x.val d stOk 0 ∧
      (t.ctx x.val).tensorsNext = some (s.tensorList x.val d) ∧ (t.ctx x.val).tensors = (s.ctx x.val).tensors ∧
      CtxsKept x.val s t ∧ Kept [.ctxs] s t) ∧
  (∀ (x : Ctx) (d : Cmd) (a : Nat) (s : State), s.startableOp x.val 0x10 (some 4) = some d → s.Live x.val d →
    s.copyReady x.val [d.list] = true → a ∈ s.tensorList x.val d →
    isHostAddr a = true ∨ a % 64 ≠ 0 ∨ s.mayAccess x.val a 64 = false →
    ∃ t, exec (.setTensors x) s = .next t ∧ Answers s t x.val d stBadAddress 0 ∧
      (t.ctx x.val).tensorsNext = (s.ctx x.val).tensorsNext ∧ CtxsKept x.val s t ∧ Kept [.ctxs] s t) ∧
  (∀ (x : Ctx) (d : Cmd) (s : State), s.startableOp x.val 0x10 (some 2) = some d → s.Live x.val d →
    (s.ctx x.val).snapshotOpen = true ∨ s.tableForm x.val d.sweepTable ≠ stOk →
    ∃ t, exec (.snapshot x) s = .next t ∧
      Answers s t x.val d (if (s.ctx x.val).snapshotOpen then stBusy else s.tableForm x.val d.sweepTable) 0 ∧
      CtxsKept x.val s t ∧ Kept [.ctxs] s t) ∧
  (∀ (x : Ctx) (d : Cmd) (s : State), s.startableOp x.val 0x10 (some 2) = some d → (s.ctx x.val).snapshotOpen = false →
    s.tableForm x.val d.sweepTable = stOk → s.snapshotsGo x.val = true →
    s.copyReady x.val (d.buf :: (s.snapshotReads x.val d.sweepTable).map (·.1)) = true →
    exec (.snapshot x) s = .next ((s.start x.val d.idx).snapshotStep x.val d)) ∧
  (∀ (x : Ctx) (d : Cmd) (s : State), s.startableOp x.val 0x10 (some 2) = none → s.snapshotTurn x.val = some d →
    s.copyReady x.val ((d.buf + 64 * d.units) :: (s.snapshotReads x.val d.sweepTable).map (·.1)) = true →
    exec (.snapshot x) s = .next (s.snapshotStep x.val d)) ∧
  (∀ (x : Nat) (d : Cmd) (r : Draft) (bs : List Byte) (s : State), (s.ctx x).cmd d.idx = some d →
    (s.fullDrafts x d.sweepTable (s.ctx x).step (s.ctx x).tensors)[d.progress]? = some r →
    bs = r.bytes (BitVec.ofNat 32 d.progress) → d.units + bs.length / 64 ≤ d.size → r.kind ≠ kCommit →
    s.isProtected (d.buf + 64 * d.units) bs.length = false → d.buf + 64 * d.units + bs.length ≤ 0x10000000000 →
    (s.snapshotStep x d).mem.dev.bytes (d.buf + 64 * d.units) bs.length = bs ∧
      (∀ a, a < d.buf + 64 * d.units ∨ d.buf + 64 * d.units + bs.length ≤ a →
        (s.snapshotStep x d).mem.dev.byte a = s.mem.dev.byte a) ∧
      ((s.snapshotStep x d).ctx x).cmd d.idx = some { d with progress := d.progress + 1, units := d.units + bs.length / 64 } ∧
      CtxsKept x s (s.snapshotStep x d) ∧ Kept [.ctxs, .dev, .bad, .stks] s (s.snapshotStep x d)) ∧
  (∀ (x : Nat) (d : Cmd) (s : State), s.Live x d →
    (s.fullDrafts x d.sweepTable (s.ctx x).step (s.ctx x).tensors)[d.progress]? = none →
    Answers s (s.snapshotStep x d) x d stOk d.units ∧ CtxsKept x s (s.snapshotStep x d) ∧
      Kept [.ctxs] s (s.snapshotStep x d)) ∧
  (∀ (x : Nat) (d : Cmd) (r : Draft) (s : State), s.Live x d →
    (s.fullDrafts x d.sweepTable (s.ctx x).step (s.ctx x).tensors)[d.progress]? = some r →
    d.size < d.units + (r.bytes (BitVec.ofNat 32 d.progress)).length / 64 →
    Answers s (s.snapshotStep x d) x d stNoResource d.units ∧ Kept [.ctxs] s (s.snapshotStep x d)) ∧
  (∀ (x : Ctx) (d : Cmd) (s : State), s.startableOp x.val 0x10 (some 3) = some d → s.Live x.val d →
    (s.ctx x.val).stepInProgress = true ∨ (s.ctx x.val).snapshotOpen = true →
    ∃ t, exec (.restore x) s = .next t ∧ Answers s t x.val d stBusy 0 ∧ CtxsKept x.val s t ∧ Kept [.ctxs] s t) ∧
  (∀ (x : Ctx) (d : Cmd) (s : State), s.startableOp x.val 0x10 (some 3) = some d → s.Live x.val d →
    (s.ctx x.val).stepInProgress = false → (s.ctx x.val).snapshotOpen = false → s.tableForm x.val d.sweepTable ≠ stOk →
    ∃ t, exec (.restore x) s = .next t ∧ Answers s t x.val d (s.tableForm x.val d.sweepTable) 0 ∧ CtxsKept x.val s t ∧
      Kept [.ctxs] s t) ∧
  (∀ (x : Ctx) (d : Cmd) (r : List Byte) (s : State), s.startableOp x.val 0x10 (some 3) = some d → s.Live x.val d →
    (s.ctx x.val).stepInProgress = false → (s.ctx x.val).snapshotOpen = false → s.tableForm x.val d.sweepTable = stOk →
    s.copyReady x.val [d.buf, d.buf + 64 * d.size - 1] = true →
    (s.readRecords x.val (d.size + 1) d.buf (64 * d.size)).find? (fun r => !recCheck (s.loads x.val) r) = some r →
    ∃ t, exec (.restore x) s = .next t ∧ Answers s t x.val d stBadDescriptor (recSeq r).toNat ∧ CtxsKept x.val s t ∧
      Kept [.ctxs] s t) ∧
  (∀ (x : Ctx) (d : Cmd) (e : Nat × Nat) (rs : List (List Byte)) (s : State), s.startableOp x.val 0x10 (some 3) = some d →
    s.Live x.val d → (s.ctx x.val).stepInProgress = false → (s.ctx x.val).snapshotOpen = false →
    s.tableForm x.val d.sweepTable = stOk → s.copyReady x.val [d.buf, d.buf + 64 * d.size - 1] = true →
    rs = s.readRecords x.val (d.size + 1) d.buf (64 * d.size) → (∀ r, r ∈ rs → recCheck (s.loads x.val) r = true) →
    e ∈ s.recordExtents x.val rs → isHostAddr e.1 = true ∨ s.mayAccess x.val e.1 e.2 = false ∨ s.isProtected e.1 e.2 = true →
    ∃ t, exec (.restore x) s = .next t ∧ Answers s t x.val d stBadAddress 0 ∧ CtxsKept x.val s t ∧ Kept [.ctxs] s t) ∧
  (∀ (x : Ctx) (d : Cmd) (rs : List (List Byte)) (s : State), s.startableOp x.val 0x10 (some 3) = some d → s.Live x.val d →
    (s.ctx x.val).stepInProgress = false → (s.ctx x.val).snapshotOpen = false → s.tableForm x.val d.sweepTable = stOk →
    s.copyReady x.val [d.buf, d.buf + 64 * d.size - 1] = true →
    rs = s.readRecords x.val (d.size + 1) d.buf (64 * d.size) → (∀ r, r ∈ rs → recCheck (s.loads x.val) r = true) →
    (∀ e, e ∈ s.recordExtents x.val rs →
      isHostAddr e.1 = false ∧ s.mayAccess x.val e.1 e.2 = true ∧ s.isProtected e.1 e.2 = false) →
    s.copyReady x.val ((s.recordExtents x.val rs).map (·.1)) = true →
    s.mayRederive x.val d.sweepTable (s.tgts x.val d.sweepTable) = true →
    ((s.applyRecords x.val (bySeq rs)).swHdr x.val d.sweepTable).targets = 0 →
    ∃ t, exec (.restore x) s = .next t ∧ Answers s t x.val d stOk 0 ∧ t.mem = (s.applyRecords x.val (bySeq rs)).mem ∧
      (t.ctx x.val).step = ((s.applyRecords x.val (bySeq rs)).ctx x.val).step ∧ CtxsKept x.val s t ∧
      Kept [.ctxs, .dev, .host, .bad, .layers, .stks] s t) ∧
  (∀ (x : Ctx) (s : State), s.startable x.val = none →
    exec (.hostStart x) s = .next s ∧ exec (.hostStop x) s = .next s ∧ exec (.setTensors x) s = .next s ∧
      exec (.restore x) s = .next s)

/-- The host copy takes records in order while its ring has room and drops from the first that does not fit, with OVERRUN; EN starts a
stream at SEQ 0 and every write with EN resynchronises its partner; an ACK and a RESEND move the stream; a silent partner is lost
(09 R166, R171-R174, R177, R180). -/
def Obligations.RecordStream : Prop :=
  (∀ (h : HostCopy) (r : Rec) (s : State), s.fail.exp.host = some h → s.hostNext h = some r →
    s.hostReady h.x h.base = true → (s.exporting && !s.joins 0 (r.stack / 2)) = false → r.seq = h.next ∨ h.gap = true → h.tail + r.bytes.length / 64 - h.head ≤ h.size →
    ∃ t, exec .hostRecordWrite s = .next t ∧
      t.fail.exp = { s.fail.exp with host := some { h with tail := h.tail + r.bytes.length / 64, next := r.seq + 1, gap := false } } ∧
      (r.bytes.length = 64 → isHostAddr h.base = true → isHostAddr h.tailAddr = true →
        h.tailAddr + 4 ≤ h.base + 64 * (h.tail % h.size) ∨ h.base + 64 * (h.tail % h.size) + 64 ≤ h.tailAddr →
        t.mem.host.bytes (s.busAddr h.x (h.base + 64 * (h.tail % h.size))) 64 = r.bytes ∧
        t.mem.host.bytes (s.busAddr h.x h.tailAddr) 4 = natLe (h.tail + 1) 4) ∧ Kept [.fail, .dev, .host, .bad] s t) ∧
  (∀ (h : HostCopy) (r : Rec) (s : State), s.fail.exp.host = some h → s.hostNext h = some r →
    s.hostReady h.x h.base = true → (s.exporting && !s.joins 0 (r.stack / 2)) = false → r.seq = h.next → h.gap = false → h.size < h.tail + r.bytes.length / 64 - h.head →
    ∃ t, exec .hostRecordWrite s = .next t ∧ t.flag Off.updExpHost 63 = true ∧
      t.fail.exp = { s.fail.exp with host := some { h with next := r.seq + 1, gap := true } } ∧
      t.log.seq = s.log.seq + 1 ∧ Kept (.fail :: logAreas) s t ∧ RegsKept (Off.updExpHost :: logRegs) s t) ∧
  (∀ s : State, s.fail.exp.host = none → exec .hostRecordWrite s = .next s) ∧
  (∀ (h : HostCopy) (s : State), s.fail.exp.host = some h → s.hostNext h = none → exec .hostRecordWrite s = .next s) ∧
  (∀ (f : Func) (v : Word) (s : State), s.barOpen = true →
    ∃ t, exec (.expHostHead f v) s = .next t ∧ t.field Off.updExpHost 31 0 = v.toNat % 2 ^ 32 ∧
      t.flag Off.updExpHost 63 = (s.flag Off.updExpHost 63 && !v.toNat.testBit 63) ∧
      (∀ h, s.fail.exp.host = some h → 0 < h.size → h.head ≤ h.tail →
        ∃ g, t.fail.exp.host = some g ∧ h.head ≤ g.head ∧ g.head ≤ h.tail ∧ g = { h with head := g.head }) ∧
      Kept [.regs, .fail] s t ∧ RegsKept [Off.updExpHost] s t) ∧
  (∀ (v : Word) (s : State), s.barOpen = true → v.toNat.testBit 0 = true → s.exporting = false →
    ∃ t, exec (.expCtrlWrite 0 v) s = .next t ∧ t.exporting = true ∧ t.fail.exp.seq = 0 ∧ t.fail.exp.recs = [] ∧
      t.fail.exp.rows = [] ∧ t.fail.exp.resync = true ∧ t.fail.exp.resyncPos = 0 ∧ t.fail.exp.resyncEnd = none ∧
      t.fail.exp.lost = false ∧ t.fail.exp.heard = s.clk.now ∧
      (∀ x, t.ctx x = { s.ctx x with unacked := none }) ∧ Kept [.regs, .ctxs, .fail] s t ∧ RegsKept [Off.updExpCtrl] s t) ∧
  (∀ (v : Word) (s : State), s.barOpen = true → v.toNat.testBit 0 = true → s.exporting = true →
    ∃ t, exec (.expCtrlWrite 0 v) s = .next t ∧ t.exporting = true ∧
      t.fail.exp = { s.fail.exp with resync := true, resyncPos := 0, resyncEnd := none, lost := false, heard := s.clk.now } ∧
      Kept [.regs, .fail] s t ∧ RegsKept [Off.updExpCtrl] s t) ∧
  (∀ (v : Word) (s : State), s.barOpen = true → v.toNat.testBit 0 = false →
    ∃ t, exec (.expCtrlWrite 0 v) s = .next t ∧ t.exporting = false ∧ t.fail.exp.resync = false ∧
      t.fail.exp.recs = (if s.fail.exp.host.isSome then s.fail.exp.recs else []) ∧ t.fail.exp.seq = s.fail.exp.seq ∧
      Kept [.regs, .fail] s t ∧ RegsKept [Off.updExpCtrl] s t) ∧
  (∀ (f : Func) (v : Word) (s : State), s.barOpen = true → f.val ≠ 0 →
    exec (.expCtrlWrite f v) s = .next (s.ignored f.val Off.updExpCtrl v.toNat)) ∧
  (∀ (f : Func) (v : Word) (s : State), s.barOpen = false →
    exec (.expHostHead f v) s = .next s ∧ exec (.expCtrlWrite f v) s = .next s) ∧
  (∀ (d : Nat) (s : State), s.clk.lock = true → s.streamPeers = [d] → sget 0 s.fail.exp.sentTo d ≤ s.lockCycle →
    (∀ r, r ∈ s.fail.exp.replies → r.1 ≠ d) →
    ∃ t n, exec .keepalive s = .next t ∧ n = (s.ctxs.map (fun c => c.2.step)).foldl max 0 ∧ t.fail.exp.seq = s.fail.exp.seq ∧ t.fail.exp.recs = s.fail.exp.recs ∧
      t.fail.exp.replies = s.fail.exp.replies ++
        [(d, recordBytes s.fail.exp.seq.toNat kKeepalive 0 0 n 0 (natLe n 6) [] 0)] ∧
      sget 0 t.fail.exp.sentTo d = s.lockCycle + 1 ∧ Kept [.fail] s t) ∧
  (∀ s : State, s.clk.lock = false ∨ (∀ d, d ∈ s.streamPeers → s.lockCycle < sget 0 s.fail.exp.sentTo d) →
    exec .keepalive s = .next s) ∧
  (∀ (n : BitVec 48) (q : BitVec 32) (s : State), s.exporting = true → s.fail.exp.resyncEnd ≠ some q →
    ∃ t, exec (.ack n q) s = .next t ∧ t.fail.exp = { s.fail.exp with heard := s.clk.now, ackStep := n.toNat } ∧
      (∀ x, t.ctx x = if (s.ctx x).unacked = some q then { s.ctx x with unacked := none } else s.ctx x) ∧
      Kept [.ctxs, .fail] s t) ∧
  (∀ (n : BitVec 48) (q : BitVec 32) (s : State), s.exporting = true → s.fail.exp.resync = true →
    s.fail.exp.resyncEnd = some q →
    ∃ t, exec (.ack n q) s = .next t ∧ t.mirrored = !s.fail.exp.lost ∧ t.fail.exp =
        { s.fail.exp with heard := s.clk.now, ackStep := n.toNat, resync := false, resyncPos := 0, resyncEnd := none } ∧
      Kept [.ctxs, .fail] s t) ∧
  (∀ (q : BitVec 32) (s : State), s.exporting = true → (∃ r, r ∈ s.fail.exp.recs ∧ r.seq = q) →
    ∃ t, exec (.resend q) s = .next t ∧ t.fail.exp = { s.fail.exp with heard := s.clk.now, next := q } ∧ Kept [.fail] s t) ∧
  (∀ (q : BitVec 32) (s : State), s.exporting = true → (∀ r, r ∈ s.fail.exp.recs → r.seq ≠ q) →
    2 ^ 31 ≤ (q - s.fail.exp.seq).toNat →
    ∃ t, exec (.resend q) s = .next t ∧
      t.fail.exp = { s.fail.exp with heard := s.clk.now, resync := true, resyncPos := 0, resyncEnd := none } ∧
      Kept [.fail] s t) ∧
  (∀ (q : BitVec 32) (s : State), s.exporting = true → (∀ r, r ∈ s.fail.exp.recs → r.seq ≠ q) →
    (q - s.fail.exp.seq).toNat < 2 ^ 31 →
    ∃ t, exec (.resend q) s = .next t ∧ t.fail.exp = { s.fail.exp with heard := s.clk.now } ∧ Kept [.fail] s t) ∧
  (∀ (n : BitVec 48) (q : BitVec 32) (s : State), s.exporting = false →
    exec (.ack n q) s = .next s ∧ exec (.resend q) s = .next s ∧ exec .resynchronisation s = .next s ∧
      exec .partnerLost s = .next s) ∧
  (∀ (d : Draft) (s : State), s.exporting = true → s.fail.exp.resync = true → s.sweepsQuiet = true →
    s.resyncDrafts[s.fail.exp.resyncPos]? = some d → s.roomFor [d] = true →
    ∃ t, exec .resynchronisation s = .next t ∧ t.fail.exp.seq = s.fail.exp.seq + 1 ∧
      t.fail.exp.recs = s.fail.exp.recs ++ [Rec.mk s.fail.exp.seq d.kind d.ctx d.step d.stack (d.bytes s.fail.exp.seq)
        (sget 0 s.fail.exp.heads d.stack) false] ∧
      t.fail.exp.resync = true ∧ t.fail.exp.resyncPos = s.fail.exp.resyncPos + 1 ∧
      t.fail.exp.resyncEnd =
        (if s.fail.exp.resyncPos + 1 = s.resyncDrafts.length then some s.fail.exp.seq else s.fail.exp.resyncEnd) ∧
      (d.kind = kCommit → (t.ctx d.ctx).unacked = some s.fail.exp.seq) ∧ (d.kind ≠ kCommit → t.ctxs = s.ctxs) ∧
      Kept [.ctxs, .fail, .dev, .host, .bad, .stks] s t) ∧
  (∀ s : State, s.fail.exp.resync = false ∨ s.sweepsQuiet = false ∨ s.resyncDrafts[s.fail.exp.resyncPos]? = none →
    exec .resynchronisation s = .next s) ∧
  (∀ s : State, s.exporting = true → s.fail.exp.lost = false →
    s.fail.exp.heard + timeoutPs (s.field Off.updExpCtrl 31 16) ≤ s.clk.now →
    ∃ t, exec .partnerLost s = .next t ∧ t.fail.exp = { s.fail.exp with lost := true } ∧ t.log.seq = s.log.seq + 1 ∧
      Kept (.fail :: logAreas) s t ∧ RegsKept logRegs s t) ∧
  (∀ s : State, s.clk.now < s.fail.exp.heard + timeoutPs (s.field Off.updExpCtrl 31 16) → exec .partnerLost s = .next s)

/-- A mirror spools the records of a context in step, asks again for one that is damaged or missing, takes the full records of a
resynchronisation up to its closing COMMIT, beside the steps that the source commits meanwhile, applies a step whole at its COMMIT and acknowledges it, takes back the last step at UNDO, out
of the spool or as applied, and reports a source that is lost with the step it applied (09 R167, R172, R175-R177, R179, R181). -/
def Obligations.MirrorOfASource : Prop :=
  (∀ (p : Source) (r : List Byte) (s : State), s.mirValid p.val = true → s.fail.silenced.contains (s.mirSource p.val) = false →
    (s.mirror p.val).state = 1 → (s.mirror p.val).next = some (recSeq r) → recOk r = true → recKind r < kUndo →
    ((s.mirror p.val).ctx (recCtx r)).inStep = true → (recKind r == kBlock && recFull r) = false →
    s.mirSize p.val ≠ 0 → (s.mirror p.val).dropped = none → (s.mirror p.val).used + r.length ≤ s.mirSize p.val →
    (s.mirror p.val).pos + r.length ≤ s.mirSize p.val → 0 < r.length → s.mirSource p.val ≠ s.partner →
    s.mirSpoolBase p.val + s.mirSize p.val ≤ 0x10000000000 →
    ∃ t, exec (.recordReceive p r) s = .next t ∧
      t.mirror p.val = { s.mirror p.val with
        heard := s.clk.now, next := some (recSeq r + 1), spool := (s.mirror p.val).spool ++ [r],
        pos := ((s.mirror p.val).pos + r.length) % s.mirSize p.val } ∧
      t.mem.dev.bytes (s.mirSpoolBase p.val + (s.mirror p.val).pos) r.length = r ∧
      t.fail.exp = s.fail.exp ∧ (∀ q, q ≠ p.val → t.mirror q = s.mirror q) ∧ Kept [.fail, .dev, .bad, .stks] s t) ∧
  (∀ (p : Source) (q : BitVec 32) (r : List Byte) (s : State), s.mirValid p.val = true →
    s.fail.silenced.contains (s.mirSource p.val) = false → (s.mirror p.val).state ≠ 3 → (s.mirror p.val).next = some q →
    recOk r = false ∨ (recOk r = true ∧ recKind r < kKeepalive ∧ recSeq r ≠ q ∧ (recSeq r - q).toNat < 2 ^ 31) →
    ∃ t, exec (.recordReceive p r) s = .next t ∧ t.mirror p.val = { s.mirror p.val with heard := s.clk.now } ∧
      t.fail.exp.replies = s.fail.exp.replies ++
        [(s.mirSource p.val, recordBytes 0 kResend 0 0 0 0 (natLe q.toNat 4) [] 0)] ∧ Kept [.fail] s t) ∧
  (∀ (p : Source) (r : List Byte) (s : State), s.mirValid p.val = true → s.fail.silenced.contains (s.mirSource p.val) = false →
    (s.mirror p.val).state ≠ 3 → recOk r = true → recKind r = kKeepalive → s.mirSource p.val ≠ s.partner →
    ∃ t, exec (.recordReceive p r) s = .next t ∧ t.mirror p.val = { s.mirror p.val with heard := s.clk.now } ∧
      t.fail.exp = s.fail.exp ∧ Kept [.fail] s t) ∧
  (∀ (p : Source) (r : List Byte) (n : Nat) (ws : Writes) (s : State), s.mirValid p.val = true →
    s.fail.silenced.contains (s.mirSource p.val) = false → (s.mirror p.val).state = 2 →
    (s.mirror p.val).next = some (recSeq r) → recOk r = true → recKind r = kCommit → s.mirSize p.val ≠ 0 →
    ((s.mirror p.val).ctx (recCtx r)).inStep = false → n = recNat r 16 6 →
    ((s.mirror p.val).ctx (recCtx r)).fulls.length = n → 0 < n →
    ((s.mirror p.val).waiting (recCtx r)).length < n ∨ recStep r = ((s.mirror p.val).ctx (recCtx r)).applied →
    ws = (commitWrites r).map (fun w => (w.1 + s.mirDisp p.val, w.2)) → s.writesOk p.val ws = true →
    ∃ t, exec (.recordReceive p r) s = .next t ∧ ((t.mirror p.val).ctx (recCtx r)).inStep = true ∧
      ((t.mirror p.val).ctx (recCtx r)).applied = recStep r ∧
      ((t.mirror p.val).ctx (recCtx r)).image = (commitParts r (commitGroups r)).2.2 ∧
      (t.mirror p.val).spool = (s.mirror p.val).spool.filter (fun q => recCtx q != recCtx r) ∧
      t.mem = (ws.foldl (fun s w => s.stores 0 w.1 w.2) s).mem ∧
      t.fail.exp.replies = s.fail.exp.replies ++
        [(s.mirSource p.val, recordBytes 0 kAck 0 0 (recStep r) 0 (natLe (recSeq r).toNat 4) [] 0)] ∧
      Kept [.fail, .dev, .host, .bad] s t) ∧
  (∀ (p n : Nat) (r : List Byte) (v s : State), n = recNat r 16 6 → ((s.mirror p).ctx (recCtx r)).fulls.length ≠ n →
    n ≤ ((s.mirror p).waiting (recCtx r)).length →
    s.overRecords p (((s.mirror p).waiting (recCtx r)).drop (((s.mirror p).waiting (recCtx r)).length - n) ++ [r]) = .ok v →
    (s.closingCommit p r).mem = v.mem ∧ (((s.closingCommit p r).mirror p).ctx (recCtx r)).applied = recStep r ∧
      ((s.closingCommit p r).mirror p).spool = (v.mirror p).spool.filter (fun q => recCtx q != recCtx r) ∧
      (s.closingCommit p r).fail.exp = v.fail.exp) ∧
  (∀ (p : Source) (r : List Byte) (n : Nat) (s : State), s.mirValid p.val = true →
    s.fail.silenced.contains (s.mirSource p.val) = false → (s.mirror p.val).state = 2 →
    (s.mirror p.val).next = some (recSeq r) → recOk r = true → recKind r = kCommit → s.mirSize p.val ≠ 0 →
    ((s.mirror p.val).ctx (recCtx r)).inStep = false → n = recNat r 16 6 →
    ((s.mirror p.val).ctx (recCtx r)).fulls.length ≠ n → ((s.mirror p.val).waiting (recCtx r)).length < n →
    ∃ t, exec (.recordReceive p r) s = .next t ∧ (t.mirror p.val).state = 2 ∧ (t.mirror p.val).spool = [] ∧ t.mem = s.mem ∧
      t.fail.exp.replies = s.fail.exp.replies ++
        [(s.mirSource p.val, recordBytes 0 kResend 0 0 0 0 (natLe (recSeq r + 1 - 0x40000000).toNat 4) [] 0)] ∧
      Kept [.fail] s t) ∧
  (∀ (p : Source) (r : List Byte) (s : State), s.mirValid p.val = false ∨
      s.fail.silenced.contains (s.mirSource p.val) = true ∨ (s.mirror p.val).state = 3 →
    exec (.recordReceive p r) s = .next s) ∧
  (∀ (p : Source) (all rs rest : List (List Byte)) (c : List Byte) (u : State) (old : Writes) (s : State),
    s.mirValid p.val = true → (s.mirror p.val).state = 1 → splitStep (s.mirror p.val).spool = some (all, c, rest) →
    recNat c 16 6 ≤ all.length → rs = all.drop (all.length - recNat c 16 6) →
    recStep c = ((s.mirror p.val).ctx (recCtx c)).applied + 1 → (∀ r, r ∈ rs → recStep r = recStep c) →
    s.applyStep p.val (rs ++ [c]) [] = .ok (u, old) → (s.mirror p.val).dropped = none →
    ∃ t, exec (.commitRecordApply p) s = .next t ∧ t.mem = u.mem ∧ (t.mirror p.val).applied = recStep c ∧
      ((t.mirror p.val).ctx (recCtx c)).applied = recStep c ∧ ((t.mirror p.val).ctx (recCtx c)).undo = old ∧
      (t.mirror p.val).spool = rest ∧ (t.mirror p.val).state = 1 ∧
      t.fail.exp.replies = s.fail.exp.replies ++
        [(s.mirSource p.val, recordBytes 0 kAck 0 0 (recStep c) 0 (natLe (recSeq c).toNat 4) [] 0)] ∧
      Kept [.dev, .host, .bad, .fail] s t) ∧
  (∀ (p : Source) (all rest : List (List Byte)) (c : List Byte) (q : BitVec 32) (s : State),
    s.mirValid p.val = true → (s.mirror p.val).state = 1 → splitStep (s.mirror p.val).spool = some (all, c, rest) →
    (s.mirror p.val).next = some q →
    all.length < recNat c 16 6 ∨ recStep c ≠ ((s.mirror p.val).ctx (recCtx c)).applied + 1 →
    ∃ t, exec (.commitRecordApply p) s = .next t ∧ (t.mirror p.val).state = 2 ∧ (t.mirror p.val).spool = [] ∧
      (t.mirror p.val).applied = (s.mirror p.val).applied ∧
      t.fail.exp.replies = s.fail.exp.replies ++
        [(s.mirSource p.val, recordBytes 0 kResend 0 0 0 0 (natLe (q - 0x40000000).toNat 4) [] 0)] ∧ Kept [.fail] s t) ∧
  (∀ (p : Source) (s : State), s.mirValid p.val = false ∨ (s.mirror p.val).state = 0 ∨ (s.mirror p.val).state = 3 ∨
      splitStep (s.mirror p.val).spool = none →
    exec (.commitRecordApply p) s = .next s) ∧
  (∀ (p : Source) (x : Ctx) (s : State), s.mirValid p.val = true →
    (s.mirror p.val).spool.all (fun r => !(recKind r == kCommit && recCtx r == x.val)) = true →
    ((s.mirror p.val).ctx x.val).undo ≠ [] →
    ∃ t, exec (.undo ⟨p, x⟩) s = .next t ∧
      t.mem = (((s.mirror p.val).ctx x.val).undo.foldl (fun s w => s.stores 0 w.1 w.2) s).mem ∧
      ((t.mirror p.val).ctx x.val).undo = [] ∧
      ((t.mirror p.val).ctx x.val).applied = ((s.mirror p.val).ctx x.val).applied - 1 ∧
      ((t.mirror p.val).ctx x.val).image = ((s.mirror p.val).ctx x.val).undoImage ∧ Kept [.dev, .host, .bad, .fail] s t) ∧
  (∀ (p : Source) (x : Ctx) (c : List Byte) (s : State), s.mirValid p.val = true →
    ((s.mirror p.val).spool.filter (fun r => recKind r == kCommit && recCtx r == x.val)).getLast? = some c →
    ∃ t, exec (.undo ⟨p, x⟩) s = .next t ∧ t.mem = s.mem ∧
      (t.mirror p.val).spool = (s.mirror p.val).spool.filter (fun r => !(recCtx r == x.val && recStep r == recStep c)) ∧
      ((t.mirror p.val).ctx x.val) = ((s.mirror p.val).ctx x.val) ∧ Kept [.fail] s t) ∧
  (∀ (p : Source) (b : Bool) (s : State), s.mirValid p.val = true → (s.mirror p.val).state ≠ 3 →
    (b = true ∨ (s.mirror p.val).heard + timeoutPs (s.field (Off.updMirrorIn p.val) 31 16) ≤ s.clk.now) →
    splitStep (s.mirror p.val).spool = none →
    ∃ t, exec (.sourceLost p b) s = .next t ∧
      t.mirror p.val = { s.mirror p.val with state := 3, spool := [], dropped := none } ∧ t.fail.exp = s.fail.exp ∧
      t.out = .towpath 0x0022 (natLe (s.mirSource p.val) 2 ++ natLe (s.mirror p.val).applied 6 ++
        natLe (if b then 2 else 1) 1) :: s.out ∧ Kept [.fail, .out] s t) ∧
  (∀ (p : Source) (b : Bool) (s : State), s.mirValid p.val = false ∨ (s.mirror p.val).state = 3 →
    exec (.sourceLost p b) s = .next s) ∧
  (∀ (p : Source) (x : Ctx) (s : State), s.mirValid p.val = false → exec (.undo ⟨p, x⟩) s = .next s)

/-- At the lock cycle of a RANK_MOVE the lost rank's own module ends its work, its self-test and the host state of the contexts that lost their host, and idles; every other module of the job abandons its step
for a replay and, one step ahead, goes back; the standby takes the rank and the step, unless it runs job work of its own; working copies whose sweep
table was not known are derived once it is (09 R179, R180, R182-R184; 12 R264). -/
def Obligations.TakeoverMovesARank : Prop :=
  (∀ (mv : RankMove) (s : State), s.fail.moves.find? (fun m => decide (m.lt ≤ s.lockCycle)) = some mv → s.clk.lock = true → mv.x < 64 →
    mv.rank = s.rank mv.x → mv.standby ≠ s.moduleNo →
    ∃ t, exec .takeover s = .next t ∧ t.fail.moved = true ∧ t.fail.moves = s.fail.moves.erase mv ∧
      t.hive.test = none ∧ (∀ x, x ∈ s.ctxs.map Prod.fst → (s.ctx x).state = 2 ∨ (s.ctx x).state = 3 ∨ (s.ctx x).state = 4 →
        (t.ctx x).state = 0 ∧ (t.ctx x).entries = [] ∧ (t.ctx x).cmds = []) ∧
      (∀ p, p < 16 → (t.port p).state = 6)) ∧
  (∀ (mv : RankMove) (s : State), s.fail.moves.find? (fun m => decide (m.lt ≤ s.lockCycle)) = some mv → s.clk.lock = true → mv.x < 64 →
    mv.rank ≠ s.rank mv.x → mv.standby ≠ s.moduleNo → (s.ctx mv.x).step ≠ mv.d + 1 → s.journalBad mv.x = none →
    ∃ t, exec .takeover s = .next t ∧ t.fail.moved = s.fail.moved ∧ t.fail.moves = s.fail.moves.erase mv ∧
      (t.ctx mv.x).abandon = some (.replay, s.clk.now) ∧ (t.ctx mv.x).step = (s.ctx mv.x).step ∧ (t.ctx mv.x).runs = []) ∧
  (∀ (mv : RankMove) (s : State), s.fail.moves.find? (fun m => decide (m.lt ≤ s.lockCycle)) = some mv → s.clk.lock = true → mv.x < 64 →
    mv.rank ≠ s.rank mv.x → mv.standby ≠ s.moduleNo → (s.ctx mv.x).step = mv.d + 1 → s.journalBad mv.x = none →
    ∃ t, exec .takeover s = .next t ∧ (t.ctx mv.x).abandon = some (.replay, s.clk.now) ∧ (t.ctx mv.x).step = mv.d ∧
      (t.ctx mv.x).undo = []) ∧
  (∀ (mv : RankMove) (s : State), s.fail.moves.find? (fun m => decide (m.lt ≤ s.lockCycle)) = some mv → s.clk.lock = true → mv.x < 64 →
    mv.standby = s.moduleNo → s.ownWork = false →
    ∃ t, exec .takeover s = .next t ∧ t.field (Off.ctxJob mv.x) 29 16 = mv.rank % 2 ^ 14 ∧ (t.ctx mv.x).step = mv.d ∧
      t.fail.moves = s.fail.moves.erase mv) ∧
  (∀ (mv : RankMove) (s : State), s.fail.moves.find? (fun m => decide (m.lt ≤ s.lockCycle)) = some mv → s.clk.lock = true → mv.x < 64 →
    mv.standby = s.moduleNo → s.ownWork = true →
    ∃ t, exec .takeover s = .next t ∧ t.field (Off.ctxJob mv.x) 29 16 = s.field (Off.ctxJob mv.x) 29 16 ∧
      t.fail.moves = s.fail.moves.erase mv) ∧
  (∀ (x a : Nat) (s : State), (∀ m, m ∈ s.fail.moves → s.lockCycle < m.lt) → s.ctxs.map Prod.fst = [x] →
    (s.ctx x).owesTargets = true → (s.ctx x).knownTable = some a → (s.swHdr x a).targets = 0 →
    s.mayRederive x a (s.tgts x a) = true →
    ∃ t, exec .takeover s = .next t ∧ t.ctx x = { s.ctx x with owesTargets := false } ∧ Kept [.ctxs] s t) ∧
  (∀ s : State, (∀ m, m ∈ s.fail.moves → s.lockCycle < m.lt) → (∀ e, e ∈ s.ctxs → e.2.owesTargets = false) →
    exec .takeover s = .next s) ∧
  (∀ s : State, s.clk.lock = false → (∃ m, m ∈ s.fail.moves ∧ m.lt ≤ s.lockCycle) → exec .takeover s = .next s)

/-- UPDATE_SWEEP is accepted once its table passes its checks, and its ranges are protected from then on; pass 1 forms the exact sum of
squares over the groups through its sluices, after the descriptors of a replayed step were found as at first; a result of the job is taken, and 100 ms
without one fail the step (07 R122; 08 R145, R146, R152; 12 R257; 13 R277, R278). -/
def Obligations.SweepAcceptanceAndNorm : Prop :=
  (∀ (x : Ctx) (d : Cmd) (s : State), s.startableOp x.val 6 = some d → s.Live x.val d → s.sweepCheck x.val d ≠ stOk →
    ∃ t, exec (.updateSweep x) s = .next t ∧ Answers s t x.val d (s.sweepCheck x.val d) 0 ∧
      (t.ctx x.val).sweep = (s.ctx x.val).sweep ∧ (t.ctx x.val).guards = (s.ctx x.val).guards ∧ CtxsKept x.val s t ∧
      Kept [.ctxs] s t) ∧
  (∀ (x : Ctx) (d : Cmd) (s : State), s.startableOp x.val 6 = some d → s.sweepCheck x.val d = stOk →
    s.badAmong (s.sweepReads x.val d) = none →
    ∃ t, exec (.updateSweep x) s = .next t ∧ (t.ctx x.val).sweep = some { idx := d.idx, table := d.sweepTable } ∧
      (t.ctx x.val).table = some d.sweepTable ∧
      (t.ctx x.val).guards = (s.ctx x.val).guards ++ [(d.idx, s.tableExtents x.val d.sweepTable)] ∧
      (t.ctx x.val).rankMap = (if d.normJob then d.rankMap else 0) ∧
      (t.fail.exp.resync = (s.fail.exp.resync || ((s.ctx x.val).table.isNone && s.exporting))) ∧
      ((s.ctx x.val).table = some d.sweepTable ∨ s.exporting = false ∧ s.fail.exp.resync = false → t.fail = s.fail) ∧
      (t.ctx x.val).entries = (s.ctx x.val).entries ∧ CtxsKept x.val s t ∧ Kept [.ctxs, .fail, .stks] s t) ∧
  (∀ (x : Ctx) (s : State), s.startableOp x.val 6 = none → exec (.updateSweep x) s = .next s) ∧
  (∀ (x : Ctx) (w : Sweep) (d : Cmd) (s : State), s.sweepIn x.val .start = some w → s.pass1Ready x.val w = true →
    s.hive.halt = false → (s.ctx x.val).attempt = 0 ∨ (s.ctx x.val).crcFirst = (s.ctx x.val).stepCrc →
    s.sluicesOpen (s.pass1Reads x.val w.table) = true → s.badAmong (s.pass1Grads x.val w.table) = none → s.badAmong (s.pass1Audit x.val w.table) = none →
    s.badAmong (s.pass1Copies x.val w.table) = none → (s.swHdr x.val w.table).audit = false →
    (s.ctx x.val).cmd w.idx = some d → d.normJob = false →
    ∃ t v, exec (.sweepPass1 x) s = .next t ∧ (t.ctx x.val).sweep = some v ∧ v.phase = .decide ∧ v.old = w.old ∧
      v.mismatched = [] ∧ v.bits = w.bits ∧
      v.sum = Fp.sum ((s.grps x.val w.table).map (fun g => s.gradSquares x.val (s.swHdr x.val w.table) g)) ∧
      v.outputs = (if s.flag Off.numMonCtrl 0 then
        (layersOf (s.grps x.val w.table)).map (fun n => (n, (s.layer n).outSq)) else []) ∧
      CtxsKept x.val s t ∧ Kept [.ctxs, .stks] s t) ∧
  (∀ (x : Ctx) (w : Sweep) (d : Cmd) (s : State), s.sweepIn x.val .start = some w → s.pass1Ready x.val w = true →
    s.hive.halt = false → 0 < (s.ctx x.val).attempt → (s.ctx x.val).crcFirst ≠ (s.ctx x.val).stepCrc →
    s.Live x.val d → d.idx = w.idx →
    ∃ t, exec (.sweepPass1 x) s = .next t ∧ Answers s t x.val d stStepFailed (s.causes x.val w.bits) ∧ t.log.seq = s.log.seq + 1 ∧ t.mem.dev = s.mem.dev ∧
      CtxsKept x.val s t ∧ Kept (.ctxs :: logAreas) s t ∧ RegsKept logRegs s t) ∧
  (∀ (x : Ctx) (w : Sweep) (s : State), s.sweepIn x.val .start = none ∨ s.hive.halt = true ∨
      (s.sweepIn x.val .start = some w ∧ s.pass1Ready x.val w = false) →
    exec (.sweepPass1 x) s = .next s) ∧
  (∀ (x : Ctx) (w : Sweep) (s : State), s.sweepIn x.val .start = some w → s.pass1Ready x.val w = true →
    s.hive.halt = false → (s.ctx x.val).attempt = 0 ∨ (s.ctx x.val).crcFirst = (s.ctx x.val).stepCrc →
    s.sluicesOpen (s.pass1Reads x.val w.table) = false →
    exec (.sweepPass1 x) s = .next (s.waitsAll (s.pass1Reads x.val w.table))) ∧
  (∀ (x : Ctx) (p : NormPartial) (w : Sweep) (d : Cmd) (s : State), s.joined x.val = true → (s.ctx x.val).parts = [] →
    s.sweepIn x.val .norm = some w → w.sent = true → (s.ctx x.val).cmd w.idx = some d → d.normJob = true → p.result = true →
    p.step.toNat = (s.swHdr x.val w.table).step →
    ∃ t, exec (.normPartial x p) s = .next t ∧
      t.ctx x.val = { s.ctx x.val with parts := [p], sweep := some { w.take p with phase := .decide } } ∧
      CtxsKept x.val s t ∧ Kept [.ctxs, .out, .lnk] s t) ∧
  (∀ (x : Ctx) (p : NormPartial) (s : State), s.joined x.val = true → (s.ctx x.val).parts = [] → s.sweepIn x.val .norm = none →
    ∃ t, exec (.normPartial x p) s = .next t ∧ t.ctx x.val = { s.ctx x.val with parts := [p] } ∧ CtxsKept x.val s t ∧
      Kept [.ctxs] s t) ∧
  (∀ (x : Ctx) (p : NormPartial) (s : State), s.joined x.val = false ∨ p ∈ (s.ctx x.val).parts →
    exec (.normPartial x p) s = .next s) ∧
  (∀ (x : Ctx) (w : Sweep) (u : Nat) (s : State), s.sweepIn x.val .norm = some w → w.readyAt = some u →
    u + 100000000000 ≤ s.clk.now →
    ∃ t, exec (.normTimeout x) s = .next t ∧ t.ctx x.val = { s.ctx x.val with fault := some (.fail, stStepFailed) } ∧
      CtxsKept x.val s t ∧ Kept [.ctxs] s t) ∧
  (∀ (x : Ctx) (w : Sweep) (s : State), s.sweepIn x.val .norm = none ∨
      (s.sweepIn x.val .norm = some w ∧ (∀ u, w.readyAt = some u → s.clk.now < u + 100000000000)) →
    exec (.normTimeout x) s = .next s)

/-- The decision shows the scaled norm; with no layer tripped, a finite norm within its bound is applied with the gradient factor that
the clip gives and moves the running average, and holds the constants of its groups, and a non-finite one is rejected and logged with
memory as it was; a rollback action fails the step, its status the first cause's (03 R52; 08 R148, R152-R156). The layers' monitors are off in these statements. -/
def Obligations.SweepDecision : Prop :=
  (∀ (x : Ctx) (w : Sweep) (h : SwHdr) (ns : F32) (s : State), s.sweepIn x.val .decide = some w → h = s.swHdr x.val w.table →
    ns = scaledNorm h w.sum → s.flag Off.numMonCtrl 0 = false → w.layers = [] → w.trips = [] → w.bits = 0 →
    w.mismatched = [] → w.stopped = [] → s.recordBad x.val w.table = none → (f32Val ns).nonFinite = false →
    s.loadNat x.val (h.state + 16) 4 < h.warm →
    ∃ t, exec (.sweepDecision x) s = .next t ∧ t.field (Off.updCtxNorm x.val) 31 0 = ns.toNat ∧
      (t.ctx x.val).sweep = some { w with
        phase := .pass2, applied := true, q := (gradFactor h ns).1, norm := ns,
        held := (s.grps x.val w.table).map (s.holdGrp x.val),
        avg := if s.loadNat x.val (h.state + 16) 4 = 0 then ns
          else emaStep (BitVec.ofNat 32 (s.loadNat x.val (h.state + 8) 4)) ns h.shift,
        samples := min (s.loadNat x.val (h.state + 16) 4 + 1) 0xFFFFFFFF,
        bits := 2 + 4 * b2n (gradFactor h ns).2 } ∧
      CtxsKept x.val s t ∧ Kept [.regs, .ctxs, .stks] s t ∧
      RegsKept (Off.updCtxNorm x.val :: (List.range 32).map Off.updEngStat) s t) ∧
  (∀ (x : Ctx) (w : Sweep) (h : SwHdr) (ns : F32) (s : State), s.sweepIn x.val .decide = some w → h = s.swHdr x.val w.table →
    ns = scaledNorm h w.sum → s.flag Off.numMonCtrl 0 = false → w.layers = [] → w.trips = [] → w.bits = 0 →
    w.mismatched = [] → w.stopped = [] → s.recordBad x.val w.table = none → (f32Val ns).nonFinite = true →
    (s.ctx x.val).journal = [] →
    ∃ t v, exec (.sweepDecision x) s = .next t ∧ t.field (Off.updCtxNorm x.val) 31 0 = ns.toNat ∧
      (t.ctx x.val).sweep = some v ∧ v.phase = .rederive ∧ v.applied = false ∧ v.bits = 8 ∧ v.samples = s.loadNat x.val (h.state + 16) 4 ∧
      v.avg = BitVec.ofNat 32 (s.loadNat x.val (h.state + 8) 4) ∧ t.log.seq = s.log.seq + 1 ∧ CtxsKept x.val s t ∧
      Kept (.ctxs :: .stks :: logAreas) s t) ∧
  (∀ (x : Ctx) (w : Sweep) (h : SwHdr) (ns : F32) (n : Nat) (b : BitVec 2) (d : Cmd) (s : State),
    s.sweepIn x.val .decide = some w → h = s.swHdr x.val w.table → ns = scaledNorm h w.sum →
    s.flag Off.numMonCtrl 0 = false → w.layers = [] → w.trips = [(n, b)] → n < 1024 → s.normAction n = 3 → w.bits = 0 →
    w.mismatched = [] → w.stopped = [] → s.recordBad x.val w.table = none → s.Live x.val d → d.idx = w.idx → d.isStep = true →
    (s.ctx x.val).fault = none → s.loadNat x.val (h.state + 16) 4 < h.warm →
    ∃ t, exec (.sweepDecision x) s = .next t ∧ (t.ctx x.val).fault = some (.fail, stStepFailed) ∧
      Answers s t x.val d (if (f32Val ns).nonFinite then stNonfiniteNorm else stNormLimit)
        (s.causes x.val (64 + 8 * b2n (f32Val ns).nonFinite)) ∧
      t.log.seq = s.log.seq + b2n (f32Val ns).nonFinite ∧ CtxsKept x.val s t ∧ Kept (.ctxs :: .stks :: logAreas) s t ∧
      RegsKept (Off.updCtxNorm x.val :: logRegs) s t) ∧
  (∀ (x : Ctx) (w : Sweep) (s : State), s.sweepIn x.val .decide = some w → w.stopped ≠ [] →
    exec (.sweepDecision x) s = .next s) ∧
  (∀ (x : Ctx) (s : State), s.sweepIn x.val .decide = none → exec (.sweepDecision x) s = .next s)

/-- In pass 2 an engine takes its next block with the old bytes kept in its lock chamber and writes no byte of memory but the block's
planes; the stamp of its oldest entry follows, and, once its record has room, the record, the entry's release and after the last block the
group's state record. An interrupted engine settles its chamber: an unstamped block gets its old bytes back, and the units that the
engine met are restored; with a word of the chamber that cannot be read the step fails. The engine's 16 entries serve the sweeps of every context (08 R148, R157-R160; 09 R166, R170). -/
def Obligations.SweepPassTwo : Prop :=
  (∀ (x : Ctx) (e : Stack) (w : Sweep) (i b : Nat) (c : HeldGrp) (g : Grp) (s : State), s.sweepIn x.val .pass2 = some w →
    s.hive.halt = false → e.val ∉ w.stopped → s.chamberUsed e.val < 16 →
    (s.engineBlocks x.val w.table e.val)[w.takenOf e.val]? = some (i, b) → c = s.heldOf x.val w i → g = c.g →
    s.badAmong (s.blockReads x.val (s.swHdr x.val w.table) g b).1 = none →
    s.badAmong (s.blockReads x.val (s.swHdr x.val w.table) g b).2 = none →
    s.sluicesOpen ((s.blockReads x.val (s.swHdr x.val w.table) g b).1 ++ (s.blockReads x.val (s.swHdr x.val w.table) g b).2) = true →
    (∀ p, p ∈ g.planes b → p.1 + p.2 ≤ 0x10000000000) →
    ∃ t v, exec (.pass2Block x e) s = .next t ∧ (t.ctx x.val).sweep = some v ∧ v.takenOf e.val = w.takenOf e.val + 1 ∧
      v.chamber = w.chamber ++ [Chamber.mk e.val i b (s.swHdr x.val w.table).step false
        ((g.planes b).map (fun p => (p.1, s.loads x.val p.1 p.2)))] ∧
      v.phase = .pass2 ∧ v.held = w.held ∧
      t.mem.dev = (s.updateAll x.val c w.q (s.livePblocks x.val (s.swHdr x.val w.table) g b)).1.mem.dev ∧
      (∀ a, (∀ p, p ∈ g.planes b → a < p.1 ∨ p.1 + p.2 ≤ a) → t.mem.dev.byte a = s.mem.dev.byte a) ∧
      CtxsKept x.val s t) ∧
  (∀ (x : Ctx) (e : Stack) (w : Sweep) (s : State), s.sweepIn x.val .pass2 = none ∨ s.hive.halt = true ∨
      (s.sweepIn x.val .pass2 = some w ∧ (e.val ∈ w.stopped ∨ 16 ≤ s.chamberUsed e.val)) →
    exec (.pass2Block x e) s = .next s) ∧
  (∀ (x : Ctx) (e : Stack) (w : Sweep) (i b : Nat) (es : List (Nat × Nat)) (s : State), s.sweepIn x.val .pass2 = some w →
    s.hive.halt = false → e.val ∉ w.stopped → s.chamberUsed e.val < 16 →
    (s.engineBlocks x.val w.table e.val)[w.takenOf e.val]? = some (i, b) →
    s.badAmong (s.blockReads x.val (s.swHdr x.val w.table) (s.heldOf x.val w i).g b).1 = none →
    s.badAmong (s.blockReads x.val (s.swHdr x.val w.table) (s.heldOf x.val w i).g b).2 = none →
    es = (s.blockReads x.val (s.swHdr x.val w.table) (s.heldOf x.val w i).g b).1 ++
      (s.blockReads x.val (s.swHdr x.val w.table) (s.heldOf x.val w i).g b).2 → s.sluicesOpen es = false →
    exec (.pass2Block x e) s = .next (s.waitsAll es)) ∧
  (∀ (x : Ctx) (e : Stack) (w : Sweep) (c : Chamber) (cs : List Chamber) (g : Grp) (s : State),
    s.sweepIn x.val .pass2 = some w → w.entriesOf e.val = c :: cs → g = (s.heldOf x.val w c.grp).g → e.val ∉ w.stopped →
    s.streaming = false → ((s.engineBlocks x.val w.table e.val)[w.stampedOf e.val + 1]?).map (·.1) = some c.grp →
    g.stamp + 8 * c.blk + 8 ≤ 0x10000000000 → s.roomFor [s.entryDraft x.val w c] = true →
    ∃ t v, exec (.blockStamp x e) s = .next t ∧ (t.ctx x.val).sweep = some v ∧ v.chamber = w.chamber.erase c ∧
      v.stampedOf e.val = w.stampedOf e.val + 1 ∧ t.mem.dev.bytes (g.stamp + 8 * c.blk) 8 = natLe c.step 8 ∧
      (∀ a, a < g.stamp + 8 * c.blk ∨ g.stamp + 8 * c.blk + 8 ≤ a → t.mem.dev.byte a = s.mem.dev.byte a) ∧
      t.field (Off.updEngStat e.val) 23 0 = min (s.field (Off.updEngStat e.val) 23 0 + 1) 0xFFFFFF ∧
      CtxsKept x.val s t ∧ Kept [.regs, .ctxs, .dev, .bad, .stks] s t ∧ RegsKept [Off.updEngStat e.val] s t) ∧
  (∀ (x : Ctx) (e : Stack) (w : Sweep) (c : Chamber) (cs : List Chamber) (s : State),
    s.sweepIn x.val .pass2 = some w → w.entriesOf e.val = c :: cs → e.val ∉ w.stopped →
    s.roomFor [s.entryDraft x.val w c] = true → s.streaming = true → c.emitted = false →
    ∃ t v, exec (.blockStamp x e) s = .next t ∧ (t.ctx x.val).sweep = some v ∧ v.chamber = w.chamber.erase c ∧
      v.stampedOf e.val = w.stampedOf e.val + 1 ∧ t.fail.exp.recs.dropLast = s.fail.exp.recs ∧
      t.fail.exp.recs.getLast?.map (fun r => (r.seq, r.kind, r.step)) = some (s.fail.exp.seq, kBlock, c.step) ∧
      t.fail.exp.seq = s.fail.exp.seq + 1 ∧ CtxsKept x.val s t ∧
      Kept [.regs, .ctxs, .dev, .host, .bad, .stks, .fail] s t ∧ RegsKept [Off.updEngStat e.val] s t) ∧
  (∀ (x : Ctx) (e : Stack) (w : Sweep) (c : Chamber) (cs : List Chamber) (g : Grp) (s : State),
    s.sweepIn x.val .pass2 = some w → w.entriesOf e.val = c :: cs → g = (s.heldOf x.val w c.grp).g → e.val ∉ w.stopped →
    s.roomFor [s.entryDraft x.val w c] = false → g.stamp + 8 * c.blk + 8 ≤ 0x10000000000 →
    ∃ t v, exec (.blockStamp x e) s = .next t ∧ (t.ctx x.val).sweep = some v ∧ v.chamber = w.chamber ∧
      v.stampedOf e.val = w.stampedOf e.val ∧ t.mem.dev.bytes (g.stamp + 8 * c.blk) 8 = natLe c.step 8 ∧
      t.fail = s.fail ∧ CtxsKept x.val s t ∧ Kept [.ctxs, .dev, .bad, .stks] s t) ∧
  (∀ (x : Ctx) (e : Stack) (w : Sweep) (c : Chamber) (cs : List Chamber) (g : HeldGrp) (s : State),
    s.sweepIn x.val .pass2 = some w → w.entriesOf e.val = c :: cs → g = s.heldOf x.val w c.grp → e.val ∉ w.stopped →
    s.roomFor [s.entryDraft x.val w c] = true → s.streaming = false →
    ((s.engineBlocks x.val w.table e.val)[w.stampedOf e.val + 1]?).map (·.1) ≠ some c.grp → g.g.gstate + 64 ≤ 0x10000000000 →
    w.held[c.grp]? = some g →
    ∃ t v, exec (.blockStamp x e) s = .next t ∧ (t.ctx x.val).sweep = some v ∧ v.groups = w.groups ++ [g.g.gstate] ∧
      t.mem.dev.bytes g.g.gstate 64 = g.bytes c.step ∧ CtxsKept x.val s t) ∧
  (∀ (x : Ctx) (e : Stack) (w : Sweep) (s : State), s.sweepIn x.val .pass2 = none ∨
      (s.sweepIn x.val .pass2 = some w ∧ (e.val ∈ w.stopped ∨ w.entriesOf e.val = [])) →
    exec (.blockStamp x e) s = .next s) ∧
  (∀ (x : Ctx) (e : Stack) (r : SramError) (w : Sweep) (s : State), (s.ctx x.val).sweep = some w → e.val ∈ w.stopped →
    (s.ctx x.val).stopped = false → (s.ctx x.val).mayRun = true → s.hive.halt = false →
    s.rowsMended (s.mirroredExtents x.val w.table) = true → w.entriesOf e.val = [] →
    ∃ t v, exec (.sweepRecovery x ⟨e, r⟩) s = .next t ∧ (t.ctx x.val).sweep = some v ∧ e.val ∉ v.stopped ∧
      v.takenOf e.val = v.stampedOf e.val ∧ v.stampedOf e.val = w.stampedOf e.val ∧ v.chamber = w.chamber ∧
      t.mem.bad = s.mem.bad.filter (fun b => !(w.met.contains b.1 && b.1 / 0x800000000 % 32 == e.val)) ∧
      t.mem.dev = s.mem.dev ∧ CtxsKept x.val s t ∧ Kept [.ctxs, .bad] s t) ∧
  (∀ (x : Ctx) (e : Stack) (r : SramError) (w : Sweep) (c : Chamber) (a : Nat) (bs : List Byte) (s : State),
    (s.ctx x.val).sweep = some w → e.val ∈ w.stopped → (s.ctx x.val).stopped = false → (s.ctx x.val).mayRun = true →
    s.hive.halt = false → s.rowsMended (s.mirroredExtents x.val w.table) = true → s.roomFor [s.entryDraft x.val w c] = true → r ≠ .uncorrectable →
    w.entriesOf e.val = [c] → s.loadNat x.val ((s.heldOf x.val w c.grp).g.stamp + 8 * c.blk) 8 ≠ c.step →
    c.old = [(a, bs)] → a + bs.length ≤ 0x10000000000 →
    ∃ t v, exec (.sweepRecovery x ⟨e, r⟩) s = .next t ∧ (t.ctx x.val).sweep = some v ∧ e.val ∉ v.stopped ∧
      v.entriesOf e.val = [] ∧ v.takenOf e.val = w.stampedOf e.val ∧ v.stampedOf e.val = w.stampedOf e.val ∧
      t.mem.dev.bytes a bs.length = bs ∧
      t.field (Off.updEngStat e.val) 63 48 = min (s.field (Off.updEngStat e.val) 63 48 + 1) 0xFFFF ∧ CtxsKept x.val s t ∧
      Kept [.regs, .ctxs, .dev, .bad, .stks] s t ∧ RegsKept [Off.updEngStat e.val] s t) ∧
  (∀ (x : Ctx) (e : Stack) (w : Sweep) (d : Cmd) (s : State), (s.ctx x.val).sweep = some w → e.val ∈ w.stopped →
    (s.ctx x.val).stopped = false → (s.ctx x.val).mayRun = true → s.hive.halt = false → w.entriesOf e.val ≠ [] →
    s.rowsMended (s.mirroredExtents x.val w.table) = true →
    s.roomFor ((w.entriesOf e.val).map (s.entryDraft x.val w)) = true → s.Live x.val d → d.idx = w.idx →
    ∃ t, exec (.sweepRecovery x ⟨e, .uncorrectable⟩) s = .next t ∧ Answers s t x.val d stStepFailed (s.causes x.val w.bits) ∧
      t.out = (s.takeoverReq stStepFailed e.val).out ∧ t.mem = s.mem ∧ CtxsKept x.val s t ∧ Kept [.ctxs, .out] s t) ∧
  (∀ (x : Ctx) (e : Stack) (r : SramError) (w : Sweep) (s : State), (s.ctx x.val).sweep = none ∨ (s.ctx x.val).stopped = true ∨ s.hive.halt = true ∨
      (s.ctx x.val).sweep = some w ∧ s.rowsMended (s.mirroredExtents x.val w.table) = false →
    exec (.sweepRecovery x ⟨e, r⟩) s = .next s)

/-- After pass 2, or a rejection, the layers pass their step boundary and the working copies are re-derived, unless HALT, a moving hive,
a cut canal or a shut sluice holds them, or a unit they read is bad; the commit waits for the step's work and messages and for room for
its records, writes the sweep state record, the headers and the committed maps, emits the records that close the step, moves the
context to its next step, commits counters and layers, and answers the sweep with its status
(01 R7; 02 R22; 03 R40; 06 R109, R115; 07 R122; 08 R141, R153, R156, R160, R161; 09 R166; 10 R194; 16 R345). -/
def Obligations.RederivationAndCommit : Prop :=
  (∀ (x : Ctx) (w : Sweep) (u : State) (ts : List Tgt) (s : State), s.toRederive x.val = some w →
    u = (s.boundaryLayers x.val w).foldl (fun s n => s.advanceLayer w n) s → ts = u.rederiveTargets x.val w s.rotMode →
    s.mayRederive x.val w.table ts = true →
    s.sluicesOpen (s.rederiveReads x.val w.table ts ++ s.rederiveWrites x.val ts) = true →
    s.badAmong (s.rederiveReads x.val w.table ts) = none → s.badAmong (s.rederiveOwn x.val ts) = none →
    ∃ t v, exec (.sweepRederive x) s = .next t ∧ (t.ctx x.val).sweep = some v ∧ v.phase = .commit ∧
      v.old = (ts.map (s.copyBytes x.val)).flatten ++ w.old ∧ v.bits = w.bits ∧
      t.mem = (((u.chargeAll (s.rederiveReads x.val w.table ts ++ s.rederiveOwn x.val ts)).chargeAll
        (s.rederiveWrites x.val ts) true).rederiveAll x.val w.table ts).mem) ∧
  (∀ (x : Ctx) (w : Sweep) (u : State) (ts : List Tgt) (a : Nat) (d : Cmd) (s : State), s.toRederive x.val = some w →
    u = (s.boundaryLayers x.val w).foldl (fun s n => s.advanceLayer w n) s → ts = u.rederiveTargets x.val w s.rotMode →
    s.mayRederive x.val w.table ts = true →
    s.sluicesOpen (s.rederiveReads x.val w.table ts ++ s.rederiveWrites x.val ts) = true →
    s.badAmong (s.rederiveReads x.val w.table ts) = some a → s.Live x.val d → d.idx = w.idx →
    ∃ t, exec (.sweepRederive x) s = .next t ∧ Answers s t x.val d stStepFailed (s.causes x.val w.bits) ∧
      t.mem.dev = s.mem.dev ∧ t.layers = s.layers ∧
      t.out.head? = some (.towpath 0x0025 (natLe stStepFailed 1 ++ natLe (unitOfAddr a) 2 ++ natLe t.log.seq.toNat 4))) ∧
  (∀ (x : Ctx) (w : Sweep) (u : State) (ts : List Tgt) (s : State), s.toRederive x.val = some w →
    u = (s.boundaryLayers x.val w).foldl (fun s n => s.advanceLayer w n) s → ts = u.rederiveTargets x.val w s.rotMode →
    (s.mayRederive x.val w.table ts = false → exec (.sweepRederive x) s = .next s) ∧
    (s.mayRederive x.val w.table ts = true →
      s.sluicesOpen (s.rederiveReads x.val w.table ts ++ s.rederiveWrites x.val ts) = false →
      exec (.sweepRederive x) s =
        .next (s.waitsAll (s.rederiveReads x.val w.table ts ++ s.rederiveWrites x.val ts)))) ∧
  (∀ (x : Ctx) (w : Sweep) (s : State), s.toRederive x.val = some w → s.tgts x.val w.table = [] → s.hive.halt = false →
    ∃ t, exec (.sweepRederive x) s = .next t ∧ t.ctx x.val = { s.ctx x.val with sweep := some { w with phase := .commit } } ∧
      (∀ n, n ∈ s.boundaryLayers x.val w → (t.layer n).age = (s.layer n).age + 1 ∧ (t.layer n).flagged = 0 ∧
        (t.layer n).window = (min 255 (s.layer n).flagged :: (s.layer n).window).take 255) ∧
      (∀ n, n ∉ s.boundaryLayers x.val w → t.layer n = s.layer n) ∧ CtxsKept x.val s t ∧ Kept [.ctxs, .layers] s t) ∧
  (∀ (x : Ctx) (s : State), s.toRederive x.val = none ∨ s.hive.halt = true → exec (.sweepRederive x) s = .next s) ∧
  (∀ (x : Ctx) (w : Sweep) (d : Cmd) (h : SwHdr) (s : State), s.sweepIn x.val .commit = some w → h = s.swHdr x.val w.table →
    s.mayCommit x.val w = true → s.Live x.val d → d.idx = w.idx → swf {} s.layers = true →
    ∃ t, exec (.commit x) s = .next t ∧ (t.ctx x.val).step = h.step ∧ (t.ctx x.val).sweep = none ∧
      (t.ctx x.val).attempt = 0 ∧ (t.ctx x.val).journal = [] ∧ (t.ctx x.val).touched = [] ∧ (t.ctx x.val).mapOld = [] ∧
      (t.ctx x.val).tensors = (s.ctx x.val).tensorsNext.getD (s.ctx x.val).tensors ∧ (t.ctx x.val).tensorsNext = none ∧
      (s.streaming = false → t.mem.dev =
        ((s.stores x.val h.state (w.stateBytes h.step)).commitTensors x.val (s.touchedCommits x.val)).mem.dev) ∧
      (s.streaming = false → (s.ctx x.val).touched = [] → h.state + 64 ≤ 0x10000000000 →
        t.mem.dev.bytes h.state 64 = w.stateBytes h.step ∧
        (∀ a, a < h.state ∨ h.state + 64 ≤ a → t.mem.dev.byte a = s.mem.dev.byte a)) ∧
      (s.streaming = true → t.fail.exp.recs.getLast?.map (fun r => (r.kind, r.ctx, r.step)) = some (kCommit, x.val, h.step) ∧
        t.fail.exp.seq = s.fail.exp.seq + BitVec.ofNat 32 (s.commitDrafts x.val w).length) ∧
      (∀ p, s.ownsCounter x.val p = true → (t.counter p).value = (s.counter p).value ∧
        (t.counter p).committed = (s.counter p).value) ∧
      (∀ p, s.ownsCounter x.val p = false → t.counter p = s.counter p) ∧
      (∀ n, s.hasLayer x.val n = true → sget {} t.layersC n = sget {} t.layers n) ∧
      t.field (Off.updCtxNorm x.val) 63 32 = w.avg.toNat ∧
      Answers s t x.val d (commitStatus (s.causes x.val (w.bits ||| 1)) (s.wasRemapped x.val)
        (decide (0 < (s.ctx x.val).attempt) || w.resumed)) (s.causes x.val (w.bits ||| 1)) ∧
      CtxsKept x.val s t) ∧
  (∀ (x : Ctx) (w : Sweep) (s : State), s.sweepIn x.val .commit = none ∨
      (s.sweepIn x.val .commit = some w ∧ s.mayCommit x.val w = false) → exec (.commit x) s = .next s) ∧
  (∀ (x : Nat) (w : Sweep) (s : State), s.messagesDone x = false ∨ (s.ctx x).runs ≠ [] ∨ s.hive.halt = true →
    s.mayCommit x w = false)

/-- A frame carries 40 slots, and leaves a link port as one codeword on each of eight lanes: with nothing scheduled or waiting each
slot is a lent one with the IDLE filler; a slot of a SEND barge carries the next flit of its window, or the messages that wait for it.
Stored flits go again as LATE packets when asked for, an owed flit is asked for again after 100 us, and a packet for another module
goes on by its route with one hop less, across the canal where its port is in another sector (11 R213, R223, R231, R232, R236, R239;
that a module whose standby has its rank sends no frame: 09 R184). -/
def Obligations.FramesAndPacketsOut : Prop :=
  (∀ (p : PortCode) (s : State), s.switchPending = false → p.toNat < 16 → (s.port p.toNat).up = true → s.clk.lock = true →
    s.fail.moved = false → (s.port p.toNat).sent.all (fun n => decide (n < s.clk.frame)) = true →
    (s.port p.toNat).barges = [] → s.exporting = false → ((s.port p.toNat).table ((s.port p.toNat).bufFor s.clk.frame)).tx = [] →
    (s.port p.toNat).outRest = [] → (s.port p.toNat).queue = [] → s.sync.outbox = [] →
    ∃ t f, exec (.frameTransmit p) s = .next t ∧ t.out = .frame p.toNat (frameLanes f) :: s.out ∧
      f.frame = BitVec.ofNat 56 s.clk.frame ∧
      f.tag = BitVec.ofNat 8 ((s.port p.toNat).table ((s.port p.toNat).bufFor s.clk.frame)).tag ∧
      f.map = List.replicate 40 2#2 ∧ f.flits = List.replicate 40 (idleBytes 128) ∧
      (t.port p.toNat).sent = some s.clk.frame ∧ Kept [.lnk, .out] s t) ∧
  (∀ (p : PortCode) (q : Nat) (s : State), s.switchPending = false → isCanal p.toNat = true → portExists p.toNat = true →
    edgeEnd p.toNat = some q → (s.port p.toNat).up = true → s.clk.lock = true → s.fail.moved = false →
    (s.port p.toNat).sent.all (fun n => decide (n < s.clk.frame)) = true → (s.port p.toNat).barges = [] → s.exporting = false →
    ((s.port p.toNat).table ((s.port p.toNat).bufFor s.clk.frame)).tx = [] → (s.port p.toNat).outRest = [] →
    (s.port p.toNat).queue = [] → s.sync.outbox = [] →
    ∃ t f, exec (.frameTransmit p) s = .next t ∧ (t.port q).wire = (s.port q).wire ++ [f] ∧
      f.frame = BitVec.ofNat 56 s.clk.frame ∧ f.map = List.replicate 40 2#2 ∧ f.flits = List.replicate 40 (idleBytes 1024) ∧
      (t.port p.toNat).sent = some s.clk.frame ∧ Kept [.lnk] s t) ∧
  (∀ (p : PortCode) (s : State), s.switchPending = false → (s.port p.toNat).up = false ∨ s.clk.lock = false ∨
      s.fail.moved = true ∨ portExists p.toNat = false ∨ (∃ n, (s.port p.toNat).sent = some n ∧ s.clk.frame ≤ n) →
    exec (.frameTransmit p) s = .next s) ∧
  (∀ (p frame slot i key : Nat) (d : Barge) (s : State),
    ((s.port p).table ((s.port p).bufFor frame)).txAt frame slot = some i → key = (s.port p).key ((s.port p).bufFor frame) i →
    (s.port p).desc key = some d → d.kind = 1 → s.msgsFor p i ((s.port p).barge key).n = [] →
    ((s.port p).barge key).n < s.stepCount d.counter →
    s.onMove (d.addr + (flitBytes p * ((s.port p).barge key).n) % d.length) = false →
    s.joins (sectorOf p) (sectorAt (d.addr + (flitBytes p * ((s.port p).barge key).n) % d.length)) = true →
    s.badIn (d.addr + (flitBytes p * ((s.port p).barge key).n) % d.length) (flitBytes p) = none →
    ∃ t, s.slotOut p frame slot = (some (0, s.loads d.ctx (d.addr + (flitBytes p * ((s.port p).barge key).n) % d.length)
        (flitBytes p)), t) ∧ ((t.port p).barge key).n = ((s.port p).barge key).n + 1 ∧
      (t.port p).store = (s.port p).store ++ [⟨frame, slot, i, false,
        s.loads d.ctx (d.addr + (flitBytes p * ((s.port p).barge key).n) % d.length) (flitBytes p), none⟩] ∧ Kept [.lnk] s t) ∧
  (∀ (p frame slot i key : Nat) (d : Barge) (s : State),
    ((s.port p).table ((s.port p).bufFor frame)).txAt frame slot = some i → key = (s.port p).key ((s.port p).bufFor frame) i →
    (s.port p).desc key = some d → d.kind = 1 → s.msgsFor p i ((s.port p).barge key).n ≠ [] →
    ∃ t, s.slotOut p frame slot = (some (1, padTo (flitBytes p)
        (((s.msgsFor p i ((s.port p).barge key).n).map (fun o => msgBytes o.msg)).flatten)), t) ∧
      t.sync = (s.unqueue p (s.msgsFor p i ((s.port p).barge key).n)).sync ∧ (t.port p).barges = (s.port p).barges ∧
      Kept [.lnk, .sync] s t) ∧
  (∀ (p : PortCode) (fr : BitVec 56) (e : Sent) (s : State), p.toNat < 16 → e.late = none →
    (s.port p.toNat).store.filter (fun e => e.frame == fr.toNat) = [e] →
    ∃ t k, exec (.resendRequest p fr) s = .next t ∧ (t.port p.toNat).queue = (s.port p.toNat).queue ++ [k] ∧ k.cls = 0 ∧
      k.payload = e.bytes ∧ e ∈ (t.port p.toNat).store ∧
      t.field (Off.lnkErrStat p.toNat) 47 32 = min (s.field (Off.lnkErrStat p.toNat) 47 32 + 1) 65535 ∧
      Kept [.lnk, .regs] s t ∧ RegsKept [Off.lnkErrStat p.toNat] s t) ∧
  (∀ (p : PortCode) (fr : BitVec 56) (s : State), (s.port p.toNat).store.filter (fun e => e.frame == fr.toNat) = [] →
    ∃ t, exec (.resendRequest p fr) s = .next t ∧ (∀ q, t.port q = s.port q) ∧ Kept [.lnk] s t) ∧
  (∀ (p : PortCode) (b : BitVec 12) (key : Nat) (l : Berth) (ls : List Berth) (st : BargeSt) (s : State),
    (s.port p.toNat).barges = [(key, st)] → key % 4096 = b.toNat → st.line = l :: ls → l.flit = none → 0 < l.asks →
    l.askedAt + 100000000 ≤ s.clk.now → l.asks < 8 →
    ∃ t, exec (.resendRetry p b) s = .next t ∧ (t.port p.toNat).queue = (s.port p.toNat).queue ++
        [s.newPacket 1 (if isCanal p.toNat then s.moduleNo else (s.port p.toNat).neighbour) 0 (natLe l.frame 7)] ∧
      (∀ q, q ≠ p.toNat → t.port q = s.port q) ∧ Kept [.lnk] s t) ∧
  (∀ (p : PortCode) (b : BitVec 12) (key : Nat) (l : Berth) (ls : List Berth) (st : BargeSt) (s : State),
    (s.port p.toNat).barges = [(key, st)] → key % 4096 = b.toNat → st.line = l :: ls → l.flit = none →
    l.askedAt + 100000000 ≤ s.clk.now → 8 ≤ l.asks → (s.port p.toNat).up = true →
    ∃ t, exec (.resendRetry p b) s = .next t ∧ (t.port p.toNat).state = 0) ∧
  (∀ (p : PortCode) (b : BitVec 12) (s : State),
    (∀ e ∈ (s.port p.toNat).barges, e.1 % 4096 = b.toNat → ∀ l ∈ e.2.line, l.flit.isSome = true ∨ l.asks = 0 ∨
      s.clk.now < l.askedAt + 100000000) → exec (.resendRetry p b) s = .next s) ∧
  (∀ (p : PortCode) (k : Packet) (q : Nat) (s : State), (s.port p.toNat).up = true → k.cls.toNat ≤ 4 → k.reserved = 0 →
    s.fail.silenced.contains k.src.toNat = false → k.dest.toNat ≠ s.moduleNo → s.routeOf k.dest.toNat = some q → k.hops ≠ 0 →
    sectorOf p.toNat = sectorOf q →
    ∃ t, exec (.packetReceive p k) s = .next t ∧ (t.port q).queue = (s.port q).queue ++ [{ k with hops := k.hops - 1 }] ∧
      sget 0 (t.port p.toNat).returns k.cls.toNat = sget 0 (s.port p.toNat).returns k.cls.toNat + (k.flits.toNat + 1) ∧
      Kept [.lnk] s t) ∧
  (∀ (p : PortCode) (k : Packet) (q c : Nat) (s : State), (s.port p.toNat).up = true → k.cls.toNat ≤ 4 → k.reserved = 0 →
    s.fail.silenced.contains k.src.toNat = false → k.dest.toNat ≠ s.moduleNo → s.routeOf k.dest.toNat = some q → k.hops ≠ 0 →
    sectorOf p.toNat ≠ sectorOf q → s.canalHop (sectorOf p.toNat) (sectorOf q) = some c →
    ∃ t, exec (.packetReceive p k) s = .next t ∧ (t.port c).queue = (s.port c).queue ++ [k] ∧
      sget 0 (t.port p.toNat).returns k.cls.toNat = sget 0 (s.port p.toNat).returns k.cls.toNat + (k.flits.toNat + 1) ∧
      Kept [.lnk] s t) ∧
  (∀ (p : PortCode) (k : Packet) (s : State), p.toNat < 16 → (s.port p.toNat).up = true → k.cls.toNat ≤ 4 → k.cls ≠ 2 →
    k.reserved = 0 → s.fail.silenced.contains k.src.toNat = false → k.dest.toNat ≠ s.moduleNo →
    s.routeOf k.dest.toNat = none ∨ k.hops = 0 →
    ∃ t, exec (.packetReceive p k) s = .next t ∧ (t.port p.toNat).queue = (s.port p.toNat).queue ∧
      t.field (Off.lnkErrStat p.toNat) 31 16 = min (s.field (Off.lnkErrStat p.toNat) 31 16 + 1) 65535 ∧
      Kept [.lnk, .regs] s t ∧ RegsKept [Off.lnkErrStat p.toNat] s t) ∧
  (∀ (p : PortCode) (k : Packet) (s : State), (s.port p.toNat).up = false ∨ k.cls = 7 → exec (.packetReceive p k) s = .next s)

/-- The symbols that the code corrected are counted by lane. A bad frame is counted and asked for by a RECOVERY packet, and the 64th in
a row puts its port DOWN; a good one clears the run. A canal slot that fails is counted. The head flit of a barge is delivered to its
window, added to LOCAL for a reduction, and counted, and no other byte of memory changes
(11 R214, R224, R225, R227, R236, R237, R240; which frame is bad before any was good is the model's reading, log 29). -/
def Obligations.FramesIn : Prop :=
  (∀ (p : PortCode) (cs : List Nat) (n : Nat) (s : State), s.switchPending = false → p.toNat < 16 → (s.port p.toNat).up = true →
    s.clk.lock = true → s.fail.silenced.contains (s.port p.toNat).neighbour = false →
    n = ((s.port p.toNat).got.elim (s.frameDue p.toNat) (· + 1)) → (s.port p.toNat).badRun + 1 < 64 →
    ∃ t, exec (.frameReceive p ⟨none, cs⟩) s = .next t ∧ (t.port p.toNat).queue = (s.port p.toNat).queue ++
        [s.newPacket 1 (s.port p.toNat).neighbour 0 (natLe n 7)] ∧
      (t.port p.toNat).badRun = (s.port p.toNat).badRun + 1 ∧ (t.port p.toNat).got = some n ∧
      t.field (Off.lnkErrStat p.toNat) 62 48 = min (s.field (Off.lnkErrStat p.toNat) 62 48 + 1) 32767 ∧
      SymbolsCounted s t p.toNat cs ∧ Kept [.lnk, .regs] s t ∧ RegsKept [Off.lnkErrStat p.toNat] s t) ∧
  (∀ (p : PortCode) (cs : List Nat) (s : State), s.switchPending = false → p.toNat < 16 → (s.port p.toNat).up = true →
    s.clk.lock = true → s.fail.silenced.contains (s.port p.toNat).neighbour = false →
    64 ≤ (s.port p.toNat).badRun + 1 →
    ∃ t, exec (.frameReceive p ⟨none, cs⟩) s = .next t ∧ (t.port p.toNat).state = 0 ∧ t.log.seq = s.log.seq + 1 ∧
      SymbolsCounted s t p.toNat cs) ∧
  (∀ (p : PortCode) (f : Frame) (cs : List Nat) (s : State),
    s.switchPending = false → p.toNat < 16 → (s.port p.toNat).up = true →
    s.clk.lock = true → s.fail.silenced.contains (s.port p.toNat).neighbour = false →
    (s.port p.toNat).got.all (fun n => decide (f.frame.toNat = n + 1)) = true →
    f.tag.toNat = ((s.port p.toNat).table ((s.port p.toNat).bufFor f.frame.toNat)).tag →
    f.map = List.replicate 40 2#2 → f.flits = List.replicate 40 (idleBytes 128) → (s.port p.toNat).inPart = [] →
    (s.port p.toNat).barges = [] → (s.port p.toNat).badRun < 64 →
    ∃ t, exec (.frameReceive p ⟨some f, cs⟩) s = .next t ∧
      t.port p.toNat = { s.port p.toNat with
        state := 3, got := some f.frame.toNat, badRun := 0, corr := (t.port p.toNat).corr,
        credit := smod 0 (s.port p.toNat).credit (f.credit.toNat % 8) (· + f.credit.toNat / 8) } ∧
      SymbolsCounted s t p.toNat cs ∧ (∀ q, q ≠ p.toNat → t.port q = s.port q) ∧ Kept [.lnk, .regs] s t ∧
      RegsKept [Off.lnkErrStat p.toNat] s t) ∧
  (∀ (p : PortCode) (f : Frame) (cs : List Nat) (ws : List Frame) (s : State), s.switchPending = false →
    isCanal p.toNat = true → (s.port p.toNat).up = true → s.clk.lock = true → (s.port p.toNat).wire = f :: ws →
    f.map = List.replicate 40 2#2 → f.flits = List.replicate 40 (idleBytes 1024) → (s.port p.toNat).inPart = [] →
    (s.port p.toNat).barges = [] →
    ∃ t u, exec (.frameReceive p ⟨some f, cs⟩) s = .next t ∧ exec (.frameReceive p ⟨none, cs⟩) s = .next u ∧
      (t.port p.toNat).wire = ws ∧ (t.port p.toNat).badRun = 0 ∧
      (u.port p.toNat).wire = ws ∧ (u.port p.toNat).badRun = (s.port p.toNat).badRun + 1 ∧
      u.field (Off.canErrStat (p.toNat - 0x40)) 62 48 = min (s.field (Off.canErrStat (p.toNat - 0x40)) 62 48 + 40) 32767 ∧
      (∀ q, q ≠ p.toNat → t.port q = s.port q ∧ u.port q = s.port q) ∧ Kept [.lnk, .regs] s t ∧ Kept [.lnk, .regs] s u) ∧
  (∀ (p : PortCode) (f : Option Frame) (cs : List Nat) (s : State), s.switchPending = false →
    (s.port p.toNat).up = false ∨ s.clk.lock = false → exec (.frameReceive p ⟨f, cs⟩) s = .next s) ∧
  (∀ (p : PortCode) (b : BitVec 12) (key a : Nat) (d : Barge) (l : Berth) (ls : List Berth) (bs : List Byte) (s : State),
    (s.port p.toNat).headKey b.toNat = some key → (s.port p.toNat).desc key = some d → d.kind = 2 →
    ((s.port p.toNat).barge key).line = l :: ls → l.flit = some (false, bs) →
    a = d.addr + (flitBytes p.toNat * ((s.port p.toNat).barge key).n) % d.length → a + bs.length ≤ 0x10000000000 →
    s.flitReaches p.toNat [d.addr] = true → s.homeAway (sectorOf p.toNat) false d.counter = false →
    s.counterFull d.counter 1 = false → s.overrun d.counter 1 = false → s.sync.watches = [] →
    ∃ t, exec (.flitDeliver p b) s = .next t ∧ t.mem.dev.bytes a bs.length = bs ∧
      (∀ c, c < a ∨ a + bs.length ≤ c → t.mem.dev.byte c = s.mem.dev.byte c) ∧
      (t.counter d.counter).value = (s.counter d.counter).value + 1 ∧ (∀ q, q ≠ d.counter → t.counter q = s.counter q) ∧
      (t.port p.toNat).barge key = { (s.port p.toNat).barge key with line := ls, n := ((s.port p.toNat).barge key).n + 1 } ∧
      Kept [.lnk, .dev, .bad, .sync] s t) ∧
  (∀ (p : PortCode) (b : BitVec 12) (s : State), (s.port p.toNat).headKey b.toNat = none →
    exec (.flitDeliver p b) s = .next s ∧ exec (.reduceCombine p b) s = .next s) ∧
  (∀ (p : PortCode) (b : BitVec 12) (key o : Nat) (d : Barge) (l : Berth) (ls : List Berth) (bs : List Byte) (s : State),
    (s.port p.toNat).headKey b.toNat = some key → (s.port p.toNat).desc key = some d → d.kind = 5 →
    ((s.port p.toNat).barge key).line = l :: ls → l.flit = some (false, bs) → bs.length % 4 = 0 →
    ((s.port p.toNat).barge key).n < s.stepCount d.localCtr →
    o = (flitBytes p.toNat * ((s.port p.toNat).barge key).n) % d.length → s.badIn (d.loc + o) bs.length = none →
    d.addr + o + bs.length ≤ 0x10000000000 → s.flitReaches p.toNat [d.addr, d.loc] = true →
    s.homeAway (sectorOf p.toNat) false d.counter = false → s.counterFull d.counter 1 = false → s.overrun d.counter 1 = false →
    s.sync.watches = [] →
    ∃ t, exec (.reduceCombine p b) s = .next t ∧
      t.mem.dev.bytes (d.addr + o) bs.length = s.reduced d.ctx (d.loc + o) bs ∧
      (∀ c, c < d.addr + o ∨ d.addr + o + bs.length ≤ c → t.mem.dev.byte c = s.mem.dev.byte c) ∧
      (t.counter d.counter).value = (s.counter d.counter).value + 1 ∧ Kept [.lnk, .dev, .bad, .sync] s t) ∧
  (∀ (p : PortCode) (b : BitVec 12) (key : Nat) (d : Barge) (s : State),
    (s.port p.toNat).headKey b.toNat = some key → (s.port p.toNat).desc key = some d →
    d.kind ≠ 5 ∨ s.stepCount d.localCtr ≤ ((s.port p.toNat).barge key).n ∨
      s.flitReaches p.toNat [d.addr, d.loc] = false → exec (.reduceCombine p b) s = .next s)

/-- An enabled port trains and, numbered, is UP with its credit; a module without frame lock adopts a locked neighbour's numbering, and an
anchor without one starts frame 0. A port that falls, or the loss of the hall reference, discards what was scheduled and is
reported; LNK.PORT_CTRL powers a port; a lost canal edge asks for takeover (11 R216-R219, R237, R238, R240; Table 11-3). -/
def Obligations.PortsAndFrameLock : Prop :=
  (∀ (p : Sector) (m : PortTraining) (s : State), s.flag (Off.lnkPortCtrl p.val) 0 = true → s.lnk.refLost = false →
    s.fail.moved = false → (s.port p.val).state ≤ 2 → m.asks ≠ some .needed → m.lanesUp = true → m.skewNs ≤ 20 →
    m.xa + m.xb ≤ 20000 → s.clk.lock = true → beyond3ns (m.xa - m.xb) = true →
    ∃ t, exec (.portTraining p m) s = .next t ∧ (t.port p.val).state = 4 ∧ t.log.seq = s.log.seq + 1 ∧
      (∀ q, q ≠ p.val → t.port q = s.port q) ∧ Kept (.lnk :: logAreas) s t ∧ RegsKept logRegs s t) ∧
  (∀ (p : Sector) (m : PortTraining) (s : State), s.flag (Off.lnkPortCtrl p.val) 0 = true → s.lnk.refLost = false →
    s.fail.moved = false → (s.port p.val).state ≤ 2 → m.asks ≠ some .needed → m.lanesUp = true → m.skewNs ≤ 20 →
    m.xa + m.xb ≤ 20000 → s.clk.lock = false → m.neighbourLocked = false →
    ∃ t, exec (.portTraining p m) s = .next t ∧ (t.port p.val).state = 2 ∧ t.clk = s.clk ∧
      (∀ q, q ≠ p.val → t.port q = s.port q) ∧ Kept [.lnk] s t) ∧
  (∀ (p : Sector) (m : PortTraining) (s : State), s.flag (Off.lnkPortCtrl p.val) 0 = true → s.lnk.refLost = false →
    s.fail.moved = false → (s.port p.val).state ≤ 2 → m.asks ≠ some .needed → m.lanesUp = true → m.skewNs ≤ 20 →
    20000 < m.xa + m.xb →
    ∃ t, exec (.portTraining p m) s = .next t ∧ (t.port p.val).state = 0 ∧ t.clk = s.clk ∧
      (∀ q, q ≠ p.val → t.port q = s.port q) ∧ Kept [.lnk] s t) ∧
  (∀ (p : Sector) (m : PortTraining) (s : State), s.flag (Off.lnkPortCtrl p.val) 0 = true → s.lnk.refLost = false →
    s.fail.moved = false → (s.port p.val).state ≤ 2 → m.asks = some .needed →
    ∃ t, exec (.portTraining p m) s = .next t ∧ t.port p.val = { s.port p.val with state := 1 } ∧ t.log.seq = s.log.seq + 1 ∧
      (∀ q, q ≠ p.val → t.port q = s.port q) ∧ Kept (.lnk :: logAreas) s t ∧ RegsKept logRegs s t) ∧
  (∀ (p : Sector) (m : PortTraining) (s : State), s.flag (Off.lnkPortCtrl p.val) 0 = true → s.lnk.refLost = false →
    s.fail.moved = false → (s.port p.val).state ≤ 2 → m.asks ≠ some .needed → m.lanesUp = true → m.skewNs ≤ 20 →
    m.xa + m.xb ≤ 20000 → s.clk.lock = true → beyond3ns (m.xa - m.xb) = false →
    ∃ t, exec (.portTraining p m) s = .next t ∧ (t.port p.val).state = 3 ∧ (t.port p.val).neighbour = m.neighbour.toNat ∧
      (∀ c, c < 5 → sget 0 (t.port p.val).credit c = 256) ∧ (∀ q, q ≠ p.val → t.port q = s.port q) ∧ Kept [.lnk] s t) ∧
  (∀ (p : Sector) (m : PortTraining) (c : Nat) (s : State), s.flag (Off.lnkPortCtrl p.val) 0 = true → s.lnk.refLost = false →
    s.fail.moved = false → (s.port p.val).state ≤ 2 → m.asks ≠ some .needed → m.lanesUp = true → m.skewNs ≤ 20 →
    m.xa + m.xb ≤ 20000 → s.clk.lock = false → m.neighbourLocked = true →
    beyond3ns (m.xa - m.xb - 128 * wholeCycles (m.xa - m.xb)) = false →
    (c : Int) = 4 * s.clk.frame + s.clk.edge + wholeCycles (m.xa - m.xb) →
    ∃ t, exec (.portTraining p m) s = .next t ∧ (t.port p.val).state = 3 ∧ t.clk.lock = true ∧
      t.flag Off.lnkNodeCfg 1 = true ∧ t.clk.frame = c / 4 ∧ t.clk.edge = c % 4 ∧
      t.clk.now = s.clk.now ∧ (∀ q, (t.port q).since = 0 ∧ (t.port q).sent = none ∧ (t.port q).got = none) ∧
      (s.pwr.ramp = none → s.pwr.nextClock = none → t.pwr = s.pwr) ∧
      Kept [.lnk, .clock, .regs, .stks, .pwr] s t ∧ RegsKept [Off.lnkNodeCfg] s t) ∧
  (∀ (p : Sector) (m : PortTraining) (s : State), s.flag (Off.lnkPortCtrl p.val) 0 = true → s.lnk.refLost = false →
    s.fail.moved = false → (s.port p.val).state ≤ 2 → m.asks ≠ some .needed → m.lanesUp = false ∨ 20 < m.skewNs →
    ∃ t, exec (.portTraining p m) s = .next t ∧ t.port p.val = { s.port p.val with state := 1 } ∧ Kept [.lnk] s t) ∧
  (∀ (p : Sector) (m : PortTraining) (s : State), s.flag (Off.lnkPortCtrl p.val) 0 = false ∨ s.lnk.refLost = true ∨
      s.fail.moved = true ∨ 2 < (s.port p.val).state → exec (.portTraining p m) s = .next s) ∧
  (∀ s : State, s.flag Off.lnkNodeCfg 0 = true → s.clk.lock = false → s.lnk.refLost = false →
    (∀ p, p < 16 → (s.port p).neighbourLocked = false ∨ (s.port p).state < 2 ∨ 5 < (s.port p).state) →
    ∃ t, exec .anchorSet s = .next t ∧ t.clk.frame = 0 ∧ t.clk.edge = 0 ∧ t.clk.lock = true ∧ t.clk.now = s.clk.now ∧
      t.flag Off.lnkNodeCfg 1 = true ∧ (∀ q, (t.port q).since = 0 ∧ (t.port q).state = (s.port q).state) ∧
      (s.pwr.ramp = none → s.pwr.nextClock = none → t.pwr = s.pwr) ∧
      Kept [.clock, .regs, .lnk, .stks, .pwr] s t ∧ RegsKept [Off.lnkNodeCfg] s t) ∧
  (∀ s : State, s.flag Off.lnkNodeCfg 0 = false ∨ s.clk.lock = true ∨ s.lnk.refLost = true ∨
      (∃ p, p < 16 ∧ (s.port p).neighbourLocked = true ∧ 2 ≤ (s.port p).state ∧ (s.port p).state ≤ 5) →
    exec .anchorSet s = .next s) ∧
  (∀ (p : Sector) (xa xb : Int) (s : State), (s.port p.val).up = true → (s.port p.val).checked ≠ some s.lockCycle →
    beyond3ns (xa - xb) = false →
    ∃ t, exec (.alignmentCheck p xa xb) s = .next t ∧
      t.port p.val = { s.port p.val with align := (xa - xb) / 2, checked := some s.lockCycle } ∧ Kept [.lnk] s t) ∧
  (∀ (p : Sector) (xa xb : Int) (s : State), (s.port p.val).up = true → (s.port p.val).checked ≠ some s.lockCycle →
    beyond3ns (xa - xb) = true →
    ∃ t, exec (.alignmentCheck p xa xb) s = .next t ∧ t.log.seq = s.log.seq + 1 ∧ (t.port p.val).state = (s.port p.val).state ∧
      Kept (.lnk :: logAreas) s t ∧ RegsKept logRegs s t) ∧
  (∀ (p : Sector) (xa xb : Int) (s : State), (s.port p.val).up = false ∨ (s.port p.val).checked = some s.lockCycle →
    exec (.alignmentCheck p xa xb) s = .next s) ∧
  (∀ (p : Sector) (c : BitVec 8) (s : State), (s.port p.val).state ≠ 0 → (s.port p.val).state ≠ 6 →
    ∃ t pl, exec (.portDown p c) s = .next t ∧ (t.port p.val).state = 0 ∧ (t.port p.val).store = [] ∧
      (t.port p.val).barges = [] ∧ (t.port p.val).credit = [] ∧ t.log.seq = s.log.seq + 1 ∧
      t.out.head? = some (.towpath 0x0024 pl) ∧ t.mem.dev = s.mem.dev ∧ (∀ q, q ≠ p.val → t.port q = s.port q)) ∧
  (∀ (p : Sector) (c : BitVec 8) (s : State), (s.port p.val).state = 0 ∨ (s.port p.val).state = 6 →
    exec (.portDown p c) s = .next s) ∧
  (∀ (p : Sector) (n c fr b : Nat) (s : State), (s.port p.val).up = true → n < c * 100000 ∨ fr < b * 1000000 →
    (s.port p.val).warnedAt.all (fun w => decide (w + 3600000000000000 ≤ s.clk.now)) = true →
    ∃ t, exec (.portErrorWarning p n c fr b) s = .next t ∧ t.log.seq = s.log.seq + 1 ∧
      t.port p.val = { s.port p.val with warnedAt := some s.clk.now } ∧ (∀ q, q ≠ p.val → t.port q = s.port q) ∧
      Kept (.lnk :: logAreas) s t ∧ RegsKept logRegs s t) ∧
  (∀ (p : Sector) (n c fr b : Nat) (s : State), (s.port p.val).up = false ∨ (c * 100000 ≤ n ∧ b * 1000000 ≤ fr) ∨
      (∃ w, (s.port p.val).warnedAt = some w ∧ s.clk.now < w + 3600000000000000) →
    exec (.portErrorWarning p n c fr b) s = .next s) ∧
  (∀ s : State, s.lnk.refLost = false →
    ∃ t, exec .hallRefLoss s = .next t ∧ t.lnk.refLost = true ∧ t.clk.lock = false ∧ t.flag Off.lnkNodeCfg 1 = false ∧
      (∀ p, p < 16 → (t.port p).state = 0 ∨ (t.port p).state = 6)) ∧
  (∀ s : State, s.lnk.refLost = true →
    exec .hallRefLoss s = .next s ∧
      exec .hallRefReturn s = .next { s with lnk := { s.lnk with refLost := false } }) ∧
  (∀ (p : Sector) (v : Word) (s : State), s.barOpen = true → v.toNat.testBit 0 = false → bits v.toNat 31 2 = 0 →
    (s.port p.val).up = false →
    ∃ t, exec (.portCtrlWrite 0 p v) s = .next t ∧ (t.port p.val).state = 6 ∧ t.reg (Off.lnkPortCtrl p.val) = 0 ∧
      Kept [.lnk, .regs] s t ∧ RegsKept [Off.lnkPortCtrl p.val] s t) ∧
  (∀ (p : Sector) (v : Word) (s : State), s.barOpen = true → v.toNat.testBit 0 = false → bits v.toNat 31 2 ≠ 0 →
    (s.port p.val).up = false →
    ∃ t, exec (.portCtrlWrite 0 p v) s = .next t ∧ (t.port p.val).state = 6 ∧ t.reg (Off.lnkPortCtrl p.val) = 0 ∧
      t.log.seq = s.log.seq + 1 ∧ Kept (.lnk :: logAreas) s t ∧ RegsKept (Off.lnkPortCtrl p.val :: logRegs) s t) ∧
  (∀ (p : Sector) (v : Word) (s : State), s.barOpen = true → v.toNat.testBit 0 = false → (s.port p.val).up = true →
    ∃ t, exec (.portCtrlWrite 0 p v) s = .next t ∧ (t.port p.val).state = 6 ∧ (t.port p.val).barges = [] ∧
      (t.port p.val).store = [] ∧ t.flag (Off.lnkPortCtrl p.val) 0 = false) ∧
  (∀ (p : Sector) (v : Word) (s : State), s.barOpen = true → v.toNat.testBit 0 = true → bits v.toNat 31 2 = 0 →
    s.flag (Off.lnkPortCtrl p.val) 0 = false →
    ∃ t, exec (.portCtrlWrite 0 p v) s = .next t ∧ (t.port p.val).state = 0 ∧ t.reg (Off.lnkPortCtrl p.val) = 1 ∧
      Kept [.lnk, .regs] s t ∧ RegsKept [Off.lnkPortCtrl p.val] s t) ∧
  (∀ (p : Sector) (v : Word) (s : State), s.barOpen = true → v.toNat.testBit 0 = true → v.toNat.testBit 1 = true →
    s.flag (Off.lnkPortCtrl p.val) 0 = true → ((s.port p.val).table0.free && (s.port p.val).table1.free) = true →
    ∃ t, exec (.portCtrlWrite 0 p v) s = .next t ∧ (t.port p.val).state = 0 ∧ t.flag (Off.lnkPortCtrl p.val) 0 = true) ∧
  (∀ (p : Sector) (v : Word) (s : State), s.barOpen = true → v.toNat.testBit 0 = true → v.toNat.testBit 1 = true →
    bits v.toNat 31 2 = 0 → s.flag (Off.lnkPortCtrl p.val) 0 = true → ((s.port p.val).table0.free && (s.port p.val).table1.free) = false →
    ∃ t, exec (.portCtrlWrite 0 p v) s = .next t ∧ t.lnk = s.lnk ∧ t.log.seq = s.log.seq + 1 ∧ Kept logAreas s t) ∧
  (∀ (f : Func) (p : Sector) (v : Word) (s : State), s.barOpen = true → f.val ≠ 0 →
    exec (.portCtrlWrite f p v) s = .next (s.ignored f.val (Off.lnkPortCtrl p.val) v.toNat)) ∧
  (∀ (c : Fin 64) (q : Nat) (s : State), edgeEnd (0x40 + c.val) = some q → (s.port (0x40 + c.val)).up = true →
    64 ≤ (s.port (0x40 + c.val)).badRun →
    ∃ t pl, exec (.canalEdgeLost c) s = .next t ∧ (t.port (0x40 + c.val)).state = 0 ∧ (t.port (0x40 + c.val)).lost = true ∧
      (t.port q).state = 0 ∧ (t.port q).lost = true ∧ (t.port (0x40 + c.val)).queue = [] ∧ (t.port q).queue = [] ∧ t.out.head? = some (.towpath 0x0025 pl) ∧ t.mem = s.mem) ∧
  (∀ (c : Fin 64) (s : State), edgeEnd (0x40 + c.val) = none ∨ (s.port (0x40 + c.val)).up = false ∨ (s.port (0x40 + c.val)).badRun < 64 →
    exec (.canalEdgeLost c) s = .next s)

/-- LOAD_LOCK_TABLE checks its image whole and puts the table into the inactive buffer of its port, or completes with the first failing
check; ARM arms a switch at least four lock cycles ahead, and at its lock cycle the armed ports take their other buffers; an old
buffer with nothing left is free (11 R222, R229, R230; 13 R283). -/
def Obligations.LockTables : Prop :=
  (∀ (x : Ctx) (d : Cmd) (st r : Nat) (s : State), s.startableOp x.val 0x11 = some d → s.Live x.val d →
    isHostAddr (d.addr 64) = false ∨ s.hostReady x.val (d.addr 64) = true → s.reachesAll 0 [d.addr 64] = true → s.headerCheck x.val (d.addr 64) = some (st, r) →
    ∃ t, exec (.loadLockTable x) s = .next t ∧ Answers s t x.val d st r ∧ CtxsKept x.val s t ∧ Kept [.ctxs] s t) ∧
  (∀ (x : Ctx) (d : Cmd) (st r : Nat) (s : State), s.startableOp x.val 0x11 = some d → s.Live x.val d →
    isHostAddr (d.addr 64) = false ∨ s.hostReady x.val (d.addr 64) = true → s.reachesAll 0 [d.addr 64] = true → s.headerCheck x.val (d.addr 64) = none →
    s.imageCheck (s.tableImage x.val (d.addr 64)) = some (st, r) →
    ∃ t, exec (.loadLockTable x) s = .next t ∧ Answers s t x.val d st r ∧ CtxsKept x.val s t ∧ Kept [.ctxs, .stks] s t) ∧
  (∀ (x : Ctx) (d : Cmd) (m : TableImage) (s : State), s.startableOp x.val 0x11 = some d → s.Live x.val d →
    isHostAddr (d.addr 64) = false ∨ s.hostReady x.val (d.addr 64) = true → s.reachesAll 0 [d.addr 64] = true → s.headerCheck x.val (d.addr 64) = none → m = s.tableImage x.val (d.addr 64) →
    s.imageCheck m = none → s.bufferBusy m.target = true →
    ∃ t, exec (.loadLockTable x) s = .next t ∧ Answers s t x.val d stBusy failNone ∧ CtxsKept x.val s t ∧ Kept [.ctxs, .stks] s t) ∧
  (∀ (x : Ctx) (d : Cmd) (m : TableImage) (s : State), s.startableOp x.val 0x11 = some d → s.Live x.val d →
    isHostAddr (d.addr 64) = false ∨ s.hostReady x.val (d.addr 64) = true → s.reachesAll 0 [d.addr 64] = true →
    s.headerCheck x.val (d.addr 64) = none → m = s.tableImage x.val (d.addr 64) →
    s.imageCheck m = none → s.bufferBusy m.target = false → d.arm = true →
    s.armInTime d.armAt = false ∨ (s.switchPending = true ∧ s.switchAt ≠ d.armAt) ∨
      (s.meetsTest m.target d.armAt = true ∧ m.table.free = false) →
    ∃ t, exec (.loadLockTable x) s = .next t ∧ Answers s t x.val d stBusy failNone ∧ t.flag Off.lnkTableSelect 29 = true ∧
      t.switchPending = s.switchPending ∧ (t.port m.target).table (1 - (s.port m.target).active) = m.table ∧
      CtxsKept x.val s t ∧ Kept [.ctxs, .lnk, .regs, .stks] s t ∧ RegsKept [Off.lnkTableSelect] s t) ∧
  (∀ (x : Ctx) (d : Cmd) (m : TableImage) (s : State), s.startableOp x.val 0x11 = some d → s.Live x.val d →
    isHostAddr (d.addr 64) = false ∨ s.hostReady x.val (d.addr 64) = true → s.reachesAll 0 [d.addr 64] = true → s.headerCheck x.val (d.addr 64) = none → m = s.tableImage x.val (d.addr 64) →
    s.imageCheck m = none → s.bufferBusy m.target = false → d.arm = false →
    ∃ t, exec (.loadLockTable x) s = .next t ∧ Answers s t x.val d stOk 0 ∧
      (t.port m.target).table (1 - (s.port m.target).active) = m.table ∧ (t.port m.target).active = (s.port m.target).active ∧
      CtxsKept x.val s t ∧ Kept [.ctxs, .lnk, .stks] s t) ∧
  (∀ (x : Ctx) (d : Cmd) (m : TableImage) (s : State), s.startableOp x.val 0x11 = some d → s.Live x.val d →
    isHostAddr (d.addr 64) = false ∨ s.hostReady x.val (d.addr 64) = true → s.reachesAll 0 [d.addr 64] = true → s.headerCheck x.val (d.addr 64) = none → m = s.tableImage x.val (d.addr 64) →
    s.imageCheck m = none → s.bufferBusy m.target = false → d.arm = true →
    (s.switchPending = true → s.switchAt = d.armAt) → s.meetsTest m.target d.armAt = false ∨ m.table.free = true →
    s.clk.frame + 4096 ≤ 1024 * d.armAt →
    ∃ t, exec (.loadLockTable x) s = .next t ∧ Answers s t x.val d stOk 0 ∧ t.switchPending = true ∧
      t.reg Off.lnkTableAt = d.armAt ∧ t.inMask m.target = true ∧
      (t.port m.target).table (1 - (s.port m.target).active) = m.table ∧ CtxsKept x.val s t ∧ Kept [.ctxs, .lnk, .regs, .stks] s t ∧
      RegsKept [Off.lnkTableAt, Off.lnkTableSelect] s t) ∧
  (∀ (x : Ctx) (s : State), s.startableOp x.val 0x11 = none → exec (.loadLockTable x) s = .next s) ∧
  (∀ (v : Word) (s : State), s.barOpen = true → v.toNat.testBit 31 = true → bits v.toNat 27 16 = 0 →
    s.clk.frame + 4096 ≤ 1024 * s.switchAt → s.lnk.tests = [] → s.switchPending = false →
    ∃ t, exec (.tableSelectArm 0 v) s = .next t ∧ t.switchPending = true ∧
      t.field Off.lnkTableSelect 15 0 = bits v.toNat 15 0 ∧ t.flag Off.lnkTableSelect 28 = v.toNat.testBit 28 ∧
      Kept [.regs] s t ∧ RegsKept [Off.lnkTableSelect] s t) ∧
  (∀ (v : Word) (s : State), s.barOpen = true → v.toNat.testBit 31 = false → bits v.toNat 27 16 = 0 →
    ∃ t, exec (.tableSelectArm 0 v) s = .next t ∧ t.switchPending = s.switchPending ∧
      t.field Off.lnkTableSelect 15 0 = bits v.toNat 15 0 ∧ t.flag Off.lnkTableSelect 28 = v.toNat.testBit 28 ∧
      t.flag Off.lnkTableSelect 29 = (s.flag Off.lnkTableSelect 29 && !v.toNat.testBit 29) ∧
      Kept [.regs] s t ∧ RegsKept [Off.lnkTableSelect] s t) ∧
  (∀ (v : Word) (s : State), s.barOpen = true → v.toNat.testBit 31 = true → bits v.toNat 27 16 ≠ 0 →
    ∃ t, exec (.tableSelectArm 0 v) s = .next t ∧ t.log.seq = s.log.seq + 1 ∧
      (t.switchPending = true ∨ t.flag Off.lnkTableSelect 29 = true) ∧
      t.field Off.lnkTableSelect 15 0 = bits v.toNat 15 0 ∧ t.field Off.lnkTableSelect 27 16 = s.field Off.lnkTableSelect 27 16 ∧
      Kept logAreas s t ∧ RegsKept (Off.lnkTableSelect :: logRegs) s t) ∧
  (∀ (v : Word) (s : State), s.barOpen = true → v.toNat.testBit 31 = true → bits v.toNat 27 16 = 0 →
    1024 * s.switchAt < s.clk.frame + 4096 ∨ s.switchPending = true →
    ∃ t, exec (.tableSelectArm 0 v) s = .next t ∧ t.switchPending = s.switchPending ∧ t.flag Off.lnkTableSelect 29 = true ∧
      Kept [.regs] s t ∧ RegsKept [Off.lnkTableSelect] s t) ∧
  (∀ (f : Func) (v : Word) (s : State), s.barOpen = true → f.val ≠ 0 →
    exec (.tableSelectArm f v) s = .next (s.ignored f.val Off.lnkTableSelect v.toNat)) ∧
  (∀ s : State, s.switchPending = true → s.clk.lock = true → 1024 * s.switchAt ≤ s.clk.frame →
    ∃ t, exec .tableSwitch s = .next t ∧ t.switchPending = false ∧
      (∀ p, s.inMask p = true → portExists p = true → (t.port p).active = 1 - (s.port p).active ∧
        (t.port p).since = 1024 * s.switchAt ∧ (t.port p).oldSince = some s.clk.now) ∧
      (∀ p, s.inMask p = false → t.port p = s.port p) ∧ Kept [.lnk, .sync, .regs] s t ∧ RegsKept [Off.lnkTableSelect] s t) ∧
  (∀ s : State, s.switchPending = false ∨ s.clk.lock = false ∨ s.clk.frame < 1024 * s.switchAt → exec .tableSwitch s = .next s) ∧
  (∀ (p : PortCode) (u : Nat) (s : State), (s.port p.toNat).oldSince = some u →
    (s.port p.toNat).leftovers (1 - (s.port p.toNat).active) = [] → (s.port p.toNat).oldLate = [] →
    ∃ t, exec (.oldTableRetire p) s = .next t ∧ t.port p.toNat =
        { (s.port p.toNat).setTable (1 - (s.port p.toNat).active)
            { (s.port p.toNat).table (1 - (s.port p.toNat).active) with loaded := false } with oldSince := none } ∧
      Kept [.lnk] s t) ∧
  (∀ (p : PortCode) (u : Nat) (s : State), (s.port p.toNat).oldSince = some u → u + 1000000000 ≤ s.clk.now →
    ∃ t, exec (.oldTableRetire p) s = .next t ∧ (t.port p.toNat).oldSince = none ∧
      (t.port p.toNat).active = (s.port p.toNat).active ∧
      ((t.port p.toNat).table (1 - (s.port p.toNat).active)).loaded = false ∧
      (t.port p.toNat).leftovers (1 - (s.port p.toNat).active) = [] ∧ t.mem.dev = s.mem.dev) ∧
  (∀ (p : PortCode) (u : Nat) (s : State), (s.port p.toNat).oldSince = none ∨ ((s.port p.toNat).oldSince = some u ∧
      s.clk.now < u + 1000000000 ∧ ((s.port p.toNat).leftovers (1 - (s.port p.toNat).active) ≠ [] ∨
        (s.port p.toNat).oldLate ≠ [])) →
    exec (.oldTableRetire p) s = .next s)

/-- A message that fails a check, repeats the last one, or finds the main domain down gets its code without effect; one of another type
is left, and one of a reserved type answered as such; IDENTIFY, HEALTH, RESET_MODULE and ATTEST answer as the catalogue says, IDENTIFY in recovery as well
(00 R3; 14 R294, R301-R307, Table 14-11; 17 R357). A reply is checked like any other message, and has no effect. Where HEALTH's values
stand after the first eight bytes is the model's choice (log 47). -/
def Obligations.MessagesThatInspect : Prop :=
  (∀ (src : MsgSrc) (m : Msg) (r : Acted) (c : Nat × Instr) (s : State),
    c ∈ [(0x01, .identify src m), (0x02, .health src m), (0x03, .resetModule src m), (0x10, .setBudget src m),
      (0x11, .setFreq src m), (0x20, .rankMove src m), (0x21, .jobAction src m), (0x30, .attest src m),
      (0x50, .fwActivateMessage src m)] →
    s.Arrives c.1 src m → s.beforeActing src m = some r → s.attestReady src m = true →
    ∃ t, exec c.2 s = .next t ∧ Decided t src m r.code r.reply ∧ Kept [.mail] s t) ∧
  (∀ (src : MsgSrc) (m : Msg) (c : Nat × Instr) (s : State),
    c ∈ [(0x01, .identify src m), (0x02, .health src m), (0x03, .resetModule src m), (0x10, .setBudget src m),
      (0x11, .setFreq src m), (0x20, .rankMove src m), (0x21, .jobAction src m), (0x30, .attest src m),
      (0x50, .fwActivateMessage src m)] →
    (m.type.toNat ≠ c.1 ∧ m.row.isSome = true) ∨ s.towpathUp = false → exec c.2 s = .next s) ∧
  (∀ (src : MsgSrc) (m : Msg) (c : Nat × Instr) (s : State),
    c ∈ [(0x01, .identify src m), (0x02, .health src m), (0x03, .resetModule src m), (0x10, .setBudget src m),
      (0x11, .setFreq src m), (0x20, .rankMove src m), (0x21, .jobAction src m), (0x30, .attest src m),
      (0x50, .fwActivateMessage src m)] →
    s.Arrives c.1 src m → m.reply = true → s.beforeActing src m = none →
    ∃ t, exec c.2 s = .next t ∧ Decided t src m 0 [] ∧ Kept [.mail] s t) ∧
  (∀ (src : MsgSrc) (m : Msg) (i : Instr) (s : State),
    i ∈ [.identify src m, .health src m, .resetModule src m, .setBudget src m, .setFreq src m, .rankMove src m, .jobAction src m,
      .fwActivateMessage src m] →
    s.Arrives m.type.toNat src m → m.row = none → m.major.toNat = 3 →
    ∃ t, exec i s = .next t ∧ Decided t src m (retCode stBadDescriptor 2) [] ∧ Kept [.mail] s t) ∧
  (∀ (src : MsgSrc) (m : Msg) (s : State), s.Fresh 0x01 src m → s.beforeActing src m = none →
    ∃ t, exec (.identify src m) s = .next t ∧ Decided t src m 0 s.identity ∧ Kept [.mail] s t) ∧
  (∀ (e : BitVec 8) (m : Msg) (s : State), m.type.toNat = 0x01 → m.reply = false → s.recovery = true →
    (s.box (m.boxOf (.fleet e))).full = false → s.ownerCoreRuns m = true → s.beforeActing (.fleet e) m = none →
    ∃ t, exec (.identify (.fleet e) m) s = .next t ∧ Decided t (.fleet e) m 0 s.identity ∧ Kept [.mail] s t) ∧
  (∀ (src : MsgSrc) (m : Msg) (s : State), s.recovery = true → exec (.health src m) s = .next s) ∧
  (∀ (src : MsgSrc) (m : Msg) (s : State), s.Fresh 0x02 src m → s.beforeActing src m = none →
    ∃ t r, exec (.health src m) s = .next t ∧ Decided t src m 0 r ∧ Kept [.mail] s t ∧
      r = natLe (s.reg Off.fwlFwStat) 8 ++ natLe s.causeBits 2 ++ (s.stateCounts.map (natLe · 1)).flatten ++ natLe s.expState 1) ∧
  (∀ (src : MsgSrc) (m : Msg) (s : State), s.Fresh 0x03 src m → s.beforeActing src m = none →
    ∃ t, exec (.resetModule src m) s = .next t ∧ Decided t src m 0 [] ∧
      t.mail.resetAt = some (s.clk.now + m.get 0 2 * 1000000000) ∧ Kept [.mail] s t) ∧
  (∀ (e : BitVec 8) (m : Msg) (s : State), s.Fresh 0x30 (.fleet e) m → s.beforeActing (.fleet e) m = none →
    ∃ t, exec (.attest (.fleet e) m) s = .next t ∧ Decided t (.fleet e) m 0 (s.report (m.get 0 32)) ∧ Kept [.mail] s t) ∧
  (∀ (x : Ctx) (m : Msg) (s : State), s.Fresh 0x30 (.host x) m → s.beforeActing (.host x) m = none →
    s.attestReady (.host x) m = true → isHostAddr (m.get 32 6) = true → s.mayAccess x.val (m.get 32 6) 768 = true →
    ∃ t, exec (.attest (.host x) m) s = .next t ∧ Decided t (.host x) m 0 [] ∧
      t.mem.host.bytes (s.busAddr x.val (m.get 32 6)) 768 = s.report (m.get 0 32) ∧
      (∀ a, a < s.busAddr x.val (m.get 32 6) ∨ s.busAddr x.val (m.get 32 6) + 768 ≤ a → t.mem.host.byte a = s.mem.host.byte a) ∧
      Kept [.mail, .host] s t) ∧
  (∀ (x : Ctx) (m : Msg) (s : State), s.Fresh 0x30 (.host x) m → s.beforeActing (.host x) m = none →
    s.attestReady (.host x) m = true →
    isHostAddr (m.get 32 6) = false ∨ s.mayAccess x.val (m.get 32 6) 768 = false →
    ∃ t, exec (.attest (.host x) m) s = .next t ∧ Decided t (.host x) m (retCode stBadAddress 0) [] ∧ Kept [.mail] s t)

/-- SET_BUDGET and SET_FREQ arm a change for a lock cycle at least 64 ahead, or, once acknowledged, for the next; RANK_MOVE and JOB_ACTION wait for theirs, at
least 128 ahead; FW_ACTIVATE starts an activation, or defers it in an emergency. Values out of range and late lock cycles are refused
(12 R258; 14 R299, R306, R308, Table 14-11; 15 R337, R338). -/
def Obligations.MessagesThatSteer : Prop :=
  (∀ (src : MsgSrc) (m : Msg) (lc : Nat) (s : State), s.Fresh 0x10 src m → s.beforeActing src m = none →
    600 ≤ m.get 0 4 → m.get 0 4 ≤ 4800 → m.get 6 6 = lc → s.lcNow + 64 ≤ lc →
    ∃ t, exec (.setBudget src m) s = .next t ∧ Decided t src m 0 [] ∧ t.pwr = { s.pwr with armed := some (m.get 0 4, m.get 4 2) } ∧
      t.field Off.pwrBudget 31 16 = m.get 0 4 ∧ t.field Off.pwrBudget 15 0 = m.get 4 2 ∧ t.flag Off.pwrBudgetAt 63 = true ∧
      t.field Off.pwrBudgetAt 45 0 = lc % 2 ^ 46 ∧ Kept [.mail, .pwr, .regs] s t ∧
      RegsKept [Off.pwrBudget, Off.pwrBudgetAt] s t) ∧
  (∀ (src : MsgSrc) (m : Msg) (s : State), s.Fresh 0x10 src m → s.beforeActing src m = none →
    m.get 0 4 < 600 ∨ 4800 < m.get 0 4 →
    ∃ t, exec (.setBudget src m) s = .next t ∧ Decided t src m (retCode stBadDescriptor 8) [] ∧ Kept [.mail] s t) ∧
  (∀ (src : MsgSrc) (m : Msg) (s : State), s.Fresh 0x10 src m → s.beforeActing src m = none →
    600 ≤ m.get 0 4 → m.get 0 4 ≤ 4800 → m.get 6 6 ≠ 0 → m.get 6 6 < s.lcNow + 64 →
    ∃ t, exec (.setBudget src m) s = .next t ∧ Decided t src m (retCode stBusy 0) [] ∧ t.log.seq = s.log.seq + 1 ∧
      Kept (.mail :: logAreas) s t) ∧
  (∀ (src : MsgSrc) (m : Msg) (lc : Nat) (s : State), s.Fresh 0x11 src m → s.beforeActing src m = none →
    14 ≤ m.get 0 1 → m.get 0 1 ≤ 28 → m.get 1 1 ≤ 1 →
    m.get 2 6 = lc → s.lcNow + 64 ≤ lc →
    ∃ t, exec (.setFreq src m) s = .next t ∧ Decided t src m 0 [] ∧ t.flag Off.pwrFreqAt 63 = true ∧
      t.field Off.pwrFreqAt 61 56 = m.get 0 1 ∧ t.field Off.pwrFreqAt 62 62 = m.get 1 1 ∧
      t.field Off.pwrFreqAt 45 0 = lc % 2 ^ 46 ∧ Kept [.mail, .regs] s t ∧ RegsKept [Off.pwrFreqAt] s t) ∧
  (∀ (src : MsgSrc) (m : Msg) (c : Nat × Nat × Instr) (s : State), c ∈ [(0x10, m.get 6 6, .setBudget src m), (0x11, m.get 2 6, .setFreq src m)] →
    s.Fresh c.1 src m → s.beforeActing src m = none → c.2.1 = 0 →
    (c.1 = 0x10 → 600 ≤ m.get 0 4 ∧ m.get 0 4 ≤ 4800) → (c.1 = 0x11 → 14 ≤ m.get 0 1 ∧ m.get 0 1 ≤ 28 ∧ m.get 1 1 ≤ 1) →
    ∃ t, exec c.2.2 s = .next t ∧ Decided t src m 0 [] ∧ (t.box (m.boxOf src)).armOnAck = true ∧ Kept [.mail] s t) ∧
  (∀ (src : MsgSrc) (m : Msg) (k : Nat) (s : State), k = boxKey (.towpath .power) → (s.box k).full = true → s.receiverRuns k = true →
    (s.box k).msg = some m → (s.box k).src = some src → (∀ x, src ≠ .host x) → (s.box k).result = some (0, []) →
    (s.box k).armOnAck = true → m.type = 0x10 → m.get 0 4 < 65536 →
    ∃ t, exec (.mailboxAck (.towpath .power)) s = .next t ∧ (t.box k).full = false ∧ (t.box k).ack = some 0 ∧
      t.pwr = { s.pwr with armed := some (m.get 0 4, m.get 4 2) } ∧ t.field Off.pwrBudget 31 16 = m.get 0 4 ∧
      t.flag Off.pwrBudgetAt 63 = true ∧ t.field Off.pwrBudgetAt 45 0 = (s.lcNow + 1) % 2 ^ 46 ∧
      Kept [.mail, .pwr, .regs, .out] s t ∧ RegsKept [Off.pwrBudget, Off.pwrBudgetAt] s t) ∧
  (∀ (src : MsgSrc) (m : Msg) (k : Nat) (s : State), k = boxKey (.towpath .power) → (s.box k).full = true → s.receiverRuns k = true →
    (s.box k).msg = some m → (s.box k).src = some src → (∀ x, src ≠ .host x) → (s.box k).result = some (0, []) →
    (s.box k).armOnAck = true → m.type = 0x11 → m.get 0 1 ≤ 28 → m.get 1 1 ≤ 1 →
    ∃ t, exec (.mailboxAck (.towpath .power)) s = .next t ∧ (t.box k).full = false ∧ (t.box k).ack = some 0 ∧
      t.flag Off.pwrFreqAt 63 = true ∧ t.field Off.pwrFreqAt 61 56 = m.get 0 1 ∧ t.field Off.pwrFreqAt 62 62 = m.get 1 1 ∧
      t.field Off.pwrFreqAt 45 0 = (s.lcNow + 1) % 2 ^ 46 ∧ Kept [.mail, .regs, .out] s t ∧ RegsKept [Off.pwrFreqAt] s t) ∧
  (∀ (src : MsgSrc) (m : Msg) (s : State), s.Fresh 0x11 src m → s.beforeActing src m = none →
    m.get 0 1 < 14 ∨ 28 < m.get 0 1 →
    ∃ t, exec (.setFreq src m) s = .next t ∧ Decided t src m (retCode stBadDescriptor 8) [] ∧ Kept [.mail] s t) ∧
  (∀ (src : MsgSrc) (m : Msg) (x : Nat) (s : State), s.Fresh 0x20 src m → s.beforeActing src m = none →
    s.jobCtx (m.get 16 2) = some x → s.aheadBy 128 (m.get 10 6) = true →
    ∃ t, exec (.rankMove src m) s = .next t ∧ Decided t src m 0 [] ∧
      t.fail.moves = s.fail.moves.filter (fun o => !(o.x == x && o.rank == m.get 0 2)) ++
        [RankMove.mk x (m.get 0 2) (m.get 2 2) (m.get 4 6) (m.get 10 6)] ∧ Kept [.mail, .fail] s t) ∧
  (∀ (src : MsgSrc) (m : Msg) (s : State), s.Fresh 0x20 src m → s.beforeActing src m = none →
    s.jobCtx (m.get 16 2) = none →
    ∃ t, exec (.rankMove src m) s = .next t ∧ Decided t src m (retCode stBadContext 0) [] ∧ Kept [.mail] s t) ∧
  (∀ (src : MsgSrc) (m : Msg) (x : Nat) (s : State), s.Fresh 0x21 src m → s.beforeActing src m = none →
    s.jobCtx (m.get 0 2) = some x → s.aheadBy 128 (m.get 10 6) = true → m.get 2 6 = (s.ctx x).step + 1 →
    ∃ t, exec (.jobAction src m) s = .next t ∧ Decided t src m 0 [] ∧
      t.ctx x = { s.ctx x with jobAct := some (m.get 8 1, m.get 10 6) } ∧ CtxsKept x s t ∧ Kept [.mail, .ctxs] s t) ∧
  (∀ (src : MsgSrc) (m : Msg) (x : Nat) (s : State), s.Fresh 0x21 src m → s.beforeActing src m = none →
    s.jobCtx (m.get 0 2) = some x → s.aheadBy 128 (m.get 10 6) = false →
    ∃ t, exec (.jobAction src m) s = .next t ∧ Decided t src m (retCode stBusy 0) [] ∧ Kept [.mail] s t) ∧
  (∀ (src : MsgSrc) (m : Msg) (s : State), s.Fresh 0x50 src m → s.beforeActing src m = none →
    s.fw.act = none → m.get 1 1 ≠ 0 → s.emergency = false → s.firstFail (m.get 0 1) ((coresOf (m.get 1 1)).map coreClass) = none →
    (coresOf (m.get 1 1)).any (s.handoffDiffers (m.get 0 1)) = false →
    ∃ t, exec (.fwActivateMessage src m) s = .next t ∧ Decided t src m 0 [] ∧
      t.fw.act = some (Activation.mk (m.get 0 1) (m.get 1 1) none true s.clk.now (coresOf (m.get 1 1)) []) ∧
      t.fw.previous = s.fw.loaded ∧ t.fw.loaded = s.fw.loaded ∧ t.field Off.fwlFwStat 63 62 = 2 ∧
      Kept [.mail, .fw, .regs] s t ∧ RegsKept [Off.fwlFwStat] s t) ∧
  (∀ (src : MsgSrc) (m : Msg) (s : State), s.Fresh 0x50 src m → s.beforeActing src m = none →
    s.fw.act = none → m.get 1 1 ≠ 0 → s.emergency = false →
    s.firstFail (m.get 0 1) ((coresOf (m.get 1 1)).map coreClass) ≠ none →
    ∃ t p, exec (.fwActivateMessage src m) s = .next t ∧ Decided t src m (retCode stAuthFail 0) [] ∧
      t.out.head? = some (.towpath 0x0051 p) ∧ t.log.seq = s.log.seq + 2 ∧ t.fw = s.fw ∧ Kept (.mail :: logAreas) s t) ∧
  (∀ (src : MsgSrc) (m : Msg) (s : State), s.Fresh 0x50 src m → s.beforeActing src m = none →
    s.fw.act = none → m.get 1 1 ≠ 0 → s.emergency = true →
    ∃ t, exec (.fwActivateMessage src m) s = .next t ∧ Decided t src m (retCode stDeferred 0) [] ∧
      (∃ a, t.fw.act = some a ∧ a.running = false ∧ a.cores = m.get 1 1 ∧ a.slot = m.get 0 1) ∧
      t.field Off.fwlFwStat 63 62 = 1 ∧ Kept [.mail, .fw, .regs] s t) ∧
  (∀ (src : MsgSrc) (m : Msg) (a : Activation) (s : State), s.Fresh 0x50 src m → s.beforeActing src m = none →
    s.fw.act = some a → m.get 1 1 ≠ 0 →
    ∃ t, exec (.fwActivateMessage src m) s = .next t ∧ Decided t src m (retCode stBusy 2) [] ∧ Kept [.mail] s t)

/-- A host write of 64 bytes at the start of its window puts a message in an empty mailbox; a full one turns it away. The receiver's
acknowledgement clears FULL, stands in the acknowledge register and is sent, with a reply only into an empty outbound mailbox; the host acknowledges its outbound mailbox
(12 R245, R247; 14 R301, R303). -/
def Obligations.Mailboxes : Prop :=
  (∀ (f : Func) (x : Ctx) (dmwr : Bool) (data : List Byte) (s : State), s.barOpen = true →
    s.funcOwns f.val (some x.val) = true → data.length = 64 → (s.box x.val).full = false →
    ∃ t, exec (.inSlot f x dmwr 0 data) s = .next t ∧ (t.box x.val).msg = some (msgOfBytes data) ∧ (t.box x.val).full = true ∧
      (t.box x.val).src = some (.host x) ∧ (t.box x.val).result = none ∧
      t.out = (if dmwr then .completion f.val 0 :: s.out else s.out) ∧ (∀ k, k ≠ x.val → t.box k = s.box k) ∧
      Kept [.mail, .out] s t) ∧
  (∀ (f : Func) (x : Ctx) (data : List Byte) (s : State), s.barOpen = true → s.funcOwns f.val (some x.val) = true →
    data.length = 64 → (s.box x.val).full = true →
    ∃ t, exec (.inSlot f x true 0 data) s = .next t ∧ t.out = .completion f.val 2 :: s.out ∧ t.mail = s.mail ∧
      t.field (Off.hifFuncStat f.val) 15 0 = min (s.field (Off.hifFuncStat f.val) 15 0 + 1) 65535 ∧ Kept [.regs, .out] s t ∧
      RegsKept [Off.hifFuncStat f.val] s t) ∧
  (∀ (f : Func) (x : Ctx) (data : List Byte) (s : State), s.barOpen = true → s.funcOwns f.val (some x.val) = true →
    data.length = 64 → (s.box x.val).full = true →
    ∃ t, exec (.inSlot f x false 0 data) s = .next t ∧ t.box x.val = { s.box x.val with overrun := true } ∧
      t.log.seq = s.log.seq + 1 ∧ Kept (.mail :: logAreas) s t) ∧
  (∀ (f : Func) (x : Ctx) (dmwr : Bool) (o : Nat) (data : List Byte) (s : State), s.barOpen = true →
    s.funcOwns f.val (some x.val) = true → o < 64 → o ≠ 0 ∨ data.length ≠ 64 →
    ∃ t, exec (.inSlot f x dmwr o data) s = .next t ∧
      (dmwr = true → t.out = .completion f.val 2 :: s.out ∧ t.mail = s.mail) ∧
      (dmwr = false → t.box x.val = { s.box x.val with overrun := true } ∧ t.out = s.out) ∧
      (∀ k, k ≠ x.val → t.box k = s.box k) ∧ Kept [.mail, .regs, .out] s t ∧ RegsKept [Off.hifFuncStat f.val] s t) ∧
  (∀ (f : Func) (x : Ctx) (data : List Byte) (s : State), s.barOpen = true → s.funcOwns f.val (some x.val) = true →
    data.length = 4 → (leNat data).testBit 31 = true →
    ∃ t, exec (.inSlot f x false 0x40 data) s = .next t ∧ t.box x.val = { s.box x.val with valid := false } ∧ Kept [.mail] s t) ∧
  (∀ (f : Func) (x : Ctx) (dmwr : Bool) (o : Nat) (data : List Byte) (s : State), s.barOpen = true →
    s.funcOwns f.val (some x.val) = false →
    ∃ t, exec (.inSlot f x dmwr o data) s = .next t ∧ t.mail = s.mail ∧ t.log.seq = s.log.seq + 1 ∧ Kept logAreas s t) ∧
  (∀ (f : Func) (x : Ctx) (dmwr : Bool) (o : Nat) (data : List Byte) (v : BitVec 32) (s : State), s.barOpen = false →
    exec (.inSlot f x dmwr o data) s = .next s ∧ exec (.outAck f x v) s = .next s) ∧
  (∀ (f : Func) (x : Ctx) (v : BitVec 32) (s : State), s.barOpen = true → s.funcOwns f.val (some x.val) = true →
    (s.box (64 + x.val)).full = true →
    ∃ t, exec (.outAck f x v) s = .next t ∧ t.box (64 + x.val) = { s.box (64 + x.val) with full := false, ack := some (v.setWidth 16) } ∧
      (∀ k, k ≠ 64 + x.val → t.box k = s.box k) ∧ Kept [.mail, .io, .out] s t) ∧
  (∀ (f : Func) (x : Ctx) (v : BitVec 32) (s : State), s.barOpen = true → s.funcOwns f.val (some x.val) = true →
    (s.box (64 + x.val)).full = false → exec (.outAck f x v) s = .next s) ∧
  (∀ (b : MailboxId) (m : Msg) (src : MsgSrc) (code : BitVec 16) (reply : List Byte) (s : State),
    (s.box (boxKey b)).full = true → s.receiverRuns (boxKey b) = true → (s.box (boxKey b)).msg = some m →
    (s.box (boxKey b)).src = some src → (s.box (boxKey b)).result = some (code, reply) → (∀ x, src ≠ .host x) →
    (s.box (boxKey b)).armOnAck = false →
    ∃ t, exec (.mailboxAck b) s = .next t ∧
      t.box (boxKey b) = { s.box (boxKey b) with full := false, result := none, ack := some code, valid := true } ∧
      t.lastAck src m = some ⟨src, m, code, reply⟩ ∧
      t.out = .ack src code reply :: s.out ∧ Kept [.mail, .out] s t) ∧
  (∀ (b : MailboxId) (x : Ctx) (m : Msg) (code : BitVec 16) (s : State), boxKey b = x.val →
    (s.box x.val).full = true → s.receiverRuns x.val = true → (s.box x.val).msg = some m →
    (s.box x.val).src = some (.host x) → (s.box x.val).result = some (code, []) → (s.box x.val).armOnAck = false →
    ∃ t, exec (.mailboxAck b) s = .next t ∧
      t.box x.val = { s.box x.val with full := false, result := none, ack := some code, valid := true } ∧
      t.lastAck (.host x) m = some ⟨.host x, m, code, []⟩ ∧ Kept [.mail, .io, .out] s t) ∧
  (∀ (b : MailboxId) (x : Ctx) (m : Msg) (code : BitVec 16) (r : Byte) (rs : List Byte) (s : State), boxKey b = x.val →
    (s.box x.val).full = true → s.receiverRuns x.val = true → (s.box x.val).msg = some m →
    (s.box x.val).src = some (.host x) → (s.box x.val).result = some (code, r :: rs) → (s.box x.val).armOnAck = false →
    ∃ t, exec (.mailboxAck b) s = .next t ∧
      ((s.box (64 + x.val)).full = true → t = s) ∧
      ((s.box (64 + x.val)).full = false → (t.box x.val).full = false ∧ (t.box x.val).ack = some code ∧
        (t.box (64 + x.val)).full = true ∧ (t.box (64 + x.val)).msg = some (m.replyOf (r :: rs))) ∧ Kept [.mail, .io, .out] s t) ∧
  (∀ (b : MailboxId) (m : Msg) (src : MsgSrc) (s : State), (s.box (boxKey b)).full = true → s.receiverRuns (boxKey b) = true →
    (s.box (boxKey b)).msg = some m → (s.box (boxKey b)).src = some src → (s.box (boxKey b)).result = none → m.reply = true →
    (∀ x, src ≠ .host x) → s.beforeActing src m = none → (s.box (boxKey b)).armOnAck = false →
    ∃ t, exec (.mailboxAck b) s = .next t ∧ (t.box (boxKey b)).ack = some 0 ∧ (t.box (boxKey b)).full = false ∧
      Kept [.mail, .out] s t) ∧
  (∀ (b : MailboxId) (s : State), (s.box (boxKey b)).full = false ∨ s.receiverRuns (boxKey b) = false →
    exec (.mailboxAck b) s = .next s)

/-- An image that verifies replaces the staged one of its class in the slot not running, and one that fails is not VALID there, is counted
and logged, as are settings and revocations that fail; revocations only add to what is fused and the owner's policy is written once. An activation takes its cores one by one; the
slot it came from is the running slot when the last is ready (14 R297-R300; 13 R286; 17 R351-R355). -/
def Obligations.FirmwareAndFuses : Prop :=
  (∀ (i : Image) (s : State), s.securityUp = true → 1 ≤ i.cls.toNat → i.cls.toNat ≤ 5 → s.fw.fuses.failCode (some i) = 0 → s.slot ≤ 1 →
    (s.device (1 - s.slot)).images.length < 128 →
    ∃ t, exec (.pldmUpdateComponent (.image i)) s = .next t ∧ (t.device (1 - s.slot)).image i.cls.toNat = some { i with flags := i.flags &&& 0xFE ||| 1 } ∧
      t.device s.slot = s.device s.slot ∧ t.fw.loaded = s.fw.loaded ∧ t.out = .response "PLDM" 0 [] :: s.out ∧
      Kept [.fw, .out] s t) ∧
  (∀ (i : Image) (s : State), s.securityUp = true → 1 ≤ i.cls.toNat → i.cls.toNat ≤ 5 → s.fw.fuses.failCode (some i) ≠ 0 → s.slot ≤ 1 →
    ∃ t, exec (.pldmUpdateComponent (.image i)) s = .next t ∧ (t.device (1 - s.slot)).image i.cls.toNat = none ∧
      t.device s.slot = s.device s.slot ∧ t.field Off.secBootStat 55 48 = s.fw.fuses.failCode (some i) ∧
      t.field Off.secBootStat 47 32 = min (s.field Off.secBootStat 47 32 + 1) 65535 ∧ t.log.seq = s.log.seq + 1 ∧
      Kept (.fw :: logAreas) s t) ∧
  (∀ (c : Settings) (s : State), s.securityUp = true → s.fw.fuses.settingsCode c = 0 →
    ∃ t, exec (.pldmUpdateComponent (.settings c)) s = .next t ∧ t.fw.dev0.settings = some c ∧ t.fw.dev1.settings = some c ∧
      t.fw.fuses = s.fw.fuses ∧ Kept [.fw, .out] s t) ∧
  (∀ (c : Settings) (s : State), s.securityUp = true → s.fw.fuses.settingsCode c ≠ 0 →
    ∃ t, exec (.pldmUpdateComponent (.settings c)) s = .next t ∧ t.fw = s.fw ∧
      (s.fw.fuses.ownerMode = 1 → t.log.seq = s.log.seq + 1 ∧
        t.field Off.secBootStat 55 48 = s.fw.fuses.settingsCode c) ∧ Kept logAreas s t) ∧
  (∀ (mask : BitVec 4) (g : BitVec 256) (r : Trailer) (s : State), s.securityUp = true → s.fw.fuses.trailerCode r g = 0 →
    ∃ t, exec (.pldmUpdateComponent (.revocation mask g r)) s = .next t ∧
      t.fw.fuses = { s.fw.fuses with revoke := s.fw.fuses.revoke ||| (mask &&& 7) } ∧ Kept [.fw, .out] s t) ∧
  (∀ (mask : BitVec 4) (g : BitVec 256) (r : Trailer) (s : State), s.securityUp = true → s.fw.fuses.trailerCode r g ≠ 0 →
    ∃ t, exec (.pldmUpdateComponent (.revocation mask g r)) s = .next t ∧ t.fw = s.fw ∧ t.log.seq = s.log.seq + 1 ∧
      t.field Off.secBootStat 55 48 = s.fw.fuses.trailerCode r g ∧
      t.field Off.secBootStat 47 32 = min (s.field Off.secBootStat 47 32 + 1) 65535 ∧ Kept logAreas s t) ∧
  (∀ (q : PldmQuery) (s : State), s.securityUp = true → s.recovery = false →
    exec (.pldmUpdateComponent (.query q)) s = .next (s.send (.response "PLDM" 0 (s.pldmData q)))) ∧
  (∀ s : State, s.securityUp = true →
    ∃ t, exec (.pldmUpdateComponent .unlisted) s = .next t ∧ t.fw = s.fw ∧ t.out.head? = some (.response "PLDM" 5 []) ∧
      t.log.seq = s.log.seq + 1 ∧ Kept logAreas s t) ∧
  (∀ (c : Component) (s : State), s.securityUp = false → exec (.pldmUpdateComponent c) s = .next s) ∧
  (∀ (mode : BitVec 2) (h : BitVec 256) (s : State), s.securityUp = true → s.recovery = false → s.fw.fuses.ownerMode = 0 → s.fw.fuses.ownerHash = 0 →
    ∃ t, exec (.ownerModeFuseWrite mode h) s = .next t ∧ t.fw.fuses = { s.fw.fuses with ownerMode := mode, ownerHash := h } ∧
      t.field Off.secBootStat 62 61 = mode.toNat ∧ Kept [.fw, .regs] s t ∧ RegsKept [Off.secBootStat] s t) ∧
  (∀ (mode : BitVec 2) (h : BitVec 256) (s : State), s.securityUp = false ∨ s.recovery = true ∨ s.fw.fuses.ownerMode ≠ 0 ∨ s.fw.fuses.ownerHash ≠ 0 →
    exec (.ownerModeFuseWrite mode h) s = .next s) ∧
  (∀ (x : Ctx) (d : Cmd) (s : State), s.startableOp x.val 0x20 (some 5) = some d → s.Live x.val d → d.f 83 80 ≠ 0 →
    s.fw.act = none → s.emergency = false → s.firstFail (d.f 72 72) ((coresOf (d.f 83 80)).map coreClass) = none →
    (coresOf (d.f 83 80)).any (s.handoffDiffers (d.f 72 72)) = false →
    ∃ t, exec (.fwActivate x) s = .next t ∧ (t.ctx x.val).entries = (s.ctx x.val).entries ∧
      t.fw.act = some (Activation.mk (d.f 72 72) (d.f 83 80) (some (x.val, d.idx)) true s.clk.now (coresOf (d.f 83 80)) []) ∧
      CtxsKept x.val s t ∧ Kept [.ctxs, .fw, .regs] s t ∧ RegsKept [Off.fwlFwStat] s t) ∧
  (∀ (x : Ctx) (d : Cmd) (s : State), s.startableOp x.val 0x20 (some 5) = some d → s.Live x.val d → d.f 83 80 ≠ 0 →
    s.fw.act = none → s.emergency = true →
    ∃ t, exec (.fwActivate x) s = .next t ∧ Answers s t x.val d stDeferred 0 ∧ CtxsKept x.val s t ∧
      Kept [.ctxs, .fw, .regs] s t) ∧
  (∀ (x : Ctx) (d : Cmd) (s : State), s.startableOp x.val 0x20 (some 5) = some d → s.Live x.val d → d.f 83 80 ≠ 0 →
    s.fw.act = none → s.emergency = false → s.firstFail (d.f 72 72) ((coresOf (d.f 83 80)).map coreClass) ≠ none →
    ∃ t, exec (.fwActivate x) s = .next t ∧ Answers s t x.val d stAuthFail 0 ∧ t.log.seq = s.log.seq + 2 ∧ t.fw = s.fw ∧
      CtxsKept x.val s t ∧ Kept (.ctxs :: logAreas) s t) ∧
  (∀ (x : Ctx) (s : State), s.startableOp x.val 0x20 (some 5) = none → exec (.fwActivate x) s = .next s) ∧
  (∀ (a : Activation) (s : State), s.fw.act = some a → a.running = false → s.calm = true →
    s.firstFail a.slot ((coresOf a.cores).map coreClass) = none → (coresOf a.cores).any (s.handoffDiffers a.slot) = false →
    ∃ t, exec .activationStart s = .next t ∧
      t.fw.act = some (Activation.mk a.slot a.cores none true s.clk.now (coresOf a.cores) []) ∧ t.field Off.fwlFwStat 63 62 = 2 ∧
      Kept [.fw, .regs] s t ∧ RegsKept [Off.fwlFwStat] s t) ∧
  (∀ (a : Activation) (s : State), s.fw.act = none ∨ (s.fw.act = some a ∧ (a.running = true ∨ s.calm = false)) →
    exec .activationStart s = .next s) ∧
  (∀ (a : Activation) (c : Core) (s : State), s.fw.act = some a → a.running = true → a.todo.head? = some c →
    c = .power ∨ c = .security → c ∉ s.fw.restarting → s.emergency = false → s.calm = true →
    ∃ t, exec (.soloRestart c) s = .next t ∧ t.fw = { s.fw with restarting := c :: s.fw.restarting } ∧
      (t.box (boxKey (.towpath c))).full = false ∧ Kept [.mail, .fw, .out, .io] s t) ∧
  (∀ (c : Core) (s : State), s.fw.act = none ∨ s.emergency = true ∨ c = .scheduler → exec (.soloRestart c) s = .next s) ∧
  (∀ (a : Activation) (c e : Core) (r : List Core) (i : Image) (s : State), s.fw.act = some a → a.running = true →
    a.todo = c :: e :: r → c = .scheduler ∨ c = .hiveControl ∨ c ∈ s.fw.restarting →
    (s.device a.slot).image (coreClass c) = some i →
    ∃ t, exec (.coreReady c true) s = .next t ∧ i ∈ t.fw.loaded ∧
      t.fw.act = some { a with todo := e :: r, changed := a.changed ++ [c] } ∧
      (∀ j, j ∈ s.fw.loaded → j.cls ≠ i.cls → j ∈ t.fw.loaded) ∧ Kept [.fw, .regs] s t) ∧
  (∀ (a : Activation) (c : Core) (i : Image) (s : State), s.fw.act = some a → a.running = true → a.todo = [c] → a.slot ≤ 1 →
    (s.device (1 - a.slot)).bootGen.toNat + 1 < 2 ^ 32 →
    c = .scheduler ∨ c = .hiveControl ∨ c ∈ s.fw.restarting → (s.device a.slot).image (coreClass c) = some i →
    ∃ t, exec (.coreReady c true) s = .next t ∧ t.fw.act = none ∧ t.field Off.fwlFwStat 59 59 = a.slot ∧
      (t.device (1 - a.slot)).bootGen < (t.device a.slot).bootGen ∧ (t.device a.slot).valid = true ∧
      t.field Off.fwlFwStat 63 62 = 0) ∧
  (∀ (a : Activation) (c : Core) (s : State), s.fw.act = some a → a.running = true → a.todo.head? = some c →
    c = .scheduler ∨ c = .hiveControl ∨ c ∈ s.fw.restarting →
    ∃ t, exec (.coreReady c false) s = .next t ∧ t.fw.act = none ∧ t.field Off.fwlFwStat 63 62 = 0 ∧
      t.fw.fuses = s.fw.fuses ∧ t.fw.dev0 = s.fw.dev0 ∧ t.fw.dev1 = s.fw.dev1) ∧
  (∀ (c : Core) (ok : Bool) (s : State), s.fw.act = none → exec (.coreReady c ok) s = .next s)

/-- SPDM requests act in their order once they reach the security core, and are answered as unexpected before it; sessions exist on DOE
alone, and over a finished one the function's IDE streams are programmed and made Secure. The endpoint takes the addresses that its
buses give it (14 R309, Table 14-12; 17 R358, R362, R363; the order and codes are the standards', log 18). -/
def Obligations.IdentityAndSessions : Prop :=
  (∀ (p : SpdmPort) (s : State), s.spdmReaches p = true →
    ∃ t, exec (.getVersion ⟨p, none⟩) s = .next t ∧ t.spdm p = { version := true } ∧ t.out = .response "SPDM" 0 [0x12#8] :: s.out ∧
      (∀ q, q ≠ p → t.spdm q = s.spdm q) ∧ Kept [.io, .out] s t) ∧
  (∀ (p : SpdmPort) (k : BitVec 8) (s : State), s.spdmReaches p = true →
    ∃ t, exec (.getVersion ⟨p, some k⟩) s = .next t ∧ t.io = s.io ∧ t.out.head? = some (.response "SPDM" 7 []) ∧
      t.log.seq = s.log.seq + 1 ∧ Kept logAreas s t) ∧
  (∀ (p : SpdmPort) (s : State), s.spdmReaches p = true → (s.spdm p).version = true →
    ∃ t, exec (.getCapabilities p) s = .next t ∧ t.spdm p = { s.spdm p with capabilities := true } ∧
      t.out = .response "SPDM" 0 [] :: s.out ∧ Kept [.io, .out] s t) ∧
  (∀ (p : SpdmPort) (c g : Bool) (s : State), s.spdmReaches p = true → (s.spdm p).capabilities = true →
    ∃ t, exec (.negotiateAlgorithms p true true c g) s = .next t ∧ t.spdm p = { s.spdm p with algorithms := true, sessions := c && g } ∧
      t.out = .response "SPDM" 0 [BitVec.ofNat 8 (b2n c), BitVec.ofNat 8 (b2n g)] :: s.out ∧ Kept [.io, .out] s t) ∧
  (∀ (p : SpdmPort) (r h c g : Bool) (s : State), s.spdmReaches p = true → (s.spdm p).capabilities = true → (r && h) = false →
    ∃ t, exec (.negotiateAlgorithms p r h c g) s = .next t ∧ t.io = s.io ∧ t.out.head? = some (.response "SPDM" 7 []) ∧
      t.log.seq = s.log.seq + 1 ∧ Kept logAreas s t) ∧
  (∀ (p : SpdmPort) (s : State), s.spdmReaches p = true → (s.spdm p).algorithms = true →
    ∃ t, exec (.getDigests p) s = .next t ∧ t.out = .response "SPDM" 0 (digestBytes (sha256 (s.chain 0)) ++
      digestBytes (sha256 (s.chain 1))) :: s.out ∧ Kept [.out] s t) ∧
  (∀ (p : SpdmPort) (k : BitVec 8) (s : State), s.spdmReaches p = true → (s.spdm p).algorithms = true →
    ∃ t, exec (.getCertificate p k) s = .next t ∧ t.out = (if k.toNat < 2 then
      .response "SPDM" 0 (s.chain k.toNat) else .response "SPDM" 1 []) :: s.out ∧ Kept [.out] s t) ∧
  (∀ (p : SpdmPort) (k : BitVec 8) (n : BitVec 256) (s : State), s.spdmReaches p = true → (s.spdm p).algorithms = true → k.toNat < 2 →
    ∃ t b r, exec (.challenge p k n) s = .next t ∧ b = digestBytes (sha256 (s.chain k.toNat)) ++ r ∧
      r.length = 32 ∧ t.out = .response "SPDM" 0 (b ++ s.signed k.toNat (natLe n.toNat 32 ++ b)) :: s.out ∧ Kept [.out] s t) ∧
  (∀ (p : SpdmPort) (k : BitVec 8) (n : BitVec 256) (s : State), s.spdmReaches p = true → (s.spdm p).algorithms = true →
    1 ≤ k.toNat → k.toNat ≤ 10 →
    ∃ t b r, exec (.getMeasurements p k n) s = .next t ∧ b = 1#8 :: natLe (s.measured (k.toNat - 1)) 32 ++ r ∧ r.length = 32 ∧
      t.out = .response "SPDM" 0 (b ++ s.signed 1 (natLe n.toNat 32 ++ b)) :: s.out ∧ Kept [.out] s t) ∧
  (∀ (p : SpdmPort) (k : BitVec 8) (n : BitVec 256) (s : State), s.spdmReaches p = true → (s.spdm p).algorithms = true →
    10 < k.toNat → k.toNat < 255 →
    exec (.getMeasurements p k n) s = .next (s.send (.response "SPDM" 1 []))) ∧
  (∀ (f : Func) (k : BitVec 8) (key : Nat) (s : State), s.spdmReaches (.doe f) = true → (s.spdm (.doe f)).algorithms = true →
    (s.spdm (.doe f)).sessions = true → k.toNat < 2 →
    ∃ t pl, exec (.keyExchange (.doe f) k key) s = .next t ∧ (t.spdm (.doe f)).session.isSome = true ∧
      (t.spdm (.doe f)).finished = false ∧ t.out = .response "SPDM" 0 pl :: s.out ∧ Kept [.io, .out] s t) ∧
  (∀ (p : SpdmPort) (k : BitVec 8) (key : Nat) (s : State), s.spdmReaches p = true → (s.spdm p).algorithms = true →
    p = .mctp ∨ (s.spdm p).sessions = false →
    ∃ t, exec (.keyExchange p k key) s = .next t ∧ t.io = s.io ∧ t.out.head? = some (.response "SPDM" 7 []) ∧
      t.log.seq = s.log.seq + 1 ∧ Kept logAreas s t) ∧
  (∀ (f : Func) (v : Bool) (s : State), s.spdmReaches (.doe f) = true → (s.spdm (.doe f)).session.isSome = true →
    ∃ t, exec (.finish (.doe f) v) s = .next t ∧ (t.spdm (.doe f)).finished = v ∧
      (v = true → (t.spdm (.doe f)).session = (s.spdm (.doe f)).session) ∧ (v = false → (t.spdm (.doe f)).session = none) ∧
      Kept [.io, .out] s t) ∧
  (∀ (f : Func) (s : State), s.spdmReaches (.doe f) = true → (s.spdm (.doe f)).finished = true →
    ∃ t, exec (.endSession (.doe f)) s = .next t ∧ t.spdm (.doe f) = { s.spdm (.doe f) with session := none, finished := false } ∧
      t.out = .response "SPDM" 0 [] :: s.out ∧ Kept [.io, .out] s t) ∧
  (∀ (v : Bool) (c : Instr) (s : State), c ∈ [.finish .mctp v, .endSession .mctp] →
    s.spdmReaches .mctp = true →
    ∃ t, exec c s = .next t ∧ t.io = s.io ∧ t.out.head? = some (.response "SPDM" 7 []) ∧ t.log.seq = s.log.seq + 1) ∧
  (∀ (p : SpdmPort) (r h c g : Bool) (k : BitVec 8) (n : BitVec 256) (key : Nat) (i : Instr) (s : State),
    i ∈ [.getCapabilities p, .negotiateAlgorithms p r h c g, .getDigests p, .getCertificate p k, .challenge p k n,
      .getMeasurements p k n, .keyExchange p k key] → s.spdmReaches p = true → s.spdm p = {} →
    exec i s = .next (s.send (.response "SPDM" 4 []))) ∧
  (∀ (p : SpdmPort) (o : Option (BitVec 8)) (r h c g v : Bool) (k : BitVec 8) (n : BitVec 256) (key : Nat) (i : Instr) (s : State),
    i ∈ [.getVersion ⟨p, o⟩, .getCapabilities p, .negotiateAlgorithms p r h c g, .getDigests p, .getCertificate p k, .challenge p k n,
      .getMeasurements p k n, .keyExchange p k key, .finish p v, .endSession p] → s.spdmReaches p = false →
    exec i s = .next s) ∧
  (∀ (f : Func) (i : Fin 4) (key : BitVec 256) (lo hi : Nat) (s : State), s.spdmReaches (.doe f) = true →
    (s.spdm (.doe f)).finished = true → sget none s.io.streams (4 * f.val + i.val) = none →
    ∃ t, exec (.ideKmRequest f i (.program key lo hi)) s = .next t ∧
      sget none t.io.streams (4 * f.val + i.val) = some (IdeStream.mk key lo hi false) ∧
      (∀ n, n ≠ 4 * f.val + i.val → sget none t.io.streams n = sget none s.io.streams n) ∧
      t.flag (Off.hifFuncStat f.val) (56 + i.val) = false ∧ Kept [.regs, .io, .out] s t ∧ RegsKept [Off.hifFuncStat f.val] s t) ∧
  (∀ (f : Func) (i : Fin 4) (e : IdeStream) (s : State), s.spdmReaches (.doe f) = true →
    (s.spdm (.doe f)).finished = true → sget none s.io.streams (4 * f.val + i.val) = some e →
    ∃ t u, exec (.ideKmRequest f i .go) s = .next t ∧ exec (.ideKmRequest f i .stop) s = .next u ∧
      sget none t.io.streams (4 * f.val + i.val) = some { e with secure := true } ∧
      sget none u.io.streams (4 * f.val + i.val) = some { e with secure := false } ∧
      t.flag (Off.hifFuncStat f.val) (56 + i.val) = true ∧ u.flag (Off.hifFuncStat f.val) (56 + i.val) = false ∧
      Kept [.regs, .io, .out] s t ∧ Kept [.regs, .io, .out] s u ∧ RegsKept [Off.hifFuncStat f.val] s t ∧
      RegsKept [Off.hifFuncStat f.val] s u) ∧
  (∀ (f : Func) (i : Fin 4) (s : State), s.spdmReaches (.doe f) = true → (s.spdm (.doe f)).finished = true →
    ∃ t, exec (.ideKmRequest f i .unlisted) s = .next t ∧ t.io = s.io ∧ t.out.head? = some (.response "IDE_KM" 1 []) ∧
      t.log.seq = s.log.seq + 1 ∧ Kept logAreas s t) ∧
  (∀ (f : Func) (i : Fin 4) (k : IdeKm) (s : State), s.spdmReaches (.doe f) = true → (s.spdm (.doe f)).finished = false →
    exec (.ideKmRequest f i k) s = .next (s.send (.response "SPDM" 4 []))) ∧
  (∀ (f : Func) (i : Fin 4) (k : IdeKm) (s : State), s.spdmReaches (.doe f) = false → exec (.ideKmRequest f i k) s = .next s) ∧
  (∀ (a : BitVec 7) (s : State), s.pwr.aux = true → s.fw.i3c = none →
    ∃ t, exec (.dynamicAddressAssignment .entdaa a) s = .next t ∧ t.fw = { s.fw with i3c := some a } ∧ Kept [.fw] s t) ∧
  (∀ (b a : BitVec 7) (s : State), s.pwr.aux = true → b.toNat = 0x30 + s.fw.traySlot.toNat →
    ∃ t, exec (.dynamicAddressAssignment (.setdasa b) a) s = .next t ∧ t.fw = { s.fw with i3c := some a } ∧ Kept [.fw] s t) ∧
  (∀ (b a : BitVec 7) (s : State), s.pwr.aux = false ∨ b.toNat ≠ 0x30 + s.fw.traySlot.toNat →
    exec (.dynamicAddressAssignment (.setdasa b) a) s = .next s) ∧
  (∀ (a : BitVec 7) (s : State), s.pwr.aux = true →
    ∃ t, exec (.dynamicAddressAssignment .unlisted a) s = .next t ∧ t.fw = s.fw ∧ t.out.head? = some (.response "I3C" 1 []) ∧
      t.log.seq = s.log.seq + 1 ∧ Kept logAreas s t) ∧
  (∀ (o e : Byte) (s : State), s.pwr.aux = true → e ≠ 0 → e ≠ 0xFF →
    ∃ t, exec (.mctpControlMessage (.control 1) [o, e]) s = .next t ∧ t.fw = { s.fw with eid := e } ∧
      t.out = .response "MCTP" 0 [0, e, 0] :: s.out ∧ Kept [.fw, .out] s t) ∧
  (∀ (data : List Byte) (s : State), s.pwr.aux = true →
    exec (.mctpControlMessage (.control 2) data) s = .next (s.send (.response "MCTP" 0 [s.fw.eid]))) ∧
  (∀ (b c : BitVec 8) (data : List Byte) (g : MctpMessage) (s : State), s.pwr.aux = true → g = .unlisted b ∨ (g = .control c ∧ (6 ≤ c.toNat ∨ c = 0)) →
    ∃ t, exec (.mctpControlMessage g data) s = .next t ∧ t.fw = s.fw ∧ t.out.head? = some (.response "MCTP" 5 []) ∧
      t.log.seq = s.log.seq + 1 ∧ Kept logAreas s t) ∧
  (∀ (c : MctpMessage) (data : List Byte) (s : State), s.pwr.aux = false → exec (.mctpControlMessage c data) s = .next s)

/-- A log entry takes the next sequence number, with the frame number under lock; an enabled trace point writes one, and the host's
consumption of its ring lets a gap entry follow what was lost (14 R310-R315). -/
def Obligations.TheLog : Prop :=
  (∀ (a : LogArgs) (s : State), s.pwr.aux = true →
    ∃ t, exec (.logEntry a) s = .next t ∧ t.log.seq = s.log.seq + 1 ∧
      t.log.mem = (⟨s.log.seq, if s.clk.lock then s.clk.frame else s.clk.now / 25600, s.clk.lock, a⟩ :: s.log.mem).take 1048576 ∧
      Kept logAreas s t ∧ RegsKept logRegs s t) ∧
  (∀ (a : LogArgs) (s : State), s.pwr.aux = true → a.fm = false → s.flag Off.fwlLogCfg 31 = false →
    ∃ t, exec (.logEntry a) s = .next t ∧ t.regs = s.regs ∧ t.mem = s.mem ∧ t.out = s.out) ∧
  (∀ (a : LogArgs) (s : State), s.pwr.aux = true → a.fm = true → s.mayWarn = true →
    ∃ t p, exec (.logEntry a) s = .next t ∧ t.out = .towpath 0x0040 p :: s.out ∧
      t.log.warned = (s.clk.now :: s.log.warned).take 100) ∧
  (∀ (a : LogArgs) (w : Nat) (s : State), s.pwr.aux = true → a.fm = true → s.log.warned[99]? = some w →
    s.clk.now < w + 1000000000000 →
    ∃ t, exec (.logEntry a) s = .next t ∧ t.out = s.out ∧ t.log.warned = s.log.warned ∧
      t.field Off.fwlLogStat 47 32 = min (s.field Off.fwlLogStat 47 32 + 1) 65535) ∧
  (∀ (a : LogArgs) (n : Nat) (s : State), s.pwr.aux = true → s.flag Off.fwlLogCfg 31 = true → 1 ≤ a.severity.toNat →
    a.severity.toNat ≤ 5 → s.field Off.fwlLogCfg 10 8 ≤ a.severity.toNat → s.log.held = [] → s.log.gap = none →
    s.hostUp 0 = true → s.ideHolds 0 (s.field Off.fwlLogBase 63 12 * 4096) = false → s.logRingFull s.log.seq = false →
    n = s.field Off.fwlLogBase 63 12 * 4096 + 64 * (s.log.seq.toNat % 2 ^ s.logRingLog) →
    ∃ t r, exec (.logEntry a) s = .next t ∧ t.log.mem.head? = some r ∧ t.mem.host.bytes n 64 = r.bytes ∧
      (∀ b, b < n ∨ n + 64 ≤ b → t.mem.host.byte b = s.mem.host.byte b) ∧
      t.field Off.fwlLogPos 63 32 = (s.log.seq.toNat + 1) % 2 ^ 32) ∧
  (∀ (a : LogArgs) (s : State), s.pwr.aux = true → s.flag Off.fwlLogCfg 31 = true → a.severity.toNat = 5 → s.hostUp 0 = false →
    ∃ t r, exec (.logEntry a) s = .next t ∧ t.log.mem.head? = some r ∧ t.log.held = s.log.held ++ [r] ∧ t.mem = s.mem ∧
      t.log.gap = s.log.gap) ∧
  (∀ (a : LogArgs) (s : State), s.pwr.aux = false → exec (.logEntry a) s = .next s) ∧
  (∀ (v : Word) (s : State), s.barOpen = true → s.log.gap = none →
    ∃ t, exec (.logHeadWrite 0 v) s = .next t ∧ t.field Off.fwlLogPos 31 0 = v.toNat % 2 ^ 32 ∧
      t.field Off.fwlLogPos 63 32 = s.field Off.fwlLogPos 63 32 ∧ Kept [.regs] s t ∧ RegsKept [Off.fwlLogPos] s t) ∧
  (∀ (v : Word) (q : BitVec 32) (k n : Nat) (s : State), s.barOpen = true → s.log.gap = some (q, k) → s.log.held = [] →
    s.flag Off.fwlLogCfg 31 = true → s.hostUp 0 = true → s.ideHolds 0 (s.field Off.fwlLogBase 63 12 * 4096) = false →
    (s.setField Off.fwlLogPos 31 0 (v.toNat % 2 ^ 32)).logRingFull s.log.seq = false →
    n = s.field Off.fwlLogBase 63 12 * 4096 + 64 * (s.log.seq.toNat % 2 ^ s.logRingLog) →
    ∃ t r, exec (.logHeadWrite 0 v) s = .next t ∧ t.log.seq = s.log.seq + 1 ∧ t.log.gap = none ∧ t.log.mem.head? = some r ∧
      r.args.code = 0x0F01 ∧ r.args.args = [q.setWidth 64, BitVec.ofNat 64 k] ∧ t.mem.host.bytes n 64 = r.bytes ∧
      t.field Off.fwlLogPos 63 32 = (s.log.seq.toNat + 1) % 2 ^ 32 ∧ Kept logAreas s t) ∧
  (∀ (f : Func) (v : Word) (s : State), s.barOpen = true → f.val ≠ 0 →
    exec (.logHeadWrite f v) s = .next (s.ignored f.val Off.fwlLogPos v.toNat)) ∧
  (∀ (f : Func) (v : Word) (s : State), s.barOpen = false → exec (.logHeadWrite f v) s = .next s) ∧
  (∀ (n : Fin 4096) (as : List Word) (s : State), s.pwr.aux = true → traceExists n.val = true →
    s.flag (Off.fwlTraceEn (n.val / 32)) (n.val % 32) = true →
    ∃ t r, exec (.tracePoint n as) s = .next t ∧ t.log.seq = s.log.seq + 1 ∧ t.log.mem.head? = some r ∧ r.seq = s.log.seq ∧
      r.args.code.toNat = 0xF000 + n.val ∧ r.args.severity = 0 ∧ r.args.args = as ∧ Kept logAreas s t ∧ RegsKept logRegs s t) ∧
  (∀ (n : Fin 4096) (as : List Word) (s : State), s.pwr.aux = false ∨ traceExists n.val = false ∨
      s.flag (Off.fwlTraceEn (n.val / 32)) (n.val % 32) = false → exec (.tracePoint n as) s = .next s)

/-- A write of a set-up register changes its RW bits and clears the W1C bits written 1, a setting of the data plane from the next frame on;
reserved bits written 1 are ignored and logged; a write of another size, to a read-only register, by a function that may not write it,
or to a boot-locked register under the lock is ignored whole and logged; the lock, once set, stays. A spill area that would meet the other of its comb die, or whose old area holds spilled flits, is not written
(00 R2; 01 R19; 12 R245; 17 R359, R361; 18 R364-R367, R371). -/
def Obligations.RegisterWrites : Prop :=
  (∀ (f : Func) (o : BitVec 26) (b : Nat) (v : Word) (s : State), s.barOpen = true → isMsix o.toNat = false → regAt o.toNat = none →
    exec (.registerWrite f o b v) s = .next (s.ignored f.val o.toNat (if b = 8 then v.toNat else v.toNat % 2 ^ 32))) ∧
  (∀ (f : Func) (o : BitVec 26) (b i j : Nat) (v : Word) (r : RegRow) (s : State), s.barOpen = true → isMsix o.toNat = false →
    regAt o.toNat = some (r, i, j) →
    b ≠ r.bytes ∨ r.access = .ro ∨ (r.access = .bl ∧ s.locked = true) ∨ s.mayWrite f.val r.writer i j = false →
    exec (.registerWrite f o b v) s = .next (s.ignored f.val o.toNat (if b = 8 then v.toNat else v.toNat % 2 ^ 32))) ∧
  (∀ (f : Func) (o : BitVec 26) (b i j : Nat) (v : Word) (r : RegRow) (s : State), s.barOpen = true → isMsix o.toNat = false →
    regAt o.toNat = some (r, i, j) → b = r.bytes → r.access ≠ .ro → (r.access = .bl → s.locked = false) →
    s.mayWrite f.val r.writer i j = true →
    r.reg ∈ [.secFuncPerm, .secCtxFunc, .secCtxMem, .secCtxHives, .secCtxLayers, .thmTjCfg, .ctxIrqCfg, .ctxHbCfg] ∨
      (r.reg = .secCtxSlots ∧ j < 4) →
    ∃ t, exec (.registerWrite f o b v) s = .next t ∧
      t.reg o.toNat = maskedWrite r.rw r.w1c (s.reg o.toNat) (if b = 8 then v.toNat else v.toNat % 2 ^ 32) % 2 ^ 64 ∧
      ((if b = 8 then v.toNat else v.toNat % 2 ^ 32) &&& r.reserved = 0 → Kept [.regs] s t ∧ RegsKept [o.toNat] s t) ∧
      ((if b = 8 then v.toNat else v.toNat % 2 ^ 32) &&& r.reserved ≠ 0 → t.log.seq = s.log.seq + 1 ∧ Kept logAreas s t ∧
        RegsKept (o.toNat :: logRegs) s t)) ∧
  (∀ (f : Func) (o : BitVec 26) (b i j : Nat) (v : Word) (r : RegRow) (s : State), s.barOpen = true → isMsix o.toNat = false →
    regAt o.toNat = some (r, i, j) → b = r.bytes → r.access ≠ .ro → (r.access = .bl → s.locked = false) →
    s.mayWrite f.val r.writer i j = true →
    r.reg ∈ [.numMonCtrl, .numStillCtrl, .numRotCtrl, .numOvfTrig, .numFreezeCtrl, .numLayerCfg, .lnkRoute] →
    ∃ t, exec (.registerWrite f o b v) s = .next t ∧
      t.staged = sput none s.staged o.toNat (some (BitVec.ofNat 64
        (maskedWrite r.rw 0 (s.reg o.toNat) (if b = 8 then v.toNat else v.toNat % 2 ^ 32)))) ∧
      ((if b = 8 then v.toNat else v.toNat % 2 ^ 32) &&& r.reserved = 0 → Kept [.staged] s t) ∧
      ((if b = 8 then v.toNat else v.toNat % 2 ^ 32) &&& r.reserved ≠ 0 → t.log.seq = s.log.seq + 1 ∧
        Kept (.staged :: logAreas) s t ∧ RegsKept logRegs s t)) ∧
  (∀ (f : Func) (o : BitVec 26) (b : Nat) (v : Word) (s : State), s.barOpen = false →
    exec (.registerWrite f o b v) s = .next s ∧ exec (.errorCountClear f o v) s = .next s ∧ exec (.protLock f v) s = .next s) ∧
  (∀ (f : Func) (o : BitVec 26) (v : Word) (s : State), s.barOpen = true → isErrStat o.toNat = true →
    v.toNat.testBit 63 = true →
    ∃ t, exec (.errorCountClear f o v) s = .next t ∧ t.reg o.toNat = 0 ∧
      (∀ p, p < 16 → o.toNat = Off.lnkErrStat p → (t.port p).corr = []) ∧ Kept (.lnk :: logAreas) s t ∧
      RegsKept (o.toNat :: logRegs) s t ∧ (v.toNat = 2 ^ 63 → Kept [.regs, .lnk] s t ∧ RegsKept [o.toNat] s t)) ∧
  (∀ (f : Func) (o : BitVec 26) (v : Word) (s : State), s.barOpen = true → isErrStat o.toNat = false →
    exec (.errorCountClear f o v) s = .next s) ∧
  (∀ (f : Func) (v : Word) (s : State), s.barOpen = true → v.toNat.testBit 0 = true → bits v.toNat 31 1 = 0 →
    ∃ t, exec (.protLock f v) s = .next t ∧ t.locked = true ∧ t.flag Off.hifModuleStat 15 = true ∧ Kept [.regs] s t ∧
      RegsKept [Off.secProtLock, Off.hifModuleStat] s t) ∧
  (∀ (f : Func) (v : Word) (s : State), s.barOpen = true → v.toNat.testBit 0 = true → bits v.toNat 31 1 ≠ 0 →
    ∃ t, exec (.protLock f v) s = .next t ∧ t.locked = true ∧ t.flag Off.hifModuleStat 15 = true ∧ t.log.seq = s.log.seq + 1 ∧
      Kept logAreas s t ∧ RegsKept ([Off.secProtLock, Off.hifModuleStat] ++ logRegs) s t) ∧
  (∀ (f : Func) (v : Word) (s : State), s.barOpen = true → v.toNat.testBit 0 = false → bits v.toNat 31 1 = 0 → exec (.protLock f v) s = .next s) ∧
  (∀ (f : Func) (p : Sector) (v : Word) (w : Nat) (s : State), s.barOpen = true → w = v.toNat % 2 ^ 32 →
    extentsMeet (bits w 9 0, bits w 26 16) (s.field (Off.canSpill p.val) 9 0, s.field (Off.canSpill p.val) 26 16) = true ∨
      s.holdsSpill true p.val = true →
    exec (.registerWrite f (BitVec.ofNat 26 (Off.lnkSpill p.val)) 4 v) s = .next (s.ignored f.val (Off.lnkSpill p.val) w)) ∧
  (∀ (f : Func) (p : Sector) (v : Word) (w : Nat) (s : State), s.barOpen = true → w = v.toNat % 2 ^ 32 →
    extentsMeet (bits w 9 0, bits w 26 16) (s.field (Off.lnkSpill p.val) 9 0, s.field (Off.lnkSpill p.val) 26 16) = true ∨
      s.holdsSpill false p.val = true →
    exec (.registerWrite f (BitVec.ofNat 26 (Off.canSpill p.val)) 4 v) s = .next (s.ignored f.val (Off.canSpill p.val) w))

/-- A step takes the command at the front of the queue: it is the command's effect on the state with the queue's rest. With nothing
waiting, one frame's time passes, and at its end the settings written take effect (01 R19); nothing else changes but what the log held
for the host's return (14 R312): the tick is the model's choice, log 2. -/
def Obligations.StepTakesTheFrontCommand : Prop :=
  (∀ (c : Instr) (r : List Instr) (s : State), s.pending = c :: r → step s = exec c { s with pending := r }) ∧
  (∀ (s : State), s.pending = [] →
    ∃ t, step s = .next t ∧ t.clk.now = s.clk.now + 25600 ∧
      t.clk.frame = (if s.clk.lock then s.clk.frame + 1 else s.clk.frame) ∧ t.clk.lock = s.clk.lock ∧ t.staged = [] ∧
      Kept [.clock, .regs, .staged, .host, .log] s t ∧ (s.staged = [] → RegsKept logRegs s t) ∧
      (s.log.held = [] → t.mem.host = s.mem.host ∧ t.log = s.log) ∧ (s.staged = [] → s.log.held = [] → Kept [.clock] s t)) ∧
  (∀ (o : Nat) (v : Word) (s : State), s.pending = [] → s.staged = [(o, some v)] → s.log.held = [] →
    ∃ t, step s = .next t ∧ t.reg o = v.toNat ∧ RegsKept [o] s t ∧ Kept [.clock, .regs, .staged] s t)

/-- After a reset nothing waits, nothing was sent, every register holds the value that its field table gives it, device memory lists
nothing, and every context, hive, stack, counter and port is at rest; what is listed is in canonical form (14 R291; 18 R365, Tables 18-3
to 18-14). The values of registers whose reset the spec gives no number are the model's, log 6. -/
def Obligations.ResetState : Prop :=
  State.reset.pending = [] ∧ State.reset.out = [] ∧ State.reset.Inv ∧
  (∀ o, State.reset.reg o = regReset o % 2 ^ 64) ∧
  (∀ a, State.reset.mem.dev.byte a = 0) ∧
  (∀ x, State.reset.ctx x = {}) ∧ (∀ h, State.reset.hiveSt h = {}) ∧ (∀ n, State.reset.stk n = {}) ∧
  State.reset.sync.counters = [] ∧ State.reset.sync.barriers = [] ∧ State.reset.clk.lock = false ∧ State.reset.layers = [] ∧
  State.reset.lnk.ports = []

/-- Every step answers a next state, takes exactly one command from the queue, and keeps the invariant: both memories and the register
map stay in canonical form. -/
def Obligations.EveryStepAnswersAndKeepsInv : Prop :=
  ∀ s : State, ∃ t, step s = .next t ∧ t.pending = s.pending.tail ∧ (s.Inv → t.Inv)

/-- No step unblows a fuse: a revoked key stays revoked and key 3 is not revoked, no minimum security version falls, the owner's policy is
written once, and the root key hashes and the serial number never change (17 R351, Table 17-1). -/
def Obligations.FusesHoldOverEveryStep : Prop :=
  ∀ s t : State, step s = .next t → FusesHold s.fw.fuses t.fw.fuses
end

