-- ==== Sys2Proof/Laws/Bits.lean ====
section
/-! SUPPORT. Fields of a register's value: what a field reads after a field is written. -/

namespace Sys2Proof.Machine

/-- A number with a field replaced, by its three parts: above, the field, below. -/
theorem setBits_parts (v lo w x : Nat) (hw : 0 < w) :
    setBits v (lo + w - 1) lo x = 2 ^ (lo + w) * (v / 2 ^ (lo + w)) + (2 ^ lo * (x % 2 ^ w) + v % 2 ^ lo) := by
  have hv := Nat.div_add_mod v (2 ^ lo)
  have hq := Nat.div_add_mod (v / 2 ^ lo) (2 ^ w)
  have hd : v / 2 ^ (lo + w) = v / 2 ^ lo / 2 ^ w := by rw [Nat.pow_add, Nat.div_div_eq_div_mul]
  have e := congrArg (2 ^ lo * ·) hq
  simp only [Nat.mul_add] at e
  rw [← Nat.mul_assoc] at e
  have hsub : lo + w - 1 + 1 - lo = w := by omega
  simp only [setBits, bits, hsub, hd]
  rw [Nat.pow_add, Nat.mul_comm (v / 2 ^ lo % 2 ^ w), Nat.mul_comm (x % 2 ^ w)]
  omega

/-- Bit `i` of a number with a field replaced. -/
theorem testBit_setBits (v hi lo x i : Nat) (h : lo ≤ hi) :
    (setBits v hi lo x).testBit i = if lo ≤ i ∧ i ≤ hi then x.testBit (i - lo) else v.testBit i := by
  have hlt : 2 ^ lo * (x % 2 ^ (hi + 1 - lo)) + v % 2 ^ lo < 2 ^ (lo + (hi + 1 - lo)) := by
    have h1 : x % 2 ^ (hi + 1 - lo) < 2 ^ (hi + 1 - lo) := Nat.mod_lt _ (Nat.two_pow_pos _)
    have h2 : v % 2 ^ lo < 2 ^ lo := Nat.mod_lt _ (Nat.two_pow_pos _)
    have h3 := Nat.mul_le_mul_left (2 ^ lo) (Nat.succ_le_of_lt h1)
    rw [Nat.pow_add]
    have h4 : 2 ^ lo * (x % 2 ^ (hi + 1 - lo)).succ = 2 ^ lo * (x % 2 ^ (hi + 1 - lo)) + 2 ^ lo := Nat.mul_succ ..
    omega
  have hhi : hi = lo + (hi + 1 - lo) - 1 := by omega
  have hp := setBits_parts v lo (hi + 1 - lo) x (by omega)
  rw [← hhi] at hp
  rw [hp, Nat.testBit_two_pow_mul_add _ hlt, Nat.testBit_two_pow_mul_add _ (Nat.mod_lt _ (Nat.two_pow_pos _))]
  by_cases h1 : i < lo
  · have h2 : i < lo + (hi + 1 - lo) := by omega
    simp [h1, h2, show ¬(lo ≤ i ∧ i ≤ hi) by omega]
  · by_cases h2 : i ≤ hi
    · simp [h1, show i < lo + (hi + 1 - lo) by omega, show lo ≤ i ∧ i ≤ hi by omega, show i - lo < hi + 1 - lo by omega]
    · simp [show ¬ i < lo + (hi + 1 - lo) by omega, h2, Nat.testBit_div_two_pow,
        show i - (lo + (hi + 1 - lo)) + (lo + (hi + 1 - lo)) = i by omega]

/-- Bit `i` of a field. -/
theorem testBit_bits (v hi lo i : Nat) : (bits v hi lo).testBit i = (decide (i < hi + 1 - lo) && v.testBit (lo + i)) := by
  simp [bits, Nat.testBit_mod_two_pow, Nat.testBit_div_two_pow, Nat.add_comm]

/-- A field that is written reads the value, cut to its width. -/
theorem bits_setBits_self (v hi lo x : Nat) (h : lo ≤ hi) : bits (setBits v hi lo x) hi lo = x % 2 ^ (hi + 1 - lo) := by
  apply Nat.eq_of_testBit_eq
  intro i
  rw [testBit_bits, testBit_setBits _ _ _ _ _ h, Nat.testBit_mod_two_pow]
  by_cases hi' : i < hi + 1 - lo
  · simp [hi', show lo + i ≤ hi by omega]
  · simp [hi']

/-- A field apart from the one written reads as before. -/
theorem bits_setBits_apart (v hi lo x hi' lo' : Nat) (h : lo ≤ hi) (ha : hi' < lo ∨ hi < lo') :
    bits (setBits v hi lo x) hi' lo' = bits v hi' lo' := by
  apply Nat.eq_of_testBit_eq
  intro i
  rw [testBit_bits, testBit_bits, testBit_setBits _ _ _ _ _ h]
  by_cases hi' : i < hi' + 1 - lo'
  · simp [show ¬(lo ≤ lo' + i ∧ lo' + i ≤ hi) by omega]
  · simp [hi']

/-- A number of 64 bits stays one when a field within 64 bits is replaced. -/
theorem setBits_lt (v hi lo x : Nat) (h : lo ≤ hi) (hh : hi < 64) (hv : v < 2 ^ 64) : setBits v hi lo x < 2 ^ 64 := by
  apply Nat.lt_pow_two_of_testBit
  intro i hi'
  rw [testBit_setBits _ _ _ _ _ h]
  have : ¬(lo ≤ i ∧ i ≤ hi) := by omega
  simp only [this, if_false]
  exact Nat.testBit_lt_two_pow (Nat.lt_of_lt_of_le hv (Nat.pow_le_pow_right (by omega) hi'))

end Sys2Proof.Machine
end

