-- ==== Sys2Proof/Laws/Sparse.lean ====
section
/-! SUPPORT. Sparse maps and byte memories: what a read gives after a write, and that writes keep the canonical form. -/

namespace Sys2Proof.Machine

variable {α : Type}

/-! ### Reads after writes -/

@[simp] theorem sget_nil (d : α) (n : Nat) : sget d [] n = d := rfl

theorem sget_sdel_self (d : α) (m : List (Nat × α)) (n : Nat) : sget d (sdel m n) n = d := by
  induction m with
  | nil => rfl
  | cons e r ih =>
    obtain ⟨k, v⟩ := e
    by_cases h : k = n <;> simp [sdel, sget, h, ih]

theorem sget_sdel_ne (d : α) (m : List (Nat × α)) {n k : Nat} (h : k ≠ n) : sget d (sdel m n) k = sget d m k := by
  induction m with
  | nil => rfl
  | cons e r ih =>
    obtain ⟨j, v⟩ := e
    by_cases hj : j = n
    · have : j ≠ k := fun e => h (e ▸ hj)
      simp [sdel, sget, hj, ih, Ne.symm h]
    · simp only [sdel, hj, if_false, sget, ih]

theorem sget_sins_self (d : α) (m : List (Nat × α)) (n : Nat) (v : α) (h : sget d m n = d) (hn : ∀ e ∈ m, e.1 ≠ n) :
    sget d (sins m n v) n = v := by
  induction m with
  | nil => simp [sins, sget]
  | cons e r ih =>
    obtain ⟨k, w⟩ := e
    have hk : k ≠ n := hn (k, w) (List.mem_cons_self ..)
    have hr : sget d r n = d := by simpa [sget, hk] using h
    by_cases hl : n < k
    · simp [sins, hl, sget]
    · simp [sins, hl, sget, hk, ih hr (fun e he => hn e (List.mem_cons_of_mem _ he))]

theorem sget_sins_ne (d : α) (m : List (Nat × α)) {n k : Nat} (v : α) (h : k ≠ n) : sget d (sins m n v) k = sget d m k := by
  induction m with
  | nil => simp [sins, sget, Ne.symm h]
  | cons e r ih =>
    obtain ⟨j, w⟩ := e
    by_cases hl : n < j
    · simp [sins, hl, sget, Ne.symm h]
    · simp only [sins, hl, if_false, sget, ih]

theorem not_mem_sdel (m : List (Nat × α)) (n : Nat) : ∀ e ∈ sdel m n, e.1 ≠ n := by
  induction m with
  | nil => simp [sdel]
  | cons e r ih =>
    obtain ⟨k, v⟩ := e
    by_cases h : k = n
    · simpa [sdel, h] using ih
    · intro e he
      rcases (by simpa [sdel, h] using he : e = (k, v) ∨ e ∈ sdel r n) with rfl | he
      · exact h
      · exact ih e he

/-- A read of the key written gives the value written. -/
@[simp] theorem sget_sput_self [DecidableEq α] (d : α) (m : List (Nat × α)) (n : Nat) (v : α) :
    sget d (sput d m n v) n = v := by
  unfold sput
  split
  · next h => rw [sget_sdel_self, h]
  · exact sget_sins_self d _ n v (sget_sdel_self d m n) (not_mem_sdel m n)

/-- A read of another key gives what it gave before. -/
theorem sget_sput_ne [DecidableEq α] (d : α) (m : List (Nat × α)) {n k : Nat} (v : α) (h : k ≠ n) :
    sget d (sput d m n v) k = sget d m k := by
  unfold sput
  split
  · exact sget_sdel_ne d m h
  · rw [sget_sins_ne d _ v h, sget_sdel_ne d m h]

/-- Reading with one default a map whose entries are written with another. -/
theorem sget_sput_ne' [DecidableEq α] (d d' : α) (m : List (Nat × α)) {n k : Nat} (v : α) (h : k ≠ n) :
    sget d' (sput d m n v) k = sget d' m k := by
  unfold sput
  split
  · exact sget_sdel_ne d' m h
  · rw [sget_sins_ne d' _ v h, sget_sdel_ne d' m h]

/-- A read after a write, by case. -/
theorem sget_sput [DecidableEq α] (d : α) (m : List (Nat × α)) (n k : Nat) (v : α) :
    sget d (sput d m n v) k = if k = n then v else sget d m k := by
  split
  · next h => rw [h, sget_sput_self]
  · next h => exact sget_sput_ne d m v h

/-- A read after an update, by case. -/
theorem sget_smod [DecidableEq α] (d : α) (m : List (Nat × α)) (n k : Nat) (f : α → α) :
    sget d (smod d m n f) k = if k = n then f (sget d m n) else sget d m k := sget_sput d m n k _

@[simp] theorem sget_smod_self [DecidableEq α] (d : α) (m : List (Nat × α)) (n : Nat) (f : α → α) :
    sget d (smod d m n f) n = f (sget d m n) := sget_sput_self d m n _

/-! ### The canonical form -/

theorem srising_weaken {lo lo' : Option Nat} {m : List (Nat × α)} (h : srising lo m = true)
    (hl : ∀ l', lo' = some l' → ∃ l, lo = some l ∧ l' ≤ l) : srising lo' m = true := by
  cases m with
  | nil => rfl
  | cons e r =>
    obtain ⟨k, v⟩ := e
    simp only [srising, Bool.and_eq_true] at h ⊢
    refine ⟨?_, h.2⟩
    cases lo' with
    | none => rfl
    | some l' =>
      obtain ⟨l, rfl, hle⟩ := hl l' rfl
      have := h.1
      simp only [decide_eq_true_eq] at this ⊢
      omega

theorem srising_sdel {lo : Option Nat} {m : List (Nat × α)} (n : Nat) (h : srising lo m = true) :
    srising lo (sdel m n) = true := by
  induction m generalizing lo with
  | nil => rfl
  | cons e r ih =>
    obtain ⟨k, v⟩ := e
    simp only [srising, Bool.and_eq_true] at h
    by_cases hk : k = n
    · simp only [sdel, hk, if_true]
      refine ih (srising_weaken h.2 ?_)
      intro l' hl'
      subst hl'
      exact ⟨k, rfl, by have := h.1; simp only [decide_eq_true_eq] at this; omega⟩
    · simp only [sdel, hk, if_false, srising, Bool.and_eq_true]
      exact ⟨h.1, ih h.2⟩

theorem srising_sins {lo : Option Nat} {m : List (Nat × α)} {n : Nat} (v : α) (h : srising lo m = true)
    (hn : ∀ e ∈ m, e.1 ≠ n) (hlo : ∀ l, lo = some l → l < n) : srising lo (sins m n v) = true := by
  induction m generalizing lo with
  | nil =>
    cases lo with
    | none => rfl
    | some l => simpa [sins, srising] using hlo l rfl
  | cons e r ih =>
    obtain ⟨k, w⟩ := e
    have hk : k ≠ n := hn (k, w) (List.mem_cons_self ..)
    simp only [srising, Bool.and_eq_true] at h
    by_cases hl : n < k
    · simp only [sins, hl, if_true, srising, Bool.and_eq_true, decide_eq_true_eq]
      refine ⟨?_, trivial, h.2⟩
      cases lo with
      | none => rfl
      | some l => simpa using hlo l rfl
    · simp only [sins, hl, if_false, srising, Bool.and_eq_true]
      refine ⟨h.1, ih h.2 (fun e he => hn e (List.mem_cons_of_mem _ he)) ?_⟩
      intro l hl'
      cases hl'
      omega

theorem all_sdel (m : List (Nat × α)) (n : Nat) (p : Nat × α → Bool) (h : m.all p = true) : (sdel m n).all p = true := by
  induction m with
  | nil => rfl
  | cons e r ih =>
    obtain ⟨k, v⟩ := e
    simp only [List.all_cons, Bool.and_eq_true] at h
    by_cases hk : k = n
    · simpa [sdel, hk] using ih h.2
    · simp only [sdel, hk, if_false, List.all_cons, Bool.and_eq_true]
      exact ⟨h.1, ih h.2⟩

theorem all_sins (m : List (Nat × α)) (n : Nat) (v : α) (p : Nat × α → Bool) (h : m.all p = true) (hv : p (n, v) = true) :
    (sins m n v).all p = true := by
  induction m with
  | nil => simp [sins, hv]
  | cons e r ih =>
    obtain ⟨k, w⟩ := e
    by_cases hl : n < k
    · simp only [sins, hl, if_true, List.all_cons, Bool.and_eq_true] at *
      exact ⟨hv, h⟩
    · simp only [List.all_cons, Bool.and_eq_true] at h
      simp only [sins, hl, if_false, List.all_cons, Bool.and_eq_true]
      exact ⟨h.1, ih h.2⟩

/-- A write keeps the canonical form. -/
theorem swf_sput [DecidableEq α] (d : α) (m : List (Nat × α)) (n : Nat) (v : α) (h : swf d m = true) :
    swf d (sput d m n v) = true := by
  simp only [swf, Bool.and_eq_true] at h ⊢
  unfold sput
  split
  · exact ⟨srising_sdel n h.1, all_sdel m n _ h.2⟩
  · next hv =>
    exact ⟨srising_sins v (srising_sdel n h.1) (not_mem_sdel m n) (fun l hl => by cases hl),
      all_sins _ n v _ (all_sdel m n _ h.2) (by simpa using hv)⟩

/-- An update keeps the canonical form. -/
theorem swf_smod [DecidableEq α] (d : α) (m : List (Nat × α)) (n : Nat) (f : α → α) (h : swf d m = true) :
    swf d (smod d m n f) = true := swf_sput d m n _ h

theorem srising_filter {lo : Option Nat} {m : List (Nat × α)} (p : Nat × α → Bool) (h : srising lo m = true) :
    srising lo (m.filter p) = true := by
  induction m generalizing lo with
  | nil => rfl
  | cons e r ih =>
    obtain ⟨k, v⟩ := e
    simp only [srising, Bool.and_eq_true] at h
    by_cases hp : p (k, v) = true
    · simp only [List.filter_cons, hp, if_true, srising, Bool.and_eq_true]
      exact ⟨h.1, ih h.2⟩
    · simp only [List.filter_cons, hp]
      refine ih (srising_weaken h.2 ?_)
      intro l' hl'
      subst hl'
      exact ⟨k, rfl, by have := h.1; simp only [decide_eq_true_eq] at this; omega⟩

/-- Leaving entries out keeps the canonical form. -/
theorem swf_filter [DecidableEq α] (d : α) (m : List (Nat × α)) (p : Nat × α → Bool) (h : swf d m = true) :
    swf d (m.filter p) = true := by
  simp only [swf, Bool.and_eq_true] at h ⊢
  refine ⟨srising_filter p h.1, ?_⟩
  rw [List.all_eq_true] at h ⊢
  exact fun e he => h.2 e (List.mem_filter.mp he).1

/-! ### Memories -/

/-- A byte written reads back. -/
@[simp] theorem Memory.byte_setByte_self (m : Memory) (a : Nat) (b : Byte) : (m.setByte a b).byte a = b :=
  sget_sput_self 0 m a b

/-- A byte elsewhere reads as before. -/
theorem Memory.byte_setByte_ne (m : Memory) {a c : Nat} (b : Byte) (h : c ≠ a) : (m.setByte a b).byte c = m.byte c :=
  sget_sput_ne 0 m b h

/-- A byte outside a write reads as before. -/
theorem Memory.byte_setBytes_out (m : Memory) (a c : Nat) (bs : List Byte) (h : c < a ∨ a + bs.length ≤ c) :
    (m.setBytes a bs).byte c = m.byte c := by
  induction bs generalizing m a with
  | nil => rfl
  | cons b bs ih =>
    simp only [Memory.setBytes, List.length_cons] at h ⊢
    rw [ih _ _ (by omega), Memory.byte_setByte_ne _ _ (by omega)]

/-- A byte inside a write reads as written. -/
theorem Memory.byte_setBytes_in (m : Memory) (a i : Nat) (bs : List Byte) (h : i < bs.length) :
    (m.setBytes a bs).byte (a + i) = bs.getD i 0 := by
  induction bs generalizing m a i with
  | nil => simp at h
  | cons b bs ih =>
    cases i with
    | zero => simp only [Memory.setBytes, Nat.add_zero]; rw [Memory.byte_setBytes_out _ _ _ _ (by omega)]; simp
    | succ i =>
      simp only [Memory.setBytes]
      have := ih (m.setByte a b) (a + 1) i (by simpa using h)
      rw [show a + (i + 1) = a + 1 + i by omega, this]
      simp

/-- A write keeps a memory's canonical form. -/
theorem Memory.wf_setByte (m : Memory) (a : Nat) (b : Byte) (h : m.wf = true) : (m.setByte a b).wf = true :=
  swf_sput 0 m a b h

/-- A write of many bytes keeps a memory's canonical form. -/
theorem Memory.wf_setBytes (m : Memory) (a : Nat) (bs : List Byte) (h : m.wf = true) : (m.setBytes a bs).wf = true := by
  induction bs generalizing m a with
  | nil => exact h
  | cons b bs ih => exact ih _ _ (Memory.wf_setByte m a b h)

/-- A write of a number keeps a memory's canonical form. -/
theorem Memory.wf_setNat (m : Memory) (a n v : Nat) (h : m.wf = true) : (m.setNat a n v).wf = true :=
  Memory.wf_setBytes m a _ h

end Sys2Proof.Machine
end

