-- ==== Sys2Proof/Laws/State.lean ====
section
/-! SUPPORT. What each update of the state leaves alone, and what a register, a field, a context, a stack or a hive reads
after an update: the lemmas that keep later proofs from unfolding a record update. -/

namespace Sys2Proof.Machine

/-! ### What an update leaves alone -/

@[simp] theorem State.setReg_keeps (s : State) (o v : Nat) :
    (s.setReg o v).pending = s.pending ∧ (s.setReg o v).clk = s.clk ∧ (s.setReg o v).mem = s.mem ∧
    (s.setReg o v).hive = s.hive ∧ (s.setReg o v).stks = s.stks ∧ (s.setReg o v).combs = s.combs ∧
    (s.setReg o v).sync = s.sync ∧ (s.setReg o v).ctxs = s.ctxs ∧ (s.setReg o v).layers = s.layers ∧
    (s.setReg o v).layersC = s.layersC ∧ (s.setReg o v).fail = s.fail ∧ (s.setReg o v).lnk = s.lnk ∧
    (s.setReg o v).log = s.log ∧ (s.setReg o v).mail = s.mail ∧ (s.setReg o v).fw = s.fw ∧
    (s.setReg o v).pwr = s.pwr ∧ (s.setReg o v).thm = s.thm ∧ (s.setReg o v).io = s.io ∧ (s.setReg o v).out = s.out ∧
    (s.setReg o v).staged = s.staged := by and_intros <;> rfl

@[simp] theorem State.setField_keeps (s : State) (o hi lo v : Nat) :
    (s.setField o hi lo v).pending = s.pending ∧ (s.setField o hi lo v).clk = s.clk ∧
    (s.setField o hi lo v).mem = s.mem ∧ (s.setField o hi lo v).hive = s.hive ∧ (s.setField o hi lo v).stks = s.stks ∧
    (s.setField o hi lo v).combs = s.combs ∧ (s.setField o hi lo v).sync = s.sync ∧
    (s.setField o hi lo v).ctxs = s.ctxs ∧ (s.setField o hi lo v).layers = s.layers ∧
    (s.setField o hi lo v).layersC = s.layersC ∧ (s.setField o hi lo v).fail = s.fail ∧
    (s.setField o hi lo v).lnk = s.lnk ∧ (s.setField o hi lo v).log = s.log ∧ (s.setField o hi lo v).mail = s.mail ∧
    (s.setField o hi lo v).fw = s.fw ∧ (s.setField o hi lo v).pwr = s.pwr ∧ (s.setField o hi lo v).thm = s.thm ∧
    (s.setField o hi lo v).io = s.io ∧ (s.setField o hi lo v).out = s.out ∧ (s.setField o hi lo v).staged = s.staged := by and_intros <;> rfl

@[simp] theorem State.setFlag_keeps (s : State) (o i : Nat) (b : Bool) :
    (s.setFlag o i b).pending = s.pending ∧ (s.setFlag o i b).clk = s.clk ∧ (s.setFlag o i b).mem = s.mem ∧
    (s.setFlag o i b).hive = s.hive ∧ (s.setFlag o i b).stks = s.stks ∧ (s.setFlag o i b).combs = s.combs ∧
    (s.setFlag o i b).sync = s.sync ∧ (s.setFlag o i b).ctxs = s.ctxs ∧ (s.setFlag o i b).layers = s.layers ∧
    (s.setFlag o i b).layersC = s.layersC ∧ (s.setFlag o i b).fail = s.fail ∧ (s.setFlag o i b).lnk = s.lnk ∧
    (s.setFlag o i b).log = s.log ∧ (s.setFlag o i b).mail = s.mail ∧ (s.setFlag o i b).fw = s.fw ∧
    (s.setFlag o i b).pwr = s.pwr ∧ (s.setFlag o i b).thm = s.thm ∧ (s.setFlag o i b).io = s.io ∧
    (s.setFlag o i b).out = s.out ∧ (s.setFlag o i b).staged = s.staged := by and_intros <;> rfl

@[simp] theorem State.countField_keeps (s : State) (o hi lo n : Nat) :
    (s.countField o hi lo n).pending = s.pending ∧ (s.countField o hi lo n).clk = s.clk ∧
    (s.countField o hi lo n).mem = s.mem ∧ (s.countField o hi lo n).hive = s.hive ∧
    (s.countField o hi lo n).stks = s.stks ∧ (s.countField o hi lo n).combs = s.combs ∧
    (s.countField o hi lo n).sync = s.sync ∧ (s.countField o hi lo n).ctxs = s.ctxs ∧
    (s.countField o hi lo n).layers = s.layers ∧ (s.countField o hi lo n).layersC = s.layersC ∧
    (s.countField o hi lo n).fail = s.fail ∧ (s.countField o hi lo n).lnk = s.lnk ∧
    (s.countField o hi lo n).log = s.log ∧ (s.countField o hi lo n).mail = s.mail ∧
    (s.countField o hi lo n).fw = s.fw ∧ (s.countField o hi lo n).pwr = s.pwr ∧ (s.countField o hi lo n).thm = s.thm ∧
    (s.countField o hi lo n).io = s.io ∧ (s.countField o hi lo n).out = s.out ∧
    (s.countField o hi lo n).staged = s.staged := by and_intros <;> rfl

@[simp] theorem State.drawn_keeps (s : State) :
    (s.drawn).pending = s.pending ∧ (s.drawn).regs = s.regs ∧ (s.drawn).mem = s.mem ∧ (s.drawn).hive = s.hive ∧
    (s.drawn).stks = s.stks ∧ (s.drawn).combs = s.combs ∧ (s.drawn).sync = s.sync ∧ (s.drawn).ctxs = s.ctxs ∧
    (s.drawn).layers = s.layers ∧ (s.drawn).layersC = s.layersC ∧ (s.drawn).fail = s.fail ∧ (s.drawn).lnk = s.lnk ∧
    (s.drawn).log = s.log ∧ (s.drawn).mail = s.mail ∧ (s.drawn).fw = s.fw ∧ (s.drawn).pwr = s.pwr ∧
    (s.drawn).thm = s.thm ∧ (s.drawn).io = s.io ∧ (s.drawn).out = s.out ∧ (s.drawn).staged = s.staged := by and_intros <;> rfl

@[simp] theorem State.send_keeps (s : State) (o : Output) :
    (s.send o).pending = s.pending ∧ (s.send o).clk = s.clk ∧ (s.send o).regs = s.regs ∧ (s.send o).mem = s.mem ∧
    (s.send o).hive = s.hive ∧ (s.send o).stks = s.stks ∧ (s.send o).combs = s.combs ∧ (s.send o).sync = s.sync ∧
    (s.send o).ctxs = s.ctxs ∧ (s.send o).layers = s.layers ∧ (s.send o).layersC = s.layersC ∧
    (s.send o).fail = s.fail ∧ (s.send o).lnk = s.lnk ∧ (s.send o).log = s.log ∧ (s.send o).mail = s.mail ∧
    (s.send o).fw = s.fw ∧ (s.send o).pwr = s.pwr ∧ (s.send o).thm = s.thm ∧ (s.send o).io = s.io ∧
    (s.send o).staged = s.staged := by and_intros <;> rfl

@[simp] theorem State.setCtx_keeps (s : State) (x : Nat) (c : CtxSt) :
    (s.setCtx x c).pending = s.pending ∧ (s.setCtx x c).clk = s.clk ∧ (s.setCtx x c).regs = s.regs ∧
    (s.setCtx x c).mem = s.mem ∧ (s.setCtx x c).hive = s.hive ∧ (s.setCtx x c).stks = s.stks ∧
    (s.setCtx x c).combs = s.combs ∧ (s.setCtx x c).sync = s.sync ∧ (s.setCtx x c).layers = s.layers ∧
    (s.setCtx x c).layersC = s.layersC ∧ (s.setCtx x c).fail = s.fail ∧ (s.setCtx x c).lnk = s.lnk ∧
    (s.setCtx x c).log = s.log ∧ (s.setCtx x c).mail = s.mail ∧ (s.setCtx x c).fw = s.fw ∧
    (s.setCtx x c).pwr = s.pwr ∧ (s.setCtx x c).thm = s.thm ∧ (s.setCtx x c).io = s.io ∧ (s.setCtx x c).out = s.out ∧
    (s.setCtx x c).staged = s.staged := by and_intros <;> rfl

@[simp] theorem State.modCtx_keeps (s : State) (x : Nat) (f : CtxSt → CtxSt) :
    (s.modCtx x f).pending = s.pending ∧ (s.modCtx x f).clk = s.clk ∧ (s.modCtx x f).regs = s.regs ∧
    (s.modCtx x f).mem = s.mem ∧ (s.modCtx x f).hive = s.hive ∧ (s.modCtx x f).stks = s.stks ∧
    (s.modCtx x f).combs = s.combs ∧ (s.modCtx x f).sync = s.sync ∧ (s.modCtx x f).layers = s.layers ∧
    (s.modCtx x f).layersC = s.layersC ∧ (s.modCtx x f).fail = s.fail ∧ (s.modCtx x f).lnk = s.lnk ∧
    (s.modCtx x f).log = s.log ∧ (s.modCtx x f).mail = s.mail ∧ (s.modCtx x f).fw = s.fw ∧
    (s.modCtx x f).pwr = s.pwr ∧ (s.modCtx x f).thm = s.thm ∧ (s.modCtx x f).io = s.io ∧ (s.modCtx x f).out = s.out ∧
    (s.modCtx x f).staged = s.staged := by and_intros <;> rfl

@[simp] theorem State.modStk_keeps (s : State) (n : Nat) (f : StackSt → StackSt) :
    (s.modStk n f).pending = s.pending ∧ (s.modStk n f).clk = s.clk ∧ (s.modStk n f).regs = s.regs ∧
    (s.modStk n f).mem = s.mem ∧ (s.modStk n f).hive = s.hive ∧ (s.modStk n f).combs = s.combs ∧
    (s.modStk n f).sync = s.sync ∧ (s.modStk n f).ctxs = s.ctxs ∧ (s.modStk n f).layers = s.layers ∧
    (s.modStk n f).layersC = s.layersC ∧ (s.modStk n f).fail = s.fail ∧ (s.modStk n f).lnk = s.lnk ∧
    (s.modStk n f).log = s.log ∧ (s.modStk n f).mail = s.mail ∧ (s.modStk n f).fw = s.fw ∧
    (s.modStk n f).pwr = s.pwr ∧ (s.modStk n f).thm = s.thm ∧ (s.modStk n f).io = s.io ∧ (s.modStk n f).out = s.out ∧
    (s.modStk n f).staged = s.staged := by and_intros <;> rfl

@[simp] theorem State.setHive_keeps (s : State) (h : Nat) (v : HiveState) :
    (s.setHive h v).pending = s.pending ∧ (s.setHive h v).clk = s.clk ∧ (s.setHive h v).regs = s.regs ∧
    (s.setHive h v).mem = s.mem ∧ (s.setHive h v).stks = s.stks ∧ (s.setHive h v).combs = s.combs ∧
    (s.setHive h v).sync = s.sync ∧ (s.setHive h v).ctxs = s.ctxs ∧ (s.setHive h v).layers = s.layers ∧
    (s.setHive h v).layersC = s.layersC ∧ (s.setHive h v).fail = s.fail ∧ (s.setHive h v).lnk = s.lnk ∧
    (s.setHive h v).log = s.log ∧ (s.setHive h v).mail = s.mail ∧ (s.setHive h v).fw = s.fw ∧
    (s.setHive h v).pwr = s.pwr ∧ (s.setHive h v).thm = s.thm ∧ (s.setHive h v).io = s.io ∧
    (s.setHive h v).out = s.out ∧ (s.setHive h v).staged = s.staged := by and_intros <;> rfl

/-- A draw of a free value changes only the count of draws. -/
@[simp] theorem State.drawn_clk (s : State) : s.drawn.clk.now = s.clk.now ∧ s.drawn.clk.frame = s.clk.frame ∧
    s.drawn.clk.lock = s.clk.lock ∧ s.drawn.clk.limited = s.clk.limited ∧ s.drawn.clk.free = s.clk.free + 1 :=
  ⟨rfl, rfl, rfl, rfl, rfl⟩

@[simp] theorem State.send_out (s : State) (o : Output) : (s.send o).out = o :: s.out := rfl

/-! ### Registers -/

/-- A register is a 64-bit value. -/
theorem State.reg_lt (s : State) (o : Nat) : s.reg o < 2 ^ 64 := (sget _ s.regs o).isLt

/-- Registers are read from the register map alone. -/
theorem State.reg_congr {s t : State} (h : t.regs = s.regs) (o : Nat) : t.reg o = s.reg o := by
  simp [State.reg, h]

theorem State.reg_setReg_self (s : State) (o v : Nat) : (s.setReg o v).reg o = v % 2 ^ 64 := by
  simp [State.reg, State.setReg]

theorem State.reg_setReg_ne (s : State) {o p : Nat} (v : Nat) (h : p ≠ o) : (s.setReg o v).reg p = s.reg p := by
  simp [State.reg, State.setReg, sget_sput_ne' _ _ _ _ h]

theorem State.reg_setField_ne (s : State) {o p : Nat} (hi lo v : Nat) (h : p ≠ o) :
    (s.setField o hi lo v).reg p = s.reg p := s.reg_setReg_ne _ h

theorem State.field_setField_ne (s : State) {o p : Nat} (hi lo v hi' lo' : Nat) (h : p ≠ o) :
    (s.setField o hi lo v).field p hi' lo' = s.field p hi' lo' := by
  rw [State.field, State.reg_setField_ne s hi lo v h, State.field]

theorem State.flag_setField_ne (s : State) {o p : Nat} (hi lo v i : Nat) (h : p ≠ o) :
    (s.setField o hi lo v).flag p i = s.flag p i := by
  rw [State.flag, State.reg_setField_ne s hi lo v h, State.flag]

theorem State.reg_setField_self (s : State) (o hi lo v : Nat) (h : lo ≤ hi) (hh : hi < 64) :
    (s.setField o hi lo v).reg o = setBits (s.reg o) hi lo v := by
  rw [State.setField, State.reg_setReg_self, Nat.mod_eq_of_lt (setBits_lt _ _ _ _ h hh (s.reg_lt o))]

/-- A field that is written reads the value, cut to its width. -/
theorem State.field_setField_self (s : State) (o hi lo v : Nat) (h : lo ≤ hi) (hh : hi < 64) :
    (s.setField o hi lo v).field o hi lo = v % 2 ^ (hi + 1 - lo) := by
  rw [State.field, s.reg_setField_self o hi lo v h hh, bits_setBits_self _ _ _ _ h]

/-- Another field of the register reads as before. -/
theorem State.field_setField_apart (s : State) (o hi lo v hi' lo' : Nat) (h : lo ≤ hi) (hh : hi < 64)
    (ha : hi' < lo ∨ hi < lo') : (s.setField o hi lo v).field o hi' lo' = s.field o hi' lo' := by
  rw [State.field, s.reg_setField_self o hi lo v h hh, bits_setBits_apart _ _ _ _ _ _ h ha, State.field]

theorem State.flag_setField_apart (s : State) (o hi lo v i : Nat) (h : lo ≤ hi) (hh : hi < 64) (ha : i < lo ∨ hi < i) :
    (s.setField o hi lo v).flag o i = s.flag o i := by
  rw [State.flag, s.reg_setField_self o hi lo v h hh, testBit_setBits _ _ _ _ _ h, State.flag]
  have : ¬(lo ≤ i ∧ i ≤ hi) := by omega
  simp [this]

/-- A bit that is written reads the value. -/
theorem State.flag_setFlag_self (s : State) (o i : Nat) (b : Bool) (hh : i < 64) : (s.setFlag o i b).flag o i = b := by
  rw [State.flag, State.setFlag, s.reg_setField_self o i i _ (Nat.le_refl i) hh, testBit_setBits _ _ _ _ _ (Nat.le_refl i)]
  cases b <;> simp [b2n]

theorem State.flag_setFlag_ne (s : State) {o p : Nat} (i j : Nat) (b : Bool) (h : p ≠ o) :
    (s.setFlag o i b).flag p j = s.flag p j := s.flag_setField_ne i i _ j h

theorem State.field_setFlag_ne (s : State) {o p : Nat} (i hi lo : Nat) (b : Bool) (h : p ≠ o) :
    (s.setFlag o i b).field p hi lo = s.field p hi lo := s.field_setField_ne i i _ hi lo h

/-- A saturating count rises by what is added, and stays at its largest value. -/
theorem State.field_countField_self (s : State) (o hi lo n : Nat) (h : lo ≤ hi) (hh : hi < 64) :
    (s.countField o hi lo n).field o hi lo = min (s.field o hi lo + n) (2 ^ (hi + 1 - lo) - 1) := by
  rw [State.countField, s.field_setField_self o hi lo _ h hh, Nat.mod_eq_of_lt]
  have := Nat.two_pow_pos (hi + 1 - lo)
  omega

/-! ### Contexts, stacks and hives -/

@[simp] theorem State.ctx_setCtx_self (s : State) (x : Nat) (c : CtxSt) : (s.setCtx x c).ctx x = c := sget_sput_self _ _ _ _

theorem State.ctx_setCtx_ne (s : State) {x y : Nat} (c : CtxSt) (h : y ≠ x) : (s.setCtx x c).ctx y = s.ctx y :=
  sget_sput_ne _ _ _ h

@[simp] theorem State.ctx_modCtx_self (s : State) (x : Nat) (f : CtxSt → CtxSt) : (s.modCtx x f).ctx x = f (s.ctx x) :=
  sget_sput_self _ _ _ _

theorem State.ctx_modCtx_ne (s : State) {x y : Nat} (f : CtxSt → CtxSt) (h : y ≠ x) : (s.modCtx x f).ctx y = s.ctx y :=
  sget_sput_ne _ _ _ h

theorem State.ctx_congr {s t : State} (h : t.ctxs = s.ctxs) (x : Nat) : t.ctx x = s.ctx x := by simp [State.ctx, h]

@[simp] theorem State.stk_modStk_self (s : State) (n : Nat) (f : StackSt → StackSt) : (s.modStk n f).stk n = f (s.stk n) :=
  sget_smod_self _ _ _ _

theorem State.stk_modStk_ne (s : State) {n m : Nat} (f : StackSt → StackSt) (h : m ≠ n) : (s.modStk n f).stk m = s.stk m :=
  sget_sput_ne _ _ _ h

@[simp] theorem State.hiveSt_setHive_self (s : State) (h : Nat) (v : HiveState) : (s.setHive h v).hiveSt h = v :=
  sget_sput_self _ _ _ _

theorem State.hiveSt_setHive_ne (s : State) {h g : Nat} (v : HiveState) (hn : g ≠ h) : (s.setHive h v).hiveSt g = s.hiveSt g :=
  sget_sput_ne _ _ _ hn

end Sys2Proof.Machine
end

