-- ==== Sys2Proof/Laws/Ops.lean ====
section
/-! SUPPORT. What the shared operations do, said once: writing a log entry, raising an interrupt, a unit that waits, a
step's fault; and that each keeps the canonical form of memory and registers. -/

namespace Sys2Proof.Machine

/-! ### A unit that waits -/

theorem whenReady_true {c : Bool} (h : c = true) (s t : State) : whenReady c s t = .next t := by simp [whenReady, h]

theorem whenReady_false {c : Bool} (h : c = false) (s t : State) : whenReady c s t = .next s := by simp [whenReady, h]

/-- A unit either takes its step or leaves the state as it is. -/
theorem whenReady_cases {c : Bool} {s t u : State} (h : whenReady c s t = .next u) :
    (c = true ∧ u = t) ∨ (c = false ∧ u = s) := by
  cases c <;> simp_all [whenReady]

/-! ### The log -/

@[simp] theorem State.warn_keeps (s : State) (r : LogRec) :
    (s.warn r).pending = s.pending ∧ (s.warn r).clk = s.clk ∧ (s.warn r).mem.dev = s.mem.dev ∧
    (s.warn r).mem.bad = s.mem.bad ∧ (s.warn r).mem.retired = s.mem.retired ∧ (s.warn r).hive = s.hive ∧
    (s.warn r).stks = s.stks ∧ (s.warn r).combs = s.combs ∧ (s.warn r).sync = s.sync ∧ (s.warn r).ctxs = s.ctxs ∧
    (s.warn r).layers = s.layers ∧ (s.warn r).layersC = s.layersC ∧ (s.warn r).fail = s.fail ∧
    (s.warn r).lnk = s.lnk ∧ (s.warn r).mail = s.mail ∧ (s.warn r).fw = s.fw ∧ (s.warn r).pwr = s.pwr ∧
    (s.warn r).thm = s.thm ∧ (s.warn r).io = s.io ∧ (s.warn r).staged = s.staged ∧ (s.warn r).mem.host = s.mem.host := by
  unfold State.warn
  dsimp only
  split <;> simp

@[simp] theorem State.putLog_keeps (s : State) (r : LogRec) :
    (s.putLog r).pending = s.pending ∧ (s.putLog r).clk = s.clk ∧ (s.putLog r).mem.dev = s.mem.dev ∧
    (s.putLog r).mem.bad = s.mem.bad ∧ (s.putLog r).mem.retired = s.mem.retired ∧ (s.putLog r).hive = s.hive ∧
    (s.putLog r).stks = s.stks ∧ (s.putLog r).combs = s.combs ∧ (s.putLog r).sync = s.sync ∧
    (s.putLog r).ctxs = s.ctxs ∧ (s.putLog r).layers = s.layers ∧ (s.putLog r).layersC = s.layersC ∧
    (s.putLog r).fail = s.fail ∧ (s.putLog r).lnk = s.lnk ∧ (s.putLog r).mail = s.mail ∧ (s.putLog r).fw = s.fw ∧
    (s.putLog r).pwr = s.pwr ∧ (s.putLog r).thm = s.thm ∧ (s.putLog r).io = s.io ∧ (s.putLog r).staged = s.staged ∧
    (s.putLog r).out = s.out := by
  unfold State.putLog
  dsimp only
  split <;> simp

@[simp] theorem State.putLogs_keeps (s : State) (rs : List LogRec) :
    (rs.foldl State.putLog s).pending = s.pending ∧ (rs.foldl State.putLog s).clk = s.clk ∧
    (rs.foldl State.putLog s).mem.dev = s.mem.dev ∧ (rs.foldl State.putLog s).mem.bad = s.mem.bad ∧
    (rs.foldl State.putLog s).mem.retired = s.mem.retired ∧ (rs.foldl State.putLog s).hive = s.hive ∧
    (rs.foldl State.putLog s).stks = s.stks ∧ (rs.foldl State.putLog s).combs = s.combs ∧
    (rs.foldl State.putLog s).sync = s.sync ∧ (rs.foldl State.putLog s).ctxs = s.ctxs ∧
    (rs.foldl State.putLog s).layers = s.layers ∧ (rs.foldl State.putLog s).layersC = s.layersC ∧
    (rs.foldl State.putLog s).fail = s.fail ∧ (rs.foldl State.putLog s).lnk = s.lnk ∧
    (rs.foldl State.putLog s).mail = s.mail ∧ (rs.foldl State.putLog s).fw = s.fw ∧
    (rs.foldl State.putLog s).pwr = s.pwr ∧ (rs.foldl State.putLog s).thm = s.thm ∧
    (rs.foldl State.putLog s).io = s.io ∧ (rs.foldl State.putLog s).staged = s.staged ∧
    (rs.foldl State.putLog s).out = s.out := by
  induction rs generalizing s with
  | nil => simp
  | cons r rs ih => simp [ih]

@[simp] theorem State.flushLog_keeps (s : State) :
    (s.flushLog).pending = s.pending ∧ (s.flushLog).clk = s.clk ∧ (s.flushLog).mem.dev = s.mem.dev ∧
    (s.flushLog).mem.bad = s.mem.bad ∧ (s.flushLog).mem.retired = s.mem.retired ∧ (s.flushLog).hive = s.hive ∧
    (s.flushLog).stks = s.stks ∧ (s.flushLog).combs = s.combs ∧ (s.flushLog).sync = s.sync ∧
    (s.flushLog).ctxs = s.ctxs ∧ (s.flushLog).layers = s.layers ∧ (s.flushLog).layersC = s.layersC ∧
    (s.flushLog).fail = s.fail ∧ (s.flushLog).lnk = s.lnk ∧ (s.flushLog).mail = s.mail ∧ (s.flushLog).fw = s.fw ∧
    (s.flushLog).pwr = s.pwr ∧ (s.flushLog).thm = s.thm ∧ (s.flushLog).io = s.io ∧ (s.flushLog).staged = s.staged ∧
    (s.flushLog).out = s.out := by
  unfold State.flushLog
  split <;> simp

@[simp] theorem State.logToHost_keeps (s : State) (r : LogRec) :
    (s.logToHost r).pending = s.pending ∧ (s.logToHost r).clk = s.clk ∧ (s.logToHost r).mem.dev = s.mem.dev ∧
    (s.logToHost r).mem.bad = s.mem.bad ∧ (s.logToHost r).mem.retired = s.mem.retired ∧
    (s.logToHost r).hive = s.hive ∧ (s.logToHost r).stks = s.stks ∧ (s.logToHost r).combs = s.combs ∧
    (s.logToHost r).sync = s.sync ∧ (s.logToHost r).ctxs = s.ctxs ∧ (s.logToHost r).layers = s.layers ∧
    (s.logToHost r).layersC = s.layersC ∧ (s.logToHost r).fail = s.fail ∧ (s.logToHost r).lnk = s.lnk ∧
    (s.logToHost r).mail = s.mail ∧ (s.logToHost r).fw = s.fw ∧ (s.logToHost r).pwr = s.pwr ∧
    (s.logToHost r).thm = s.thm ∧ (s.logToHost r).io = s.io ∧ (s.logToHost r).staged = s.staged ∧
    (s.logToHost r).out = s.out := by
  unfold State.logToHost State.logToRing
  dsimp only
  split <;> simp

@[simp] theorem State.logEntry_keeps (s : State) (a : LogArgs) :
    (s.logEntry a).pending = s.pending ∧ (s.logEntry a).clk = s.clk ∧ (s.logEntry a).mem.dev = s.mem.dev ∧
    (s.logEntry a).mem.bad = s.mem.bad ∧ (s.logEntry a).mem.retired = s.mem.retired ∧ (s.logEntry a).hive = s.hive ∧
    (s.logEntry a).stks = s.stks ∧ (s.logEntry a).combs = s.combs ∧ (s.logEntry a).sync = s.sync ∧
    (s.logEntry a).ctxs = s.ctxs ∧ (s.logEntry a).layers = s.layers ∧ (s.logEntry a).layersC = s.layersC ∧
    (s.logEntry a).fail = s.fail ∧ (s.logEntry a).lnk = s.lnk ∧ (s.logEntry a).mail = s.mail ∧
    (s.logEntry a).fw = s.fw ∧ (s.logEntry a).pwr = s.pwr ∧ (s.logEntry a).thm = s.thm ∧ (s.logEntry a).io = s.io ∧
    (s.logEntry a).staged = s.staged := by
  unfold State.logEntry
  dsimp only
  split <;> simp

@[simp] theorem State.note_keeps (s : State) (sev : Nat) (fm : Bool) (source code : Nat) (args : List Nat) (x : Option Nat) (status unit : Nat) :
    (s.note sev fm source code args x status unit).pending = s.pending ∧
    (s.note sev fm source code args x status unit).clk = s.clk ∧
    (s.note sev fm source code args x status unit).mem.dev = s.mem.dev ∧
    (s.note sev fm source code args x status unit).mem.bad = s.mem.bad ∧
    (s.note sev fm source code args x status unit).mem.retired = s.mem.retired ∧
    (s.note sev fm source code args x status unit).hive = s.hive ∧
    (s.note sev fm source code args x status unit).stks = s.stks ∧
    (s.note sev fm source code args x status unit).combs = s.combs ∧
    (s.note sev fm source code args x status unit).sync = s.sync ∧
    (s.note sev fm source code args x status unit).ctxs = s.ctxs ∧
    (s.note sev fm source code args x status unit).layers = s.layers ∧
    (s.note sev fm source code args x status unit).layersC = s.layersC ∧
    (s.note sev fm source code args x status unit).fail = s.fail ∧
    (s.note sev fm source code args x status unit).lnk = s.lnk ∧
    (s.note sev fm source code args x status unit).mail = s.mail ∧
    (s.note sev fm source code args x status unit).fw = s.fw ∧
    (s.note sev fm source code args x status unit).pwr = s.pwr ∧
    (s.note sev fm source code args x status unit).thm = s.thm ∧
    (s.note sev fm source code args x status unit).io = s.io ∧
    (s.note sev fm source code args x status unit).staged = s.staged := by
  simp [State.note]

/-- Counting a warning not sent, or an entry lost, changes LOG_STAT alone. -/
theorem State.reg_warn (s : State) (r : LogRec) {o : Nat} (h : o ≠ Off.fwlLogStat) : (s.warn r).reg o = s.reg o := by
  unfold State.warn
  split
  · rfl
  · exact s.reg_setField_ne _ _ _ h

theorem State.reg_putLog (s : State) (r : LogRec) {o : Nat} (h : o ∉ logRegs) : (s.putLog r).reg o = s.reg o := by
  have h1 : o ≠ Off.fwlLogStat := fun e => h (by simp [logRegs, e])
  have h2 : o ≠ Off.fwlLogPos := fun e => h (by simp [logRegs, e])
  unfold State.putLog
  split
  · exact State.reg_setField_ne _ _ _ _ h1
  · exact State.reg_setField_ne _ _ _ _ h2

theorem State.reg_putLogs (s : State) (rs : List LogRec) {o : Nat} (h : o ∉ logRegs) :
    (rs.foldl State.putLog s).reg o = s.reg o := by
  induction rs generalizing s with
  | nil => rfl
  | cons r rs ih => rw [List.foldl_cons, ih, State.reg_putLog _ _ h]

theorem State.reg_flushLog (s : State) {o : Nat} (h : o ∉ logRegs) : s.flushLog.reg o = s.reg o := by
  unfold State.flushLog
  split
  · rfl
  · exact State.reg_putLogs _ _ h

theorem State.reg_logToHost (s : State) (r : LogRec) {o : Nat} (h : o ∉ logRegs) : (s.logToHost r).reg o = s.reg o := by
  unfold State.logToHost State.logToRing
  dsimp only
  split
  · exact State.reg_flushLog _ h
  · rfl

/-- A log entry changes no register but those of the log. -/
theorem State.reg_logEntry (s : State) (a : LogArgs) {o : Nat} (h : o ∉ logRegs) : (s.logEntry a).reg o = s.reg o := by
  have h1 : o ≠ Off.fwlLogStat := fun e => h (by simp [logRegs, e])
  unfold State.logEntry
  dsimp only
  split
  · rw [State.reg_logToHost _ _ h, State.reg_warn _ _ h1]
    rfl
  · rw [State.reg_logToHost _ _ h]
    rfl

theorem State.reg_note (s : State) (sev : Nat) (fm : Bool) (source code : Nat) (args : List Nat) (x : Option Nat)
    (status unit : Nat) {o : Nat} (h : o ∉ logRegs) : (s.note sev fm source code args x status unit).reg o = s.reg o :=
  s.reg_logEntry _ h

/-- The number and time that the next entry bears. -/
def State.logRec (s : State) (a : LogArgs) : LogRec :=
  ⟨s.log.seq, if s.clk.lock then s.clk.frame else s.clk.now / 25600, s.clk.lock, a⟩

theorem State.warn_log (s : State) (r : LogRec) : (s.warn r).log.seq = s.log.seq ∧ (s.warn r).log.mem = s.log.mem := by
  unfold State.warn
  split <;> simp

theorem State.putLogs_log (s : State) (rs : List LogRec) :
    (rs.foldl State.putLog s).log.seq = s.log.seq ∧ (rs.foldl State.putLog s).log.mem = s.log.mem := by
  induction rs generalizing s with
  | nil => simp
  | cons r rs ih =>
    have h : (s.putLog r).log.seq = s.log.seq ∧ (s.putLog r).log.mem = s.log.mem := by
      unfold State.putLog
      dsimp only
      split <;> simp
    simp [ih, h]

theorem State.flushLog_log (s : State) : s.flushLog.log.seq = s.log.seq ∧ s.flushLog.log.mem = s.log.mem := by
  unfold State.flushLog
  split
  · simp
  · simp [State.putLogs_log]

theorem State.logToHost_log (s : State) (r : LogRec) :
    (s.logToHost r).log.seq = s.log.seq ∧ (s.logToHost r).log.mem = s.log.mem := by
  unfold State.logToHost State.logToRing
  dsimp only
  split
  · exact State.flushLog_log _
  · simp

/-- The entry stands newest in the log, whose number advances by one. -/
theorem State.logEntry_log (s : State) (a : LogArgs) :
    (s.logEntry a).log.seq = s.log.seq + 1 ∧ (s.logEntry a).log.mem = (s.logRec a :: s.log.mem).take 1048576 := by
  unfold State.logEntry
  dsimp only
  split <;> simp [State.logToHost_log, State.warn_log, State.logRec]

/-! ### Frames -/

theorem Kept.refl (as : List Area) (s : State) : Kept as s s :=
  ⟨rfl, fun a _ => by cases a <;> simp [Area.same]⟩

theorem Kept.trans {as : List Area} {s t u : State} (h : Kept as s t) (g : Kept as t u) : Kept as s u := by
  refine ⟨g.1.trans h.1, fun a ha => ?_⟩
  have h1 := h.2 a ha
  have h2 := g.2 a ha
  cases a <;> simp_all [Area.same]

/-- A frame that names more areas says less. -/
theorem Kept.weaken {as bs : List Area} {s t : State} (h : Kept as s t) (hs : as ⊆ bs) : Kept bs s t :=
  ⟨h.1, fun a ha => h.2 a (fun hm => ha (hs hm))⟩

/-! A change of one area keeps every frame that names it. -/

theorem Kept.regs {as : List Area} {s t : State} (h : Kept as s t) (ha : Area.regs ∈ as) (v : SMap Word) :
    Kept as s { t with regs := v } :=
  h.trans ⟨rfl, fun b hb => by cases b <;> first | exact absurd ha hb | simp [Area.same]⟩

theorem Kept.staged {as : List Area} {s t : State} (h : Kept as s t) (ha : Area.staged ∈ as) (v : SMap (Option Word)) :
    Kept as s { t with staged := v } :=
  h.trans ⟨rfl, fun b hb => by cases b <;> first | exact absurd ha hb | simp [Area.same]⟩

theorem Kept.hive {as : List Area} {s t : State} (h : Kept as s t) (ha : Area.hive ∈ as) (v : Hives) :
    Kept as s { t with hive := v } :=
  h.trans ⟨rfl, fun b hb => by cases b <;> first | exact absurd ha hb | simp [Area.same]⟩

theorem Kept.stks {as : List Area} {s t : State} (h : Kept as s t) (ha : Area.stks ∈ as) (v : SMap StackSt) :
    Kept as s { t with stks := v } :=
  h.trans ⟨rfl, fun b hb => by cases b <;> first | exact absurd ha hb | simp [Area.same]⟩

theorem Kept.combs {as : List Area} {s t : State} (h : Kept as s t) (ha : Area.combs ∈ as) (v : SMap CombSt) :
    Kept as s { t with combs := v } :=
  h.trans ⟨rfl, fun b hb => by cases b <;> first | exact absurd ha hb | simp [Area.same]⟩

theorem Kept.sync {as : List Area} {s t : State} (h : Kept as s t) (ha : Area.sync ∈ as) (v : Sync) :
    Kept as s { t with sync := v } :=
  h.trans ⟨rfl, fun b hb => by cases b <;> first | exact absurd ha hb | simp [Area.same]⟩

theorem Kept.ctxs {as : List Area} {s t : State} (h : Kept as s t) (ha : Area.ctxs ∈ as) (v : SMap CtxSt) :
    Kept as s { t with ctxs := v } :=
  h.trans ⟨rfl, fun b hb => by cases b <;> first | exact absurd ha hb | simp [Area.same]⟩

theorem Kept.layers {as : List Area} {s t : State} (h : Kept as s t) (ha : Area.layers ∈ as) (v : SMap LayerSt) :
    Kept as s { t with layers := v } :=
  h.trans ⟨rfl, fun b hb => by cases b <;> first | exact absurd ha hb | simp [Area.same]⟩

theorem Kept.layersC {as : List Area} {s t : State} (h : Kept as s t) (ha : Area.layers ∈ as) (v : SMap LayerSt) :
    Kept as s { t with layersC := v } :=
  h.trans ⟨rfl, fun b hb => by cases b <;> first | exact absurd ha hb | simp [Area.same]⟩

theorem Kept.fail {as : List Area} {s t : State} (h : Kept as s t) (ha : Area.fail ∈ as) (v : Failover) :
    Kept as s { t with fail := v } :=
  h.trans ⟨rfl, fun b hb => by cases b <;> first | exact absurd ha hb | simp [Area.same]⟩

theorem Kept.lnk {as : List Area} {s t : State} (h : Kept as s t) (ha : Area.lnk ∈ as) (v : Links) :
    Kept as s { t with lnk := v } :=
  h.trans ⟨rfl, fun b hb => by cases b <;> first | exact absurd ha hb | simp [Area.same]⟩

theorem Kept.log {as : List Area} {s t : State} (h : Kept as s t) (ha : Area.log ∈ as) (v : LogSt) :
    Kept as s { t with log := v } :=
  h.trans ⟨rfl, fun b hb => by cases b <;> first | exact absurd ha hb | simp [Area.same]⟩

theorem Kept.mail {as : List Area} {s t : State} (h : Kept as s t) (ha : Area.mail ∈ as) (v : Mail) :
    Kept as s { t with mail := v } :=
  h.trans ⟨rfl, fun b hb => by cases b <;> first | exact absurd ha hb | simp [Area.same]⟩

theorem Kept.fw {as : List Area} {s t : State} (h : Kept as s t) (ha : Area.fw ∈ as) (v : Firmware) :
    Kept as s { t with fw := v } :=
  h.trans ⟨rfl, fun b hb => by cases b <;> first | exact absurd ha hb | simp [Area.same]⟩

theorem Kept.pwr {as : List Area} {s t : State} (h : Kept as s t) (ha : Area.pwr ∈ as) (v : Power) :
    Kept as s { t with pwr := v } :=
  h.trans ⟨rfl, fun b hb => by cases b <;> first | exact absurd ha hb | simp [Area.same]⟩

theorem Kept.thm {as : List Area} {s t : State} (h : Kept as s t) (ha : Area.thm ∈ as) (v : Thermal) :
    Kept as s { t with thm := v } :=
  h.trans ⟨rfl, fun b hb => by cases b <;> first | exact absurd ha hb | simp [Area.same]⟩

theorem Kept.io {as : List Area} {s t : State} (h : Kept as s t) (ha : Area.io ∈ as) (v : HostIf) :
    Kept as s { t with io := v } :=
  h.trans ⟨rfl, fun b hb => by cases b <;> first | exact absurd ha hb | simp [Area.same]⟩

theorem Kept.out {as : List Area} {s t : State} (h : Kept as s t) (ha : Area.out ∈ as) (v : List Output) :
    Kept as s { t with out := v } :=
  h.trans ⟨rfl, fun b hb => by cases b <;> first | exact absurd ha hb | simp [Area.same]⟩

theorem Kept.dev {as : List Area} {s t : State} (h : Kept as s t) (ha : Area.dev ∈ as) (v : Memory) :
    Kept as s { t with mem := { t.mem with dev := v } } :=
  h.trans ⟨rfl, fun b hb => by cases b <;> first | exact absurd ha hb | simp [Area.same]⟩

theorem Kept.host {as : List Area} {s t : State} (h : Kept as s t) (ha : Area.host ∈ as) (v : Memory) :
    Kept as s { t with mem := { t.mem with host := v } } :=
  h.trans ⟨rfl, fun b hb => by cases b <;> first | exact absurd ha hb | simp [Area.same]⟩

theorem Kept.bad {as : List Area} {s t : State} (h : Kept as s t) (ha : Area.bad ∈ as) (v : SMap Bool) :
    Kept as s { t with mem := { t.mem with bad := v } } :=
  h.trans ⟨rfl, fun b hb => by cases b <;> first | exact absurd ha hb | simp [Area.same]⟩

theorem Kept.retired {as : List Area} {s t : State} (h : Kept as s t) (ha : Area.retired ∈ as) (v : SMap Bool) :
    Kept as s { t with mem := { t.mem with retired := v } } :=
  h.trans ⟨rfl, fun b hb => by cases b <;> first | exact absurd ha hb | simp [Area.same]⟩

theorem Kept.clk {as : List Area} {s t : State} (h : Kept as s t) (ha : Area.clock ∈ as) (v : Clock) :
    Kept as s { t with clk := v } :=
  h.trans ⟨rfl, fun b hb => by cases b <;> first | exact absurd ha hb | simp [Area.same]⟩

theorem Kept.drawn {as : List Area} {s t : State} (h : Kept as s t) : Kept as s t.drawn :=
  h.trans ⟨rfl, fun b _ => by cases b <;> simp [Area.same]⟩

theorem Kept.setReg {as : List Area} {s t : State} (h : Kept as s t) (ha : Area.regs ∈ as) (o v : Nat) :
    Kept as s (t.setReg o v) := h.regs ha _

theorem Kept.setField {as : List Area} {s t : State} (h : Kept as s t) (ha : Area.regs ∈ as) (o hi lo v : Nat) :
    Kept as s (t.setField o hi lo v) := h.regs ha _

theorem Kept.setFlag {as : List Area} {s t : State} (h : Kept as s t) (ha : Area.regs ∈ as) (o i : Nat) (b : Bool) :
    Kept as s (t.setFlag o i b) := h.regs ha _

theorem Kept.countField {as : List Area} {s t : State} (h : Kept as s t) (ha : Area.regs ∈ as) (o hi lo n : Nat) :
    Kept as s (t.countField o hi lo n) := h.regs ha _

theorem Kept.send {as : List Area} {s t : State} (h : Kept as s t) (ha : Area.out ∈ as) (o : Output) :
    Kept as s (t.send o) := h.out ha _

theorem Kept.modCtx {as : List Area} {s t : State} (h : Kept as s t) (ha : Area.ctxs ∈ as) (x : Nat) (f : CtxSt → CtxSt) :
    Kept as s (t.modCtx x f) := h.ctxs ha _

theorem Kept.setCtx {as : List Area} {s t : State} (h : Kept as s t) (ha : Area.ctxs ∈ as) (x : Nat) (c : CtxSt) :
    Kept as s (t.setCtx x c) := h.ctxs ha _

theorem Kept.modStk {as : List Area} {s t : State} (h : Kept as s t) (ha : Area.stks ∈ as) (n : Nat) (f : StackSt → StackSt) :
    Kept as s (t.modStk n f) := h.stks ha _

theorem Kept.setHive {as : List Area} {s t : State} (h : Kept as s t) (ha : Area.hive ∈ as) (n : Nat) (v : HiveState) :
    Kept as s (t.setHive n v) := h.hive ha _

/-- A log entry changes the log's areas alone. -/
theorem Kept.logEntry {as : List Area} {s t : State} (h : Kept as s t) (ha : logAreas ⊆ as) (a : LogArgs) :
    Kept as s (t.logEntry a) :=
  h.trans (Kept.weaken ⟨by simp, fun b hb => by cases b <;> simp_all [Area.same, logAreas]⟩ ha)

theorem Kept.note {as : List Area} {s t : State} (h : Kept as s t) (ha : logAreas ⊆ as) (sev : Nat) (fm : Bool)
    (source code : Nat) (args : List Nat) (x : Option Nat) (status unit : Nat) :
    Kept as s (t.note sev fm source code args x status unit) := h.logEntry ha _

/-- A fold of operations that each keep a frame keeps it. -/
theorem Kept.foldl {α : Type} {as : List Area} {s t : State} (h : Kept as s t) (l : List α) (f : State → α → State)
    (hf : ∀ u x, x ∈ l → Kept as s u → Kept as s (f u x)) : Kept as s (l.foldl f t) := by
  induction l generalizing t with
  | nil => exact h
  | cons x r ih =>
    rw [List.foldl_cons]
    exact ih (hf t x List.mem_cons_self h) (fun u y hy => hf u y (List.mem_cons_of_mem _ hy))

theorem RegsKept.refl (os : List Nat) (s : State) : RegsKept os s s := fun _ _ => rfl

theorem RegsKept.trans {os : List Nat} {s t u : State} (h : RegsKept os s t) (g : RegsKept os t u) : RegsKept os s u :=
  fun o ho => (g o ho).trans (h o ho)

/-- What does not write registers keeps them. -/
theorem RegsKept.of_regs {os : List Nat} {s t u : State} (h : RegsKept os s t) (g : u.regs = t.regs) : RegsKept os s u :=
  fun o ho => (State.reg_congr g o).trans (h o ho)

theorem RegsKept.setReg {os : List Nat} {s t : State} (h : RegsKept os s t) {o : Nat} (ho : o ∈ os) (v : Nat) :
    RegsKept os s (t.setReg o v) :=
  h.trans fun _ hp => t.reg_setReg_ne v (fun e => hp (e ▸ ho))

theorem RegsKept.setField {os : List Nat} {s t : State} (h : RegsKept os s t) {o : Nat} (ho : o ∈ os) (hi lo v : Nat) :
    RegsKept os s (t.setField o hi lo v) := h.setReg ho _

theorem RegsKept.setFlag {os : List Nat} {s t : State} (h : RegsKept os s t) {o : Nat} (ho : o ∈ os) (i : Nat) (b : Bool) :
    RegsKept os s (t.setFlag o i b) := h.setReg ho _

theorem RegsKept.countField {os : List Nat} {s t : State} (h : RegsKept os s t) {o : Nat} (ho : o ∈ os) (hi lo n : Nat) :
    RegsKept os s (t.countField o hi lo n) := h.setReg ho _

theorem RegsKept.logEntry {os : List Nat} {s t : State} (h : RegsKept os s t) (ho : logRegs ⊆ os) (a : LogArgs) :
    RegsKept os s (t.logEntry a) :=
  h.trans fun _ hp => t.reg_logEntry a (fun hm => hp (ho hm))

theorem RegsKept.foldl {α : Type} {os : List Nat} {s t : State} (h : RegsKept os s t) (l : List α) (f : State → α → State)
    (hf : ∀ u x, x ∈ l → RegsKept os s u → RegsKept os s (f u x)) : RegsKept os s (l.foldl f t) := by
  induction l generalizing t with
  | nil => exact h
  | cons x r ih =>
    rw [List.foldl_cons]
    exact ih (hf t x List.mem_cons_self h) (fun u y hy => hf u y (List.mem_cons_of_mem _ hy))

/-! ### The canonical form -/

theorem regsWf_setReg {s : State} (o v : Nat) (h : regsWf s.regs = true) : regsWf (s.setReg o v).regs = true := by
  simp only [regsWf, Bool.and_eq_true] at h ⊢
  show srising none (sput _ s.regs o _) = true ∧ (sput _ s.regs o _).all _ = true
  unfold sput
  split
  · exact ⟨srising_sdel o h.1, all_sdel _ _ _ h.2⟩
  · next hv =>
    refine ⟨srising_sins _ (srising_sdel o h.1) (not_mem_sdel _ _) (by simp), all_sins _ _ _ _ (all_sdel _ _ _ h.2) ?_⟩
    simpa using hv

theorem State.Inv.setReg {s : State} (h : s.Inv) (o v : Nat) : (s.setReg o v).Inv :=
  ⟨h.1, h.2.1, regsWf_setReg o v h.2.2⟩

theorem State.Inv.setField {s : State} (h : s.Inv) (o hi lo v : Nat) : (s.setField o hi lo v).Inv := h.setReg _ _

theorem State.Inv.setFlag {s : State} (h : s.Inv) (o i : Nat) (b : Bool) : (s.setFlag o i b).Inv := h.setReg _ _

theorem State.Inv.countField {s : State} (h : s.Inv) (o hi lo n : Nat) : (s.countField o hi lo n).Inv := h.setReg _ _

/-- The invariant reads device memory, host memory and the registers alone. -/
theorem State.Inv.congr {s t : State} (h : s.Inv) (hd : t.mem.dev = s.mem.dev) (hh : t.mem.host = s.mem.host)
    (hr : t.regs = s.regs) : t.Inv := by
  unfold State.Inv at *
  rw [hd, hh, hr]
  exact h

theorem State.Inv.warn {s : State} (h : s.Inv) (r : LogRec) : (s.warn r).Inv := by
  unfold State.warn
  split
  · exact h.congr rfl rfl rfl
  · exact h.countField _ _ _ _

theorem State.Inv.putLog {s : State} (h : s.Inv) (r : LogRec) : (s.putLog r).Inv := by
  unfold State.putLog
  dsimp only
  split
  · refine State.Inv.countField ?_ _ _ _ _
    exact h.congr rfl rfl rfl
  · refine State.Inv.setField ?_ _ _ _ _
    exact ⟨h.1, Memory.wf_setBytes _ _ _ h.2.1, h.2.2⟩

theorem State.Inv.putLogs {s : State} (h : s.Inv) (rs : List LogRec) : (rs.foldl State.putLog s).Inv := by
  induction rs generalizing s with
  | nil => exact h
  | cons r rs ih => exact ih (h.putLog r)

theorem State.Inv.flushLog {s : State} (h : s.Inv) : s.flushLog.Inv := by
  unfold State.flushLog
  split
  · exact h
  · refine State.Inv.putLogs ?_ _
    exact h.congr rfl rfl rfl

theorem State.Inv.logToHost {s : State} (h : s.Inv) (r : LogRec) : (s.logToHost r).Inv := by
  unfold State.logToHost State.logToRing
  dsimp only
  split
  · refine State.Inv.flushLog ?_
    exact h.congr rfl rfl rfl
  · exact h

theorem State.Inv.logEntry {s : State} (h : s.Inv) (a : LogArgs) : (s.logEntry a).Inv := by
  unfold State.logEntry
  dsimp only
  refine State.Inv.logToHost ?_ _
  split
  · refine State.Inv.warn ?_ _
    exact h.congr rfl rfl rfl
  · exact h.congr rfl rfl rfl

theorem State.Inv.note {s : State} (h : s.Inv) (sev : Nat) (fm : Bool) (source code : Nat) (args : List Nat) (x : Option Nat)
    (status unit : Nat) : (s.note sev fm source code args x status unit).Inv := h.logEntry _

theorem State.Inv.storesRaw {s : State} (h : s.Inv) (x a : Nat) (bs : List Byte) : (s.storesRaw x a bs).Inv := by
  induction bs generalizing s a with
  | nil => exact h
  | cons b r ih =>
    refine ih ?_ _
    unfold State.store
    split
    · exact ⟨h.1, Memory.wf_setByte _ _ _ h.2.1, h.2.2⟩
    · exact ⟨Memory.wf_setByte _ _ _ h.1, h.2.1, h.2.2⟩

theorem State.Inv.stores {s : State} (h : s.Inv) (x a : Nat) (bs : List Byte) : (s.stores x a bs).Inv := by
  unfold State.stores
  dsimp only
  split
  · exact h.storesRaw _ _ _
  · exact (h.storesRaw x a bs).congr rfl rfl rfl

end Sys2Proof.Machine
end

