-- ==== Sys2Proof/Laws/PerInstr.lean ====
section
/-! SUPPORT. What holds of every command as syntax, one lemma for each constructor: a well-formed command names only ports that the
module has (01, 11 Table 11-4). -/

namespace Sys2Proof.Laws.PortsExist

/-- The port codes that a command names. -/
def ports : Instr → List PortCode
  | .frameTransmit p => [p]
  | .frameReceive p _ => [p]
  | .flitDeliver p _ => [p]
  | .reduceCombine p _ => [p]
  | .resendRequest p _ => [p]
  | .resendRetry p _ => [p]
  | .packetReceive p _ => [p]
  | .oldTableRetire p => [p]
  | _ => []

/-- A well-formed command names only ports that exist. -/
def Statement (i : Instr) : Prop := i.wf = true → ∀ p ∈ ports i, Machine.portExists p.toNat = true

/-- A command that names no port. -/
theorem of_none {i : Instr} (h : ports i = []) : Statement i := fun _ p hp => by rw [h] at hp; cases hp

/-- A command that names one port, which its check asks to exist. -/
theorem of_one {i : Instr} {p : PortCode} (h : ports i = [p]) (hw : i.wf = true → Machine.portExists p.toNat = true) : Statement i :=
  fun w q hq => by rw [h, List.mem_singleton] at hq; rw [hq]; exact hw w

theorem tile (h : Hive) : Statement (.tile h) := of_none rfl
theorem drain (h : Hive) : Statement (.drain h) := of_none rfl
theorem wop (h : Hive) : Statement (.wop h) := of_none rfl
theorem signal (h : Hive) : Statement (.signal h) := of_none rfl
theorem wait (h : Hive) : Statement (.wait h) := of_none rfl
theorem barrier (h : Hive) : Statement (.barrier h) := of_none rfl
theorem setx (h : Hive) : Statement (.setx h) := of_none rfl
theorem addx (h : Hive) : Statement (.addx h) := of_none rfl
theorem blt (h : Hive) : Statement (.blt h) := of_none rfl
theorem nop (h : Hive) : Statement (.nop h) := of_none rfl
theorem endStream (h : Hive) : Statement (.endStream h) := of_none rfl
theorem copy (h : Hive) : Statement (.copy h) := of_none rfl
theorem convert (h : Hive) : Statement (.convert h) := of_none rfl
theorem transpose (h : Hive) : Statement (.transpose h) := of_none rfl
theorem addWrite (h : Hive) : Statement (.addWrite h) := of_none rfl
theorem gather (h : Hive) : Statement (.gather h) := of_none rfl
theorem scatterAdd (h : Hive) : Statement (.scatterAdd h) := of_none rfl
theorem runComplete (x : Ctx) : Statement (.runComplete x) := of_none rfl
theorem runSuspended (x : Ctx) : Statement (.runSuspended x) := of_none rfl
theorem waitRelease (w : Waiter) : Statement (.waitRelease w) := of_none rfl
theorem longWait (w : Waiter) : Statement (.longWait w) := of_none rfl
theorem signalMessage (m : SyncMsg) : Statement (.signalMessage m) := of_none rfl
theorem watchMessage (m : SyncMsg) : Statement (.watchMessage m) := of_none rfl
theorem releaseMessage (m : SyncMsg) : Statement (.releaseMessage m) := of_none rfl
theorem barrierArrivalMessage (m : SyncMsg) : Statement (.barrierArrivalMessage m) := of_none rfl
theorem barrierReleaseMessage (m : SyncMsg) : Statement (.barrierReleaseMessage m) := of_none rfl
theorem messageAgeCheck (u : AgeUnit) : Statement (.messageAgeCheck u) := of_none rfl
theorem rebind (f : Func) (x : Ctx) (i : Fin 4096) (v : Word) : Statement (.rebind f x i v) := of_none rfl
theorem rebindEffect (x : Ctx) (i : Fin 4096) : Statement (.rebindEffect x i) := of_none rfl
theorem xlateWrite (f : Func) (x : Ctx) (i : Fin 4096) (v : Word) : Statement (.xlateWrite f x i v) := of_none rfl
theorem barCfgWrite (f : Func) (n : Fin 4368) (j : Option (Fin 64)) (v : Word) : Statement (.barCfgWrite f n j v) := of_none rfl
theorem abandonStep (x : Ctx) : Statement (.abandonStep x) := of_none rfl
theorem abandonRestore (x : Ctx) : Statement (.abandonRestore x) := of_none rfl
theorem replay (x : Ctx) : Statement (.replay x) := of_none rfl
theorem sqTail (f : Func) (x : Ctx) (t : BitVec 32) : Statement (.sqTail f x t) := of_none rfl
theorem cqHead (f : Func) (x : Ctx) (h : BitVec 32) : Statement (.cqHead f x h) := of_none rfl
theorem heartbeat (f : Func) (x : Ctx) (v : BitVec 32) : Statement (.heartbeat f x v) := of_none rfl
theorem descriptorFetch (x : Ctx) : Statement (.descriptorFetch x) := of_none rfl
theorem descriptorArrival (x : Ctx) (st : CplStatus) : Statement (.descriptorArrival x st) := of_none rfl
theorem completionWrite (x : Ctx) (st : CplStatus) : Statement (.completionWrite x st) := of_none rfl
theorem irqTimeout (x : Ctx) : Statement (.irqTimeout x) := of_none rfl
theorem runProgram (x : Ctx) : Statement (.runProgram x) := of_none rfl
theorem dma (x : Ctx) : Statement (.dma x) := of_none rfl
theorem signalCommand (x : Ctx) : Statement (.signalCommand x) := of_none rfl
theorem waitCommand (x : Ctx) : Statement (.waitCommand x) := of_none rfl
theorem barrierCommand (x : Ctx) : Statement (.barrierCommand x) := of_none rfl
theorem updateSweep (x : Ctx) : Statement (.updateSweep x) := of_none rfl
theorem hostStart (x : Ctx) : Statement (.hostStart x) := of_none rfl
theorem hostStop (x : Ctx) : Statement (.hostStop x) := of_none rfl
theorem snapshot (x : Ctx) : Statement (.snapshot x) := of_none rfl
theorem restore (x : Ctx) : Statement (.restore x) := of_none rfl
theorem setTensors (x : Ctx) : Statement (.setTensors x) := of_none rfl
theorem loadLockTable (x : Ctx) : Statement (.loadLockTable x) := of_none rfl
theorem powerHint (x : Ctx) : Statement (.powerHint x) := of_none rfl
theorem hintPhaseStart (x : Ctx) : Statement (.hintPhaseStart x) := of_none rfl
theorem selfTest (x : Ctx) : Statement (.selfTest x) := of_none rfl
theorem suspend (x : Ctx) : Statement (.suspend x) := of_none rfl
theorem resume (x : Ctx) : Statement (.resume x) := of_none rfl
theorem cancel (x : Ctx) : Statement (.cancel x) := of_none rfl
theorem telemetry (x : Ctx) : Statement (.telemetry x) := of_none rfl
theorem scrub (k : ScrubStep) : Statement (.scrub k) := of_none rfl
theorem logMark (x : Ctx) : Statement (.logMark x) := of_none rfl
theorem trace (x : Ctx) : Statement (.trace x) := of_none rfl
theorem fwActivate (x : Ctx) : Statement (.fwActivate x) := of_none rfl
theorem activationStart : Statement .activationStart := of_none rfl
theorem soloRestart (c : Core) : Statement (.soloRestart c) := of_none rfl
theorem coreReady (c : Core) (ok : Bool) : Statement (.coreReady c ok) := of_none rfl
theorem sweepPass1 (x : Ctx) : Statement (.sweepPass1 x) := of_none rfl
theorem normPartial (x : Ctx) (p : NormPartial) : Statement (.normPartial x p) := of_none rfl
theorem normTimeout (x : Ctx) : Statement (.normTimeout x) := of_none rfl
theorem sweepDecision (x : Ctx) : Statement (.sweepDecision x) := of_none rfl
theorem pass2Block (x : Ctx) (e : Stack) : Statement (.pass2Block x e) := of_none rfl
theorem blockStamp (x : Ctx) (e : Stack) : Statement (.blockStamp x e) := of_none rfl
theorem sweepRecovery (x : Ctx) (e : ChamberCheck) : Statement (.sweepRecovery x e) := of_none rfl
theorem sweepRederive (x : Ctx) : Statement (.sweepRederive x) := of_none rfl
theorem commit (x : Ctx) : Statement (.commit x) := of_none rfl
theorem keepalive : Statement .keepalive := of_none rfl
theorem recordReceive (p : Source) (record : List Byte) : Statement (.recordReceive p record) := of_none rfl
theorem commitRecordApply (p : Source) : Statement (.commitRecordApply p) := of_none rfl
theorem ack (step : BitVec 48) (seq : BitVec 32) : Statement (.ack step seq) := of_none rfl
theorem resend (seq : BitVec 32) : Statement (.resend seq) := of_none rfl
theorem undo (u : UndoRecord) : Statement (.undo u) := of_none rfl
theorem resynchronisation : Statement .resynchronisation := of_none rfl
theorem hostRecordWrite : Statement .hostRecordWrite := of_none rfl
theorem expHostHead (f : Func) (v : Word) : Statement (.expHostHead f v) := of_none rfl
theorem expCtrlWrite (f : Func) (v : Word) : Statement (.expCtrlWrite f v) := of_none rfl
theorem partnerLost : Statement .partnerLost := of_none rfl
theorem sourceLost (p : Source) (reported : Bool) : Statement (.sourceLost p reported) := of_none rfl
theorem rankMove (src : MsgSrc) (m : Msg) : Statement (.rankMove src m) := of_none rfl
theorem takeover : Statement .takeover := of_none rfl
theorem jobAction (src : MsgSrc) (m : Msg) : Statement (.jobAction src m) := of_none rfl
theorem jobActionAtLr (x : Ctx) : Statement (.jobActionAtLr x) := of_none rfl
theorem stepHeld (x : Ctx) : Statement (.stepHeld x) := of_none rfl
theorem hiveRotation (d : Die) : Statement (.hiveRotation d) := of_none rfl
theorem earlyRotation (d : Die) : Statement (.earlyRotation d) := of_none rfl
theorem hiveMove (h : Hive) : Statement (.hiveMove h) := of_none rfl
theorem hiveMoveDone (h : Hive) : Statement (.hiveMoveDone h) := of_none rfl
theorem hiveFailure (p : Slot) : Statement (.hiveFailure p) := of_none rfl
theorem hiveReplacement (d : Die) : Statement (.hiveReplacement d) := of_none rfl
theorem sramScrub (a : BitVec 48) (e : SramError) : Statement (.sramScrub a e) := of_none rfl
theorem combLineSpare (c : Sector) : Statement (.combLineSpare c) := of_none rfl
theorem stackAccess (k : Stack) (unit : BitVec 30) (data : Option (List Byte)) (m : StackMeets) : Statement (.stackAccess k unit data m) := of_none rfl
theorem rowRepair (k : Stack) : Statement (.rowRepair k) := of_none rfl
theorem patrolScrub (k : Stack) (unit : BitVec 30) (m : StackMeets) : Statement (.patrolScrub k unit m) := of_none rfl
theorem refresh (k : BankRefresh) : Statement (.refresh k) := of_none rfl
theorem sluiceWindow (k : Stack) : Statement (.sluiceWindow k) := of_none rfl
theorem stackTempRead (k : Stack) (temp : BitVec 8) : Statement (.stackTempRead k temp) := of_none rfl
theorem throttleStepChange (k : Stack) : Statement (.throttleStepChange k) := of_none rfl
theorem channelRetrain (k : Stack) (c : Fin 16) (lanes : List (Fin 72)) : Statement (.channelRetrain k c lanes) := of_none rfl
theorem stackTraining (k : Stack) (t : StackTraining) : Statement (.stackTraining k t) := of_none rfl
theorem sluiceCommit (f : Func) (k : Stack) : Statement (.sluiceCommit f k) := of_none rfl
theorem sluiceApply (k : Stack) : Statement (.sluiceApply k) := of_none rfl
theorem frameTransmit (p : PortCode) : Statement (.frameTransmit p) := of_one rfl (fun w => w)
theorem frameReceive (p : PortCode) (f : FrameArrival) : Statement (.frameReceive p f) := of_one rfl (fun w => (Bool.and_eq_true _ _ ▸ w).1)
theorem flitDeliver (p : PortCode) (b : BitVec 12) : Statement (.flitDeliver p b) := of_one rfl (fun w => w)
theorem reduceCombine (p : PortCode) (b : BitVec 12) : Statement (.reduceCombine p b) := of_one rfl (fun w => w)
theorem resendRequest (p : PortCode) (frame : BitVec 56) : Statement (.resendRequest p frame) := of_one rfl (fun w => w)
theorem resendRetry (p : PortCode) (b : BitVec 12) : Statement (.resendRetry p b) := of_one rfl (fun w => w)
theorem packetReceive (p : PortCode) (k : Packet) : Statement (.packetReceive p k) := of_one rfl (fun w => (Bool.and_eq_true _ _ ▸ w).1)
theorem portDown (p : Sector) (cause : BitVec 8) : Statement (.portDown p cause) := of_none rfl
theorem portErrorWarning (p : Sector) (symbols : Nat) (corrected : Nat) (frames : Nat) (bad : Nat) : Statement (.portErrorWarning p symbols corrected frames bad) := of_none rfl
theorem portTraining (p : Sector) (t : PortTraining) : Statement (.portTraining p t) := of_none rfl
theorem alignmentCheck (p : Sector) (xa : Int) (xb : Int) : Statement (.alignmentCheck p xa xb) := of_none rfl
theorem hallRefLoss : Statement .hallRefLoss := of_none rfl
theorem portCtrlWrite (f : Func) (p : Sector) (v : Word) : Statement (.portCtrlWrite f p v) := of_none rfl
theorem tableSelectArm (f : Func) (v : Word) : Statement (.tableSelectArm f v) := of_none rfl
theorem tableSwitch : Statement .tableSwitch := of_none rfl
theorem oldTableRetire (p : PortCode) : Statement (.oldTableRetire p) := of_one rfl (fun w => w)
theorem canalEdgeLost (c : Fin 64) : Statement (.canalEdgeLost c) := of_none rfl
theorem perst : Statement .perst := of_none rfl
theorem functionLevelReset (f : Func) : Statement (.functionLevelReset f) := of_none rfl
theorem linkDown : Statement .linkDown := of_none rfl
theorem busMasterDisable (f : Func) : Statement (.busMasterDisable f) := of_none rfl
theorem d3hotEntry (f : Func) : Statement (.d3hotEntry f) := of_none rfl
theorem vfDisable : Statement .vfDisable := of_none rfl
theorem completionTimeout (x : Ctx) : Statement (.completionTimeout x) := of_none rfl
theorem heartbeatExpiry (x : Ctx) : Statement (.heartbeatExpiry x) := of_none rfl
theorem contextParked (x : Ctx) : Statement (.contextParked x) := of_none rfl
theorem hostAccessFailure (x : Ctx) (st : CplStatus) : Statement (.hostAccessFailure x st) := of_none rfl
theorem ringCfgWrite (f : Func) (x : Ctx) (v : Word) : Statement (.ringCfgWrite f x v) := of_none rfl
theorem attachResume (f : Func) (x : Ctx) : Statement (.attachResume f x) := of_none rfl
theorem attachReplay (f : Func) (x : Ctx) : Statement (.attachReplay f x) := of_none rfl
theorem attachCancel (f : Func) (x : Ctx) : Statement (.attachCancel f x) := of_none rfl
theorem configRequest (f : Func) (a : ConfigAccess) : Statement (.configRequest f a) := of_none rfl
theorem inSlot (f : Func) (x : Ctx) (dmwr : Bool) (offset : Nat) (data : List Byte) : Statement (.inSlot f x dmwr offset data) := of_none rfl
theorem mailboxAck (m : MailboxId) : Statement (.mailboxAck m) := of_none rfl
theorem outAck (f : Func) (x : Ctx) (v : BitVec 32) : Statement (.outAck f x v) := of_none rfl
theorem identify (src : MsgSrc) (m : Msg) : Statement (.identify src m) := of_none rfl
theorem health (src : MsgSrc) (m : Msg) : Statement (.health src m) := of_none rfl
theorem resetModule (src : MsgSrc) (m : Msg) : Statement (.resetModule src m) := of_none rfl
theorem setBudget (src : MsgSrc) (m : Msg) : Statement (.setBudget src m) := of_none rfl
theorem setFreq (src : MsgSrc) (m : Msg) : Statement (.setFreq src m) := of_none rfl
theorem attest (src : MsgSrc) (m : Msg) : Statement (.attest src m) := of_none rfl
theorem fwActivateMessage (src : MsgSrc) (m : Msg) : Statement (.fwActivateMessage src m) := of_none rfl
theorem pldmUpdateComponent (c : Component) : Statement (.pldmUpdateComponent c) := of_none rfl
theorem getVersion (r : VersionRequest) : Statement (.getVersion r) := of_none rfl
theorem getCapabilities (p : SpdmPort) : Statement (.getCapabilities p) := of_none rfl
theorem negotiateAlgorithms (p : SpdmPort) (rsapss3072 : Bool) (sha256 : Bool) (secp384r1 : Bool) (aes256gcm : Bool) : Statement (.negotiateAlgorithms p rsapss3072 sha256 secp384r1 aes256gcm) := of_none rfl
theorem getDigests (p : SpdmPort) : Statement (.getDigests p) := of_none rfl
theorem getCertificate (p : SpdmPort) (slot : BitVec 8) : Statement (.getCertificate p slot) := of_none rfl
theorem challenge (p : SpdmPort) (slot : BitVec 8) (nonce : BitVec 256) : Statement (.challenge p slot nonce) := of_none rfl
theorem getMeasurements (p : SpdmPort) (block : BitVec 8) (nonce : BitVec 256) : Statement (.getMeasurements p block nonce) := of_none rfl
theorem keyExchange (p : SpdmPort) (slot : BitVec 8) (pubKey : Nat) : Statement (.keyExchange p slot pubKey) := of_none rfl
theorem finish (p : SpdmPort) (verified : Bool) : Statement (.finish p verified) := of_none rfl
theorem endSession (p : SpdmPort) : Statement (.endSession p) := of_none rfl
theorem ideKmRequest (f : Func) (i : Fin 4) (k : IdeKm) : Statement (.ideKmRequest f i k) := of_none rfl
theorem logEntry (a : LogArgs) : Statement (.logEntry a) := of_none rfl
theorem logHeadWrite (f : Func) (v : Word) : Statement (.logHeadWrite f v) := of_none rfl
theorem tracePoint (n : Fin 4096) (args : List Word) : Statement (.tracePoint n args) := of_none rfl
theorem moduleReset : Statement .moduleReset := of_none rfl
theorem bootRom (traySlot : BitVec 2) (trayId : BitVec 6) : Statement (.bootRom traySlot trayId) := of_none rfl
theorem railBringUp : Statement .railBringUp := of_none rfl
theorem imageLoad : Statement .imageLoad := of_none rfl
theorem applyDefaults : Statement .applyDefaults := of_none rfl
theorem protLock (f : Func) (v : Word) : Statement (.protLock f v) := of_none rfl
theorem auxValid : Statement .auxValid := of_none rfl
theorem auxLoss : Statement .auxLoss := of_none rfl
theorem hvInValid : Statement .hvInValid := of_none rfl
theorem hvInOutOfRange (dv : Nat) : Statement (.hvInOutOfRange dv) := of_none rfl
theorem hvInReturn : Statement .hvInReturn := of_none rfl
theorem convAlert (ns : Nat) : Statement (.convAlert ns) := of_none rfl
theorem converterFault (i : Fin 4) : Statement (.converterFault i) := of_none rfl
theorem lowestStateExit : Statement .lowestStateExit := of_none rfl
theorem droopStretch (island : Fin 472) (margin : Int) : Statement (.droopStretch island margin) := of_none rfl
theorem droopRecovery (island : Fin 472) (margin : Int) (cycles : Nat) : Statement (.droopRecovery island margin cycles) := of_none rfl
theorem currentLimiter (d : Die) (current : Nat) : Statement (.currentLimiter d current) := of_none rfl
theorem regulatorStep (region : Fin 1812) (margin : Int) : Statement (.regulatorStep region margin) := of_none rfl
theorem marginShort (region : Fin 1812) (margin : Int) : Statement (.marginShort region margin) := of_none rfl
theorem powerLoop (r : PowerReading) : Statement (.powerLoop r) := of_none rfl
theorem estimatorFault (measured : Nat) (estimate : Nat) : Statement (.estimatorFault measured estimate) := of_none rfl
theorem budgetLockCycle : Statement .budgetLockCycle := of_none rfl
theorem freqSwitch : Statement .freqSwitch := of_none rfl
theorem junctionConversion (n : Fin 1280) (reading : Option Int) : Statement (.junctionConversion n reading) := of_none rfl
theorem thermtripRelease : Statement .thermtripRelease := of_none rfl
theorem thermtripInput (low : Bool) : Statement (.thermtripInput low) := of_none rfl
theorem flowPulse (widthUs : Nat) : Statement (.flowPulse widthUs) := of_none rfl
theorem flowDecay : Statement .flowDecay := of_none rfl
theorem flowStop : Statement .flowStop := of_none rfl
theorem flowStopRelease : Statement .flowStopRelease := of_none rfl
theorem coolantRead (inlet : Option Int) (outlet : Option Int) : Statement (.coolantRead inlet outlet) := of_none rfl
theorem flowLow : Statement .flowLow := of_none rfl
theorem inletHigh : Statement .inletHigh := of_none rfl
theorem capBinding : Statement .capBinding := of_none rfl
theorem errorCountClear (f : Func) (offset : BitVec 26) (v : Word) : Statement (.errorCountClear f offset v) := of_none rfl
theorem registerWrite (f : Func) (offset : BitVec 26) (bytes : Nat) (v : Word) : Statement (.registerWrite f offset bytes v) := of_none rfl
theorem stackCatastrophicTemperature (k : Stack) : Statement (.stackCatastrophicTemperature k) := of_none rfl
theorem convAlertNRelease : Statement .convAlertNRelease := of_none rfl
theorem perstNDeasserted : Statement .perstNDeasserted := of_none rfl
theorem hallRefReturn : Statement .hallRefReturn := of_none rfl
theorem anchorSet : Statement .anchorSet := of_none rfl
theorem ownerModeFuseWrite (mode : BitVec 2) (hash : BitVec 256) : Statement (.ownerModeFuseWrite mode hash) := of_none rfl
theorem dynamicAddressAssignment (static : I3cRequest) (addr : BitVec 7) : Statement (.dynamicAddressAssignment static addr) := of_none rfl
theorem mctpControlMessage (command : MctpMessage) (data : List Byte) : Statement (.mctpControlMessage command data) := of_none rfl

end Sys2Proof.Laws.PortsExist
end

