-- ==== Sys2Proof/Laws/Power.lean ====
section
/-! SUPPORT. The lowest state of 15 Table 15-4: what entering it writes, and what else stays. -/

namespace Sys2Proof.Machine

/-- The issue registers of two dies differ. -/
theorem Off.pwrDieStat_ne {d e : Nat} (h : d ≠ e) : Off.pwrDieStat d ≠ Off.pwrDieStat e := by
  unfold Off.pwrDieStat
  omega

/-- A fold of field writes over dies leaves registers that belong to no die. -/
theorem State.reg_dieFold (l : List Nat) (s : State) (hi lo : Nat) (n : Nat → Nat) {o : Nat}
    (h : ∀ d ∈ l, o ≠ Off.pwrDieStat d) :
    (l.foldl (fun s d => s.setField (Off.pwrDieStat d) hi lo (n d)) s).reg o = s.reg o := by
  induction l generalizing s with
  | nil => rfl
  | cons d r ih =>
    rw [List.foldl_cons, ih _ (fun e he => h e (List.mem_cons_of_mem _ he)), State.reg_setField_ne]
    exact h d List.mem_cons_self

theorem State.reg_setIssue (s : State) (n : Nat) {o : Nat} (h : ∀ d < 64, o ≠ Off.pwrDieStat d) :
    (s.setIssue n).reg o = s.reg o := by
  exact s.reg_dieFold _ 4 0 (fun _ => n) (fun d hd => h d (List.mem_range.mp hd))

theorem State.field_dieFold (l : List Nat) (s : State) (n d : Nat) (hn : n < 32) (hd : d ∈ l ∨ s.field (Off.pwrDieStat d) 4 0 = n) :
    (l.foldl (fun s d => s.setField (Off.pwrDieStat d) 4 0 n) s).field (Off.pwrDieStat d) 4 0 = n := by
  induction l generalizing s with
  | nil => simpa using hd
  | cons e r ih =>
    rw [List.foldl_cons]
    apply ih
    by_cases h : d = e
    · right
      rw [h, State.field_setField_self _ _ _ _ _ (by decide) (by decide)]
      omega
    · rcases hd with hd | hd
      · left
        simpa [h] using hd
      · right
        rw [State.field_setField_ne _ _ _ _ _ _ (Off.pwrDieStat_ne h), hd]

/-- Every compute die takes the issue rate. -/
theorem State.field_setIssue (s : State) (n d : Nat) (hn : n < 32) (hd : d < 64) :
    (s.setIssue n).field (Off.pwrDieStat d) 4 0 = n :=
  s.field_dieFold _ n d hn (.inl (List.mem_range.mpr hd))

theorem Kept.setIssue {as : List Area} {s t : State} (h : Kept as s t) (ha : Area.regs ∈ as) (n : Nat) :
    Kept as s (t.setIssue n) :=
  h.foldl _ _ fun _ _ _ hu => hu.setField ha _ _ _ _

/-- Entering the lowest state writes registers alone. -/
theorem Kept.enterLowest {as : List Area} {s t : State} (h : Kept as s t) (ha : Area.regs ∈ as) : Kept as s t.enterLowest :=
  (((((h.setFlag ha _ _ _).setField ha _ _ _ _).setField ha _ _ _ _).setField ha _ _ _ _)).setIssue ha _

/-- The registers that entering the lowest state writes. -/
def lowestRegs : List Nat := [Off.pwrLimitStat, Off.pwrMode] ++ (List.range 64).map Off.pwrDieStat

theorem RegsKept.enterLowest {os : List Nat} {s t : State} (h : RegsKept os s t) (ho : lowestRegs ⊆ os) :
    RegsKept os s t.enterLowest := by
  have h1 : Off.pwrLimitStat ∈ os := ho (by simp [lowestRegs])
  have h2 : Off.pwrMode ∈ os := ho (by simp [lowestRegs])
  refine RegsKept.foldl (((((h.setFlag h1 _ _).setField h2 _ _ _).setField h1 _ _ _).setField h1 _ _ _)) _ _ fun u d hd hu => ?_
  exact hu.setField (ho (by simp only [lowestRegs, List.mem_append, List.mem_map]; exact .inr ⟨d, hd, rfl⟩)) _ _ _

theorem Kept.showEmergency {as : List Area} {s t : State} (h : Kept as s t) (h1 : Area.regs ∈ as) (h2 : t.emergency = true ∨ Area.fw ∈ as) :
    Kept as s t.showEmergency := by
  unfold State.showEmergency
  dsimp only
  refine Kept.setFlag (Kept.setFlag ?_ h1 _ _ _) h1 _ _ _
  split
  · exact h
  · next e =>
    split
    · rcases h2 with h2 | h2
      · simp_all
      · exact h.fw h2 _
    · exact h

theorem RegsKept.showEmergency {os : List Nat} {s t : State} (h : RegsKept os s t) (h1 : Off.fwlFwStat ∈ os) (h2 : Off.hifModuleStat ∈ os) :
    RegsKept os s t.showEmergency := by
  unfold State.showEmergency
  dsimp only
  refine RegsKept.setFlag (RegsKept.setFlag ?_ h1 _ _) h2 _ _
  split
  · exact h
  · split
    · exact h.of_regs rfl
    · exact h

theorem State.reg_showEmergency (s : State) {o : Nat} (h1 : o ≠ Off.fwlFwStat) (h2 : o ≠ Off.hifModuleStat) : s.showEmergency.reg o = s.reg o :=
  (RegsKept.refl [Off.fwlFwStat, Off.hifModuleStat] s).showEmergency (by simp) (by simp) o (by simp [h1, h2])

theorem State.flag_showEmergency (s : State) : s.showEmergency.flag Off.fwlFwStat 61 = s.emergency := by
  unfold State.showEmergency
  dsimp only
  rw [State.flag_setFlag_ne _ _ _ _ (by decide), State.flag_setFlag_self _ _ _ _ (by decide)]

theorem State.reg_enterLowest (s : State) {o : Nat} (h : o ∉ lowestRegs) : s.enterLowest.reg o = s.reg o :=
  (RegsKept.refl lowestRegs s).enterLowest (by simp) o h

theorem State.AtLowest.congr {s t : State} (h : s.AtLowest) (g : ∀ o ∈ lowestRegs, t.reg o = s.reg o) : t.AtLowest := by
  obtain ⟨a, b, c, d, e⟩ := h
  have g1 := g Off.pwrLimitStat (by simp [lowestRegs])
  have g2 := g Off.pwrMode (by simp [lowestRegs])
  refine ⟨?_, ?_, ?_, ?_, fun k hk => ?_⟩
  · simpa [State.lowest, State.flag, g1] using a
  · simpa [State.clock, State.field, g2] using b
  · simpa [State.issue, State.field, g1] using c
  · simpa [State.memFrac, State.field, g1] using d
  · rw [State.field, g _ (by simp only [lowestRegs, List.mem_append, List.mem_map, List.mem_range]; exact .inr ⟨k, hk, rfl⟩)]
    exact e k hk

theorem Off.ne_pwrDieStat (o : Nat) (h : o < 0x2001000 ∨ 0x2001200 ≤ o) : ∀ d < 64, o ≠ Off.pwrDieStat d := by
  intro d hd
  unfold Off.pwrDieStat
  omega

theorem State.enterLowest_atLowest (s : State) : s.enterLowest.AtLowest := by
  unfold State.enterLowest
  dsimp only
  refine ⟨?_, ?_, ?_, ?_, fun d hd => State.field_setIssue _ _ _ (by decide) hd⟩
  · unfold State.lowest State.flag
    rw [State.reg_setIssue _ _ (Off.ne_pwrDieStat _ (by decide)), ← State.flag, State.flag_setField_apart _ _ _ _ _ _ (by decide) (by decide) (by decide),
      State.flag_setField_apart _ _ _ _ _ _ (by decide) (by decide) (by decide), State.flag_setField_ne _ _ _ _ _ (by decide),
      State.flag_setFlag_self _ _ _ _ (by decide)]
  · unfold State.clock State.field
    rw [State.reg_setIssue _ _ (Off.ne_pwrDieStat _ (by decide)), ← State.field, State.field_setField_ne _ _ _ _ _ _ (by decide),
      State.field_setField_ne _ _ _ _ _ _ (by decide), State.field_setField_self _ _ _ _ _ (by decide) (by decide)]
    all_goals rfl
  · unfold State.issue State.field
    rw [State.reg_setIssue _ _ (Off.ne_pwrDieStat _ (by decide)), ← State.field, State.field_setField_apart _ _ _ _ _ _ _ (by decide) (by decide) (by decide),
      State.field_setField_self _ _ _ _ _ (by decide) (by decide)]
    all_goals rfl
  · unfold State.memFrac State.field
    rw [State.reg_setIssue _ _ (Off.ne_pwrDieStat _ (by decide)), ← State.field, State.field_setField_self _ _ _ _ _ (by decide) (by decide)]
    all_goals rfl

theorem lowestRegs_sub : lowestRegs ⊆ emergencyRegs := by
  intro o h
  simp only [lowestRegs, emergencyRegs, List.mem_append, List.mem_cons] at *
  rcases h with (h | h | h) | h <;> simp_all

theorem lowestRegs_range {o : Nat} (h : o ∈ lowestRegs) : 0x2000000 ≤ o ∧ o < 0x2001200 := by
  simp only [lowestRegs, List.mem_append, List.mem_map, List.mem_cons, List.mem_range] at h
  rcases h with (h | h | h) | ⟨d, hd, h⟩
  · rw [h]; decide
  · rw [h]; decide
  · cases h
  · unfold Off.pwrDieStat at h
    omega

/-- Showing the emergency leaves the lowest state as it is. -/
theorem State.AtLowest.shown {u : State} (h : u.AtLowest) (b : Bool) :
    (State.showEmergency (if b && !u.forced then { u with pwr := { u.pwr with released := u.clk.now } } else u)).AtLowest := by
  refine h.congr fun o ho => ?_
  have hr := lowestRegs_range ho
  have h1 : o ≠ Off.fwlFwStat := by unfold Off.fwlFwStat; omega
  have h2 : o ≠ Off.hifModuleStat := by unfold Off.hifModuleStat; omega
  rw [State.reg_showEmergency _ h1 h2]
  split <;> rfl

/-- What forces the lowest state puts the module in it. -/
theorem State.limitsMoved_atLowest {s : State} (b : Bool) (hf : s.forced = true) (hl : s.lowest = false) :
    (s.limitsMoved b).AtLowest := by
  have h := s.enterLowest_atLowest.shown b
  unfold State.limitsMoved
  rw [hf, hl]
  exact h

theorem Kept.limitsMoved {as : List Area} {s t : State} (h : Kept as s t) (h1 : Area.regs ∈ as) (h2 : Area.pwr ∈ as)
    (h3 : Area.fw ∈ as) (b : Bool) : Kept as s (t.limitsMoved b) := by
  unfold State.limitsMoved
  dsimp only
  refine Kept.showEmergency ?_ h1 (.inr h3)
  have hu : Kept as s (if t.forced && !t.lowest then t.enterLowest else t) := by
    split
    · exact h.enterLowest h1
    · exact h
  generalize (if t.forced && !t.lowest then t.enterLowest else t) = u at *
  split
  · exact hu.pwr h2 _
  · exact hu

theorem RegsKept.limitsMoved {os : List Nat} {s t : State} (h : RegsKept os s t) (ho : emergencyRegs ⊆ os) (b : Bool) :
    RegsKept os s (t.limitsMoved b) := by
  unfold State.limitsMoved
  dsimp only
  refine RegsKept.showEmergency ?_ (ho (by simp [emergencyRegs])) (ho (by simp [emergencyRegs]))
  have hl : lowestRegs ⊆ os := fun _ h => ho (lowestRegs_sub h)
  have hu : RegsKept os s (if t.forced && !t.lowest then t.enterLowest else t) := by
    split
    · exact h.enterLowest hl
    · exact h
  generalize (if t.forced && !t.lowest then t.enterLowest else t) = u at *
  split
  · exact hu.of_regs rfl
  · exact hu

end Sys2Proof.Machine
end

