-- ==== Sys2Proof/Tests/Slice0.lean ====
section
/-! SUPPORT. Checks of the model: the results that the spec's worked examples and tables print, a command that cannot be given
for every check of well-formedness, and for every statement one state and operands, per clause, that meet its hypotheses. -/

open Sys2Proof Sys2Proof.Machine

namespace Sys2Proof.Tests

set_option Elab.async false

/-! ### States to test on -/

/-- The state with registers written. -/
def withRegs (l : List (Nat × Nat)) (s : State) : State := l.foldl (fun s e => s.setReg e.1 e.2) s

/-- A module at work: booted, linked to its host, locked, with its host log ring on. -/
def on : State := withRegs [(Off.hifModuleStat, 7), (Off.hifLinkStat, 2), (Off.hifFuncStat 0, 0xA000000000000000),
    (Off.fwlLogCfg, 0x8000000A), (Off.fwlLogBase, 0x100000)]
  { State.reset with
    clk := { now := 20000000000000, frame := 781250000, lock := true }
    pwr := { aux := true, hv := true, rails := true }
    io := { perst := false } }

/-- What the loop reads: 1,000 W for every setting. -/
def rd : PowerReading :=
  ⟨500, 1500, 1500, 1600, 3900, List.replicate 15 (List.replicate 16 1000), List.replicate 9 200⟩

/-- The state with parts of one kind changed. -/
def th (s : State) (f : Thermal → Thermal) : State := { s with thm := f s.thm }
def pw (s : State) (f : Power → Power) : State := { s with pwr := f s.pwr }
def hv (s : State) (f : Hives → Hives) : State := { s with hive := f s.hive }
def fwm (s : State) (f : Firmware → Firmware) : State := { s with fw := f s.fw }

/-- At a step of boot. -/
def booting (n : Nat) : State := on.setField Off.hifModuleStat 3 0 n

/-- A command of context 0 with an index, an opcode and a body. -/
def cm (idx op : Nat) (body : Nat := 0) (ph : Phase := .waiting) : Cmd :=
  { idx := idx, desc := BitVec.ofNat 512 (op + 0x10000 + 2 ^ 64 * body), phase := ph }

/-- Context 0, ACTIVE, with rings of 64 slots. -/
def c0 : CtxSt := { state := 1, sqBase := 0x200000, cqBase := 0x201000, sqLog := 6, cqLog := 6 }

/-- The module with commands on the ring of context 0. -/
def ring (ds : List Cmd) : State := { on with ctxs := [(0, { c0 with cmds := ds })] }

/-- Hive 0 runs a program of context 0 whose words stand at 0x1000. -/
def prog (ws : List Nat) (f : HiveState → HiveState := id) : State :=
  { on with
    mem := { dev := Memory.setBytes [] 0x1000 ((ws.map (fun w => natLe w 16)).flatten) }
    ctxs := [(0, { c0 with cmds := [cm 1 1 0 .started], runs := [⟨1, 0, [0], none, false⟩] })]
    hive := { hives := [(0, f { run := some (0, 1), fetching := true, base := 0x1000, len := ws.length })] } }

/-- Identifier 5 of context 0 names counter 7; or barrier slot 3, with queue 5 of hive 0 as its one participant. -/
def xl (s : State) : State := withRegs [(Off.synXlate 0 5, 0x8000000000000007)] s
def xb (s : State) : State :=
  withRegs [(Off.synXlate 0 5, 0xA000000000000003), (Off.synBarCfg 3, 2 ^ 48), (Off.synBarPart 3 0, 0x500)] s

/-- The state that an entry leaves, and the value of a result. -/
def doneOf (r : Ran) : State :=
  match r with
  | .done t => t
  | _ => on
def okOf {ε α : Type} (d : α) (r : Except ε α) : α :=
  match r with
  | .ok a => a
  | .error _ => d

/-- A result is good; an entry is done. -/
def isOk {ε α : Type} : Except ε α → Bool
  | .ok _ => true
  | .error _ => false
def isDone : Ran → Bool
  | .done _ => true
  | _ => false
theorem ok_of {ε α : Type} (d : α) (r : Except ε α) (h : isOk r = true) : r = .ok (okOf d r) := by
  cases r with
  | ok a => rfl
  | error e => exact Bool.noConfusion h
theorem done_of (r : Ran) (h : isDone r = true) : r = .done (doneOf r) := by
  cases r with
  | done t => rfl
  | hold t i => exact Bool.noConfusion h
  | fail t e => exact Bool.noConfusion h

/-- Hive 0 with a SIGNAL for queue 5 as its next instruction, and what its account gives. -/
def sig : State := xl (prog [0x40 + 5 * 2^8 + 2^11 + 5 * 2^12 + 2^24])
def sigAcct : HiveState := okOf {} ((sig.fetched 0 0).acctInsn 0 0 (sig.hiveSt 0) (.signal 5 false 5 1))
def sigDone : State := doneOf ((sig.placed 0 0 5 (.signal false 5 1) sigAcct).runEntry 0 0 5 sigAcct.mode
  { pos := sigAcct.pos, op := .signal false 5 1 })

/-- A message of this module, as old as a lock cycle tells. -/
def sm (type : BitVec 4) (object : BitVec 16) (value : BitVec 48) (tag : BitVec 16 := 0) (age : Nat := 0) : SyncMsg :=
  ⟨type, 0, 0, object, 0, 0, BitVec.ofNat 8 (on.lockCycle - age), value, tag⟩

/-- Bytes of a sweep table at 0x9000 with one group of one parameter, its records and its arrays (08 Tables 8-2, 8-3). -/
def tableBytes : List Byte :=
  natLe 0x53574550 4 ++ natLe 1 4 ++ natLe 1 8 ++ natLe 6 8 ++ natLe 0 8 ++ natLe 0x9180 8 ++ natLe 0x3F800000 4
    ++ natLe 0x3F800000 4 ++ natLe 0 16
    ++ (([0x9200, 0x9240, 0, 0x9280, 0x92C0, 0x9300, 0x9340].map (fun a => natLe a 8)).flatten ++ natLe 1 8 ++ natLe 0 12
      ++ natLe 0x3F800000 4 ++ natLe 0 4 ++ natLe 0x1FFFF 44)

/-- Device memory with that table, a gradient of 2 and decay products of 1. -/
def tableMem : Memory :=
  (((Memory.setBytes [] 0x9000 tableBytes).setNat 0x9200 4 0x40000000).setNat 0x9350 4 0x3F800000).setNat 0x9354 4 0x3F800000

/-- The same with a target of one BF16 value at 0x9400 (08 Table 8-4). -/
def tgtMem : Memory :=
  ((((tableMem.setNat 0x900A 2 1).setNat 0x9038 4 0xC0).setNat 0x90C4 8 (1 + 2 ^ 32)).setNat 0x90D0 6 0x9400).setNat 0x90D8 1 5

/-- The stack 0 gives no bus time to its partition 0. -/
def shut (s : State) : State := s.modStk 0 (fun v => { v with shares := [(0, 0)] })

/-- Context 0 in a sweep over that table. -/
def sw (p : SweepPhase) : Sweep := { idx := 1, table := 0x9000, phase := p }
def swp (w : Sweep) (f : CtxSt → CtxSt := id) : State :=
  { on with mem := { dev := tableMem }, ctxs := [(0, f { c0 with cmds := [cm 1 6 0x9000 .started], sweep := some w })] }

/-- A layer's step boundary changes only the layers, so that an applied sweep re-derives the targets of its own table. -/
theorem advance_layers (w : Sweep) (s : State) (ns : List Nat) :
    ∃ l, ns.foldl (fun s n => s.advanceLayer w n) s = { s with layers := l } := by
  induction ns generalizing s with
  | nil => exact ⟨_, rfl⟩
  | cons n ns ih => obtain ⟨l, h⟩ := ih (s.advanceLayer w n); exact ⟨l, h⟩
theorem rederive_all (w : Sweep) (s : State) (ns : List Nat) (x : Nat) (b : Nat → Bool) (h : w.applied = true) :
    s.tgts x w.table = (ns.foldl (fun s n => s.advanceLayer w n) s).rederiveTargets x w b := by
  obtain ⟨l, e⟩ := advance_layers w s ns
  rw [e, State.rederiveTargets, h]
  simp only [Bool.true_or]
  rw [List.filter_eq_self.2 (fun _ _ => rfl)]
  rfl

/-- The module with a port in a state. -/
def pt (t : PortSt) (s : State := on) (p : Nat := 0) : State := { s with lnk := { s.lnk with ports := [(p, t)] } }

/-- A barge of a kind whose window stands at 0x5000, with counters 7 and 8, and a table that holds it. -/
def barge (kind : Nat) (msg : Bool := false) : Barge := ⟨kind, msg, false, 0, 9, 7, 8, 0x5000, 0x6000, 128, 0, 0⟩
def tab (kind : Nat) (tag : Nat := 0) : LockTable := { tag := tag, barges := [barge kind], tx := [(0, some 0)] }

/-- A place that waits for a flit, or holds one of data. -/
def berth (flit : Option (Bool × List Byte)) (asks : Nat := 1) : Berth := ⟨5, 2, flit, 0, asks, 0, none⟩

/-- Context 0 with a LOAD_LOCK_TABLE of the image at 0x10000: one barge in a table of port 0 (11 Tables 11-4, 11-5). -/
def lockImage (desc : Nat) (cmd : Cmd) (magic : Nat := 0x4C4B5442) : State :=
  { ring [cmd] with
    mem := { dev := (((Memory.setNat [] 0x10000 4 magic).setNat 0x10004 2 1).setNat 0x1000A 2 1).setNat 0x38040 32 desc } }

/-- A message of a type with a payload (14 Table 14-9). -/
def mg (type : BitVec 15) (payload : List Byte) : Msg := ⟨3, 0, type, false, 1, BitVec.ofNat 16 payload.length, payload⟩

/-- The module with a mailbox in a state. -/
def bx (k : Nat) (b : Mailbox) (s : State := on) : State := { s with mail := { s.mail with boxes := [(k, b)] } }

/-- The module with the SPDM connection of a requester. -/
def conn (v : Spdm) (p : SpdmPort := .doe 0) (streams : SMap (Option IdeStream) := []) : State :=
  { on with io := { on.io with spdm := [(spdmKey p, v)], streams := streams } }

/-- A log entry's fields. -/
def la (fm : Bool) : LogArgs := ⟨3, fm, none, 0, 0x0A10, 0, 0, [5]⟩

/-- The row of the register map at an offset, with its indices. -/
def rowAt (o : Nat) : RegRow × Nat × Nat :=
  match regAt o with
  | some e => e
  | none => (⟨.hifId, 0, 0, 1, 0, 1, 8, .ro, .none, 0, 0, 0, 0⟩, 0, 0)

/-- Entries of a hive's queues: a tile of one step, a drain of one element, a WOP of one row, a copy of 64 bytes. -/
def tileOp : TileOp :=
  { eng := 0, m := 32, n := 32, opens := true, masked := false, group := 0, byBlock := false, k := 1, fmtA := 5, fmtB := 5
    aOff := 0, bOff := 0x10000, maskOff := 0, rowBlk := 0 }
def drainOp : DrainOp :=
  { eng := 0, accum := false, discard := false, group := 0, byBlock := false, fmt := 6, dstOff := 0x20000, maskOff := 0
    row0 := 0, col0 := 0, pitch := 1 }
def wopOp : WopOp :=
  { func := 1, srcFmt := 6, dstFmt := 6, part := false, srcOff := 0, dstOff := 0x20000, auxOff := 0, rows := 1, len := 1
    x7 := 0 }
def dmaOp : DmaOp :=
  { mode := 0, masked := false, byBlock := false, src := 0x1000, dst := 0x2000, count := 64, cols := 0, maskOff := 0
    srcFmt := 0, dstFmt := 0, pitch := 0 }

/-- Hive 0 with an open group of one element to drain. -/
def drainable : State :=
  prog [] (fun v => { v with groups := [(0, { m := 1, n := 1, live := true, entries := [(0, [0x3F800000])] })] })


/-- The module with a word of stack 3 to repair whose bank has no repair left. -/
def spent (a : Nat) : State :=
  { on with stks := [(3, { repairs := [(a, 6)], repairsUsed := [(bankKey a, Config.bankRepairs (bankKey a) + 1)] })] }
theorem spent_rowSpare : (spent 0x1800000040).rowSpare 0x1800000040 = false := by
  have h (b n : Nat) : sget 0 [(b, n + 1)] b = n + 1 := by simp [sget]
  refine decide_eq_false (Nat.not_lt.2 (Nat.le_trans (Nat.le_of_eq ?_) (Nat.le_add_right _ _)))
  exact (h _ _).symm
theorem first_rowSpare (s : State) (a k : Nat) (h : (s.stk (a / 0x800000000)).repairs = [(a, k)])
    (hu : (s.stk (a / 0x800000000)).repairsUsed = []) : s.rowSpare a = true := by
  simp [State.rowSpare, StackSt.rowsDue, h, hu]

/-- No bus time for any stack. -/
def dry : State := on.setReg Off.pwrLimitStat 0

/-- What an access of a stack meets in a lane. -/
def lane (l : Fin 36) (v : BitVec 8) : StackMeets := ⟨[⟨l, v⟩], 0, 0⟩

/-- A SCRUB of 64 bytes of stack 3, some accesses in. -/
def scrubCmd (done : Nat) : Cmd :=
  { cm 1 0x20 (2 + 0x1800000000 * 2 ^ 64 + 64 * 2 ^ 128) .started with progress := done }

/-- Stack 3 is the only one trained. -/
def one3 : State := withRegs [(Off.memTherm 3, 0x5F0000)] (State.modStk (on) 3 (fun v => { v with trained := true }))
/-- Hive 9 is the only one that moves. -/
def moves9 : State :=
  { hv (on) (fun v => { v with moving := [(9, some 0)], slotOf := [(9, some 0)] }) with sync := { held := [.signal 0 2304 1 (.queue 9 2 0)] } }
theorem moving_off (l : Nat) (h : l ≠ 9) : moves9.movingTo l = none := by
  show sget none [(9, some 0)] l = none
  rw [sget, if_neg (Ne.symm h)]
  rfl
theorem trained_off (m : Nat) (h : m ≠ 3) : (one3.stk m).trained = false := by
  show (sget ({} : StackSt) (smod {} [] 3 (fun v => { v with trained := true })) m).trained = false
  rw [sget_smod, if_neg h]
  rfl

/-- A mirror entry whose spool holds a step of a COMMIT record alone, of one tensor header, and what applying it gives. -/
def mirClose : List Byte := recordBytes 8 kCommit 0 0 5 0 (natLe 0 6 ++ natLe 0xA000 6) (natLe 77 64) 0
def mirAp : State :=
  withRegs [(Off.updMirrorIn 2, 2 ^ 63 + 2 ^ 49 * 9), (Off.updMirrorSpool 2, 2 ^ 32), (Off.updExpCtrl, 2 ^ 34 * 4)]
    { on with fail := { mirrors := [(2, { state := 1, applied := 4, spool := [mirClose], ctxs := [(0, { inStep := true, applied := 4, undoImage := [3] })] })] } }
def mirRes : State × Writes := okOf (on, []) (mirAp.applyStep 2 ([] ++ [mirClose]) [])

/-- A map without keys in a range reads the default there. -/
theorem sget_off {α : Type} (d : α) (m : List (Nat × α)) (p : Nat → Bool) (n : Nat)
    (h : m.all (fun e => p e.1) = true) (hn : p n = false) : sget d m n = d := by
  induction m with
  | nil => rfl
  | cons e r ih =>
    obtain ⟨k, v⟩ := e
    simp only [List.all_cons, Bool.and_eq_true] at h
    have hk : k ≠ n := fun e => by subst e; rw [h.1] at hn; exact Bool.noConfusion hn
    simp only [sget, if_neg hk]
    exact ih h.2

/-- A context reads zeros where the memory of the stacks lists nothing. -/
theorem loadNat_off (s : State) (x a n : Nat) (p : Nat → Bool) (h : s.mem.dev.all (fun e => p e.1) = true)
    (ha : ∀ i, i < n → a + i < 0x8000000000 ∧ p (a + i) = false) : s.loadNat x a n = 0 := by
  have h0 : ∀ (l : List Nat), (∀ i ∈ l, s.load x (a + i) = 0) → leNat (l.map (fun i => s.load x (a + i))) = 0 := by
    intro l hl
    induction l with
    | nil => rfl
    | cons i r ih =>
      simp only [List.map_cons, leNat, hl i (List.mem_cons_self ..)]
      rw [ih (fun j hj => hl j (List.mem_cons_of_mem _ hj))]
      rfl
  refine h0 _ (fun i hi => ?_)
  obtain ⟨hlt, hp⟩ := ha i (List.mem_range.1 hi)
  have h1 : isHostAddr (a + i) = false := by simp only [isHostAddr, decide_eq_false_iff_not]; omega
  have h2 : s.devKey (a + i) = a + i := by
    simp only [State.devKey, placeOf, if_pos (show a + i < 0x10000000000 by omega)]
    split <;> rename_i e <;> first | rfl | (split at e <;> exact Place.noConfusion e)
  rw [State.load, h1, h2]
  exact sget_off 0 s.mem.dev p _ h hp

/-- An image that assigns no slot passes its checks if its barges do. -/
theorem imageCheck_free (s : State) (m : TableImage) (hf : ∀ f ∈ m.fields, f = (0, 0))
    (h : s.imageCheck { m with fields := [] } = none) : s.imageCheck m = none := by
  have hs : (List.range m.fields.length).findSome? (fun k =>
      (slotCheck (m.descs.map bargeOf) (k / 40) true (m.fields.getD k (0, 0)).1).orElse
        (fun _ => slotCheck (m.descs.map bargeOf) (k / 40) false (m.fields.getD k (0, 0)).2)) = none := by
    refine List.findSome?_eq_none_iff.2 (fun k hk => ?_)
    have hk := List.mem_range.1 hk
    have e : m.fields.getD k (0, 0) = (0, 0) := by
      rw [List.getD_eq_getElem?_getD, List.getElem?_eq_getElem hk]
      exact hf _ (List.getElem_mem hk)
    rw [e]
    rfl
  unfold State.imageCheck at h ⊢
  simp only [] at h ⊢
  rw [hs]
  exact h

/-- The image of `lockImage` assigns no slot. -/
theorem lockImage_free (s : State) (h : s.mem.dev.all (fun e => decide (e.1 < 0x10040 ∨ 0x38040 ≤ e.1)) = true) :
    ∀ f ∈ (s.tableImage 0 0x10000).fields, f = (0, 0) := by
  intro f hf
  simp only [State.tableImage, List.mem_map, List.mem_range] at hf
  obtain ⟨k, hk, rfl⟩ := hf
  rw [loadNat_off s 0 _ 2 (fun n => decide (n < 0x10040 ∨ 0x38040 ≤ n)) h
      (fun i hi => ⟨by omega, by simp only [decide_eq_false_iff_not]; omega⟩),
    loadNat_off s 0 _ 2 (fun n => decide (n < 0x10040 ∨ 0x38040 ≤ n)) h
      (fun i hi => ⟨by omega, by simp only [decide_eq_false_iff_not]; omega⟩)]

/-! ### The spec's worked examples -/

/-- The next state that a command leaves. -/
def nx (o : Host.Outcome State Fault Refusal) : State :=
  match o with
  | .next t => t
  | .fault _ => on
  | .refused _ => on

/-- 03, Worked example: an FP4 block. Its scale byte and its codes. -/
def fp4 : List Fp := [f32Val 0x3F500000, f32Val 0xBED00000, f32Val 0x3DCCCCCD, f32Val 0x3CC00000, .zero]
theorem test_fp4_scale : (chooseScale fp4 0x3F800000 0 0).1 = 0x7C := by decide +kernel
theorem test_fp4_codes :
    (chooseScale fp4 0x3F800000 0 0).2.1.map (fun v => (rneSat 0 (v.scale 3)).1) = [0x7, 0xD, 0x2, 0x0, 0x0] := by decide +kernel
theorem test_fp4_raise : (chooseScale [f32Val 0x3F600000] 0x3F800000 0 0).1 = 0x7D := by decide +kernel

/-- 08, Worked example: an update below half an ULP. Steps 1 and 33. -/
theorem test_residue_first : splitMaster 0x3F7FFD00 = (0x3F80, 0xFE) := by decide +kernel
theorem test_residue_moves : splitMaster 0x3F7F7D00 = (0x3F7F, 125) := by decide +kernel

/-- 03 Table 3-6, a layer still for 1,000 steps. -/
theorem test_still_event : stepStill 256 255 true = (256, true) := by decide +kernel
theorem test_still_off : stepStill 0 255 true = (0, false) := by decide +kernel

/-- 11 Table 11-10: over a link of 62.0 ns a flit of frame F is there for a canal slot at F + 6, and at F + 7 one canal hop on. -/
theorem test_forward_frame : (pt { delay := 620 }).availFrom 0 100 = 106 ∧ on.availFrom 0x40 106 = 107 := by decide +kernel

/-- 18 Table 18-15: the sluices of stack 4. -/
def sluices : State :=
  nx (exec (.registerWrite 0 0x840148 4 0x4014) (nx (exec (.registerWrite 0 0x840144 4 0x4027)
    (nx (exec (.registerWrite 0 0x840110 8 0x2000000040) (nx (exec (.registerWrite 0 0x840108 8 0x4000000000)
      (nx (exec (.registerWrite 0 0x840100 8 0) on)))))))))
theorem test_sluice_pending : (nx (exec (.sluiceCommit 0 4) sluices)).reg (Off.memSluiceCmd 4) = 4 := by decide +kernel
theorem test_sluice_applied :
    (nx (exec (.sluiceApply 4) (nx (exec (.sluiceCommit 0 4) sluices)))).reg (Off.memSluiceCmd 4) = 0 := by decide +kernel
/-- A half of a 64-bit register is not written (R364). -/
theorem test_half_write : (nx (exec (.registerWrite 0 0x84010C 4 0x40) on)).reg 0x840108 = on.reg 0x840108 := by decide +kernel

/-- The check value that CRC-32C is published with, over the digits 1 to 9 (the register map and formats name the CRC). -/
theorem test_crc32c : crc32c [0x31, 0x32, 0x33, 0x34, 0x35, 0x36, 0x37, 0x38, 0x39] = 0xE3069283 := by decide +kernel

/-! ### Commands that cannot be given -/

/-- A frame of a port, of flits of a size. -/
def fr (n unit : Nat) : Frame := ⟨0, 0, List.replicate n 0, 0, List.replicate n (List.replicate unit 0)⟩

theorem wf_refuses_lists :
    Instr.wf (.normPartial 0 ⟨1, 1, false, 0, 0, [(3, 0, 0), (2, 0, 0)], [], [], []⟩) = false ∧
    Instr.wf (.recordReceive 0 (List.replicate 65 0)) = false ∧
    Instr.wf (.rankMove (.fleet 1) ⟨1, 0, 3, false, 1, 2, [0]⟩) = false ∧
    Instr.wf (.jobAction (.fleet 1) ⟨1, 0, 3, false, 1, 2, [0]⟩) = false ∧
    Instr.wf (.identify (.fleet 1) ⟨1, 0, 1, false, 1, 2, [0]⟩) = false ∧
    Instr.wf (.health (.fleet 1) ⟨1, 0, 1, false, 1, 2, [0]⟩) = false ∧
    Instr.wf (.resetModule (.fleet 1) ⟨1, 0, 1, false, 1, 2, [0]⟩) = false ∧
    Instr.wf (.setBudget (.fleet 1) ⟨1, 0, 1, false, 1, 2, [0]⟩) = false ∧
    Instr.wf (.setFreq (.fleet 1) ⟨1, 0, 1, false, 1, 2, [0]⟩) = false ∧
    Instr.wf (.attest (.fleet 1) ⟨1, 0, 1, false, 1, 2, [0]⟩) = false ∧
    Instr.wf (.fwActivateMessage (.fleet 1) ⟨1, 0, 1, false, 1, 2, [0]⟩) = false ∧
    Instr.wf (.logEntry { la false with severity := 6 }) = false ∧
    Instr.wf (.tracePoint 5 (List.replicate 6 0)) = false ∧
    Instr.wf (.hvInOutOfRange 3800) = false ∧
    Instr.wf (.powerLoop { rd with memoryAt := [] }) = false ∧
    Instr.wf (.registerWrite 0 0x840108 3 0) = false := by decide +kernel

theorem wf_refuses_sizes :
    Instr.wf (.sramScrub 0 .none) = false ∧
    Instr.wf (.sramScrub 0x10000000004 .none) = false ∧
    Instr.wf (.stackAccess 0 0x30000000 none ⟨[], 0, 0⟩) = false ∧
    Instr.wf (.stackAccess 0 0 (some [0]) ⟨[], 0, 0⟩) = false ∧
    Instr.wf (.patrolScrub 0 5 ⟨[⟨3, 1⟩, ⟨3, 2⟩], 0, 0⟩) = false ∧
    Instr.wf (.patrolScrub 0 5 ⟨[⟨3, 0⟩], 0, 0⟩) = false ∧
    Instr.wf (.frameTransmit 0x10) = false ∧
    Instr.wf (.frameReceive 0x10 ⟨none, []⟩) = false ∧
    Instr.wf (.frameReceive 0 ⟨some (fr 39 128), []⟩) = false ∧
    Instr.wf (.frameReceive 0 ⟨some (fr 40 1024), []⟩) = false ∧
    Instr.wf (.frameReceive 0 ⟨none, List.replicate 9 0⟩) = false ∧
    Instr.wf (.flitDeliver 0x20 1) = false ∧
    Instr.wf (.reduceCombine 0x20 1) = false ∧
    Instr.wf (.resendRequest 0x20 1) = false ∧
    Instr.wf (.resendRetry 0x20 1) = false ∧
    Instr.wf (.packetReceive 0x20 ⟨0, 0, 0, 0, 1, 2, 0, 0, []⟩) = false ∧
    Instr.wf (.packetReceive 0 ⟨0, 0, 0, 0, 1, 2, 200, 0, List.replicate 200 0⟩) = false ∧
    Instr.wf (.oldTableRetire 0x20) = false ∧
    Instr.wf (.canalEdgeLost 2) = false ∧
    Instr.wf (.inSlot 0 0 true 0x3FFF [1, 2]) = false := by decide +kernel

/-- The same commands in their formats. -/
theorem wf_accepts :
    Instr.wf (.frameReceive 0 ⟨some (fr 40 128), [7, 0, 2]⟩) = true ∧
    Instr.wf (.frameReceive 0x41 ⟨some (fr 40 1024), []⟩) = true ∧
    Instr.wf (.patrolScrub 0 5 ⟨[⟨3, 1⟩, ⟨4, 2⟩], 0, 0⟩) = true ∧
    Instr.wf (.sramScrub 0x10000000008 .none) = true ∧
    Instr.wf (.identify (.fleet 1) (mg 1 [0, 0])) = true ∧
    Instr.wf (.powerLoop rd) = true := by decide +kernel

/-! ### States that meet the hypotheses of the statements, clause by clause -/

/-- The clauses of AlertLine have something to speak of. -/
theorem hyps_AlertLine :
    (∃ (ns : Nat) (s : State), 20 ≤ ns ∧ s.pwr.alert = none ∧ s.tripped = false ∧ s.lowest = false) ∧
    (∃ (ns : Nat) (s : State), 20 ≤ ns ∧ s.pwr.alert = none ∧ s.tripped = false ∧ s.lowest = true) ∧
    (∃ (ns : Nat) (s : State), 20 ≤ ns ∧ s.pwr.alert = none ∧ s.tripped = true) ∧
    (∃ (_i : Fin 4) (s : State), s.pwr.rails = true ∧ s.pwr.alert = none ∧ s.tripped = false ∧ s.lowest = false) ∧
    (∃ (_i : Fin 4) (s : State), s.pwr.rails = true ∧ s.pwr.alert.isSome = true) ∧
    (∃ (ns : Nat) (s : State), (ns < 20 ∨ s.pwr.alert.isSome = true)) ∧
    (∃ (_i : Fin 4) (s : State), s.pwr.rails = false) ∧
    (∃ (t0 : Nat) (s : State), s.pwr.alert = some t0 ∧ s.tripped = false) ∧
    (∃ (t0 : Nat) (s : State), s.pwr.alert = some t0 ∧ s.tripped = true) ∧
    (∃ (s : State), s.pwr.alert = none) ∧
    (∃ (s : State), s.lowest = true ∧ s.forced = false ∧ s.freqDue = false ∧ s.pwr.released + max 1 (s.field Off.pwrAlertCfg 15 0)
      * 1000000000 ≤ s.clk.now) ∧
    (∃ (s : State), (s.lowest = false ∨ s.forced = true ∨ s.clk.now < s.pwr.released + max 1 (s.field Off.pwrAlertCfg 15 0) *
      1000000000)) :=
  ⟨⟨20, on, by decide +kernel⟩,
    ⟨20, on.setFlag Off.pwrLimitStat 29 true, by decide +kernel⟩,
    ⟨20, { on with thm := { on.thm with trip := some 5 } }, by decide +kernel⟩,
    ⟨3, on, by decide +kernel⟩,
    ⟨3, { on with pwr := { on.pwr with alert := some 5 } }, by decide +kernel⟩,
    ⟨19, on, by decide +kernel⟩,
    ⟨3, { on with pwr := { on.pwr with rails := false } }, by decide +kernel⟩,
    ⟨7, { on with pwr := { on.pwr with alert := some 7, faults := [(1, true)] } }, by decide +kernel⟩,
    ⟨7, { on with pwr := { on.pwr with alert := some 7 }, thm := { on.thm with trayTrip := true } }, by decide +kernel⟩,
    ⟨on, by decide +kernel⟩,
    ⟨withRegs [(Off.pwrLimitStat, 0x20100000)] { on with pwr := { on.pwr with released := 19990000000000 } }, by decide +kernel⟩,
    ⟨{ on with pwr := { on.pwr with alert := some 7 } }, by decide +kernel⟩⟩

/-- The clauses of DroopAndRegulators have something to speak of. -/
theorem hyps_DroopAndRegulators :
    (∃ (i : Fin 472) (m : Int) (s : State), s.pwr.rails = true ∧ m < (s.field Off.pwrDroopCfg 7 0 : Int) ∧ i.val < 436 ∧ sget
      false s.pwr.stretched i.val = false) ∧
    (∃ (i : Fin 472) (m : Int) (s : State), s.pwr.rails = true ∧ ((s.field Off.pwrDroopCfg 7 0 : Int) ≤ m ∨ 436 ≤ i.val ∨ sget
      false s.pwr.stretched i.val = true)) ∧
    (∃ (_i : Fin 472) (m : Int) (n : Nat) (s : State), (s.field Off.pwrDroopCfg 7 0 : Int) + 8 ≤ m ∧ 64 ≤ n) ∧
    (∃ (_i : Fin 472) (m : Int) (n : Nat) (s : State), (m < (s.field Off.pwrDroopCfg 7 0 : Int) + 8 ∨ n < 64)) ∧
    (∃ (_r : Fin 1812) (_m : Int) (s : State), s.pwr.rails = true) ∧
    (∃ (r : Fin 1812) (_m : Int) (s : State), s.pwr.rails = true ∧ (voltRange r.val).1 ≤ s.volt r.val ∧ s.volt r.val ≤ (voltRange
      r.val).2.2) ∧
    (∃ (r : Fin 1812) (m : Int) (u : Nat) (s : State), s.pwr.rails = true ∧ sget none s.pwr.topSince r.val = some u ∧ u +
      1000000000 ≤ s.clk.now ∧ m < (s.field Off.pwrDroopCfg 23 16 : Int) - 4 ∧ sget none s.pwr.shortLogged r.val = none) ∧
    (∃ (_r : Fin 1812) (_m : Int) (s : State), s.pwr.rails = false) :=
  ⟨⟨435, 11, on, by decide +kernel⟩,
    ⟨436, 11, on, by decide +kernel⟩,
    ⟨5, 20, 64, { on with pwr := { on.pwr with stretched := [(5, true)] } }, by decide +kernel⟩,
    ⟨5, 20, 63, on, by decide +kernel⟩,
    ⟨1811, 20, on, by decide +kernel⟩,
    ⟨0, 100, on, by decide +kernel⟩,
    ⟨2, 35, 19999000000000, { on with pwr := { on.pwr with topSince := [(2, some 19999000000000)] } }, by decide +kernel⟩,
    ⟨2, 35, State.reset, by decide +kernel⟩⟩

/-- The clauses of CurrentLimiterAndEstimator have something to speak of. -/
theorem hyps_CurrentLimiterAndEstimator :
    (∃ (d : Die) (i c : Nat) (s : State), s.pwr.rails = true ∧ s.lowest = false ∧ s.pwr.ceiling = some c ∧ c < i ∧ sget false
      s.hive.spareHeld d.val = false) ∧
    (∃ (d : Die) (i c : Nat) (s : State), s.pwr.rails = true ∧ s.lowest = false ∧ s.pwr.ceiling = some c ∧ c < i ∧ sget false
      s.hive.spareHeld d.val = true ∧ sget false s.pwr.testHeld d.val = false) ∧
    (∃ (d : Die) (i c u : Nat) (s : State), s.pwr.rails = true ∧ s.lowest = false ∧ s.pwr.ceiling = some c ∧ 100 * i < 95 * c ∧
      sget none s.pwr.belowSince d.val = some u ∧ u + 1000000 ≤ s.clk.now ∧ s.field (Off.pwrDieStat d.val) 4 0 < s.issue ∧ s.field
      (Off.pwrDieStat d.val) 4 0 < 31) ∧
    (∃ (_d : Die) (_i : Nat) (s : State), (s.pwr.rails = false ∨ s.lowest = true ∨ s.pwr.ceiling = none)) ∧
    (∃ (m e u : Nat) (s : State), s.pwr.rails = true ∧ s.flag Off.pwrLimitStat 30 = false ∧ agrees m e = false ∧ s.pwr.differSince
      = some u ∧ u + 1000000000000 < s.clk.now) ∧
    (∃ (m e u : Nat) (s : State), s.pwr.rails = true ∧ s.flag Off.pwrLimitStat 30 = true ∧ agrees m e = true ∧ s.pwr.agreeSince =
      some u ∧ u + 10000000000000 ≤ s.clk.now) ∧
    (∃ (m e : Nat) (s : State), s.pwr.rails = true ∧ s.flag Off.pwrLimitStat 30 = false ∧ agrees m e = true) ∧
    (∃ (_m _e : Nat) (s : State), s.pwr.rails = false) :=
  ⟨⟨3, 101, 100, { on with pwr := { on.pwr with ceiling := some 100 } }, by decide +kernel⟩,
    ⟨3, 101, 100, { on with pwr := { on.pwr with ceiling := some 100 }, hive := { on.hive with spareHeld := [(3, true)] } },
      by decide +kernel⟩,
    ⟨3, 94, 100, 19999999000000, withRegs [(Off.pwrDieStat 3, 15)]
      { on with pwr := { on.pwr with ceiling := some 100, belowSince := [(3, some 19999999000000)] } }, by decide +kernel⟩,
    ⟨3, 94, on, by decide +kernel⟩,
    ⟨5000, 100, 18999999999999, { on with pwr := { on.pwr with differSince := some 18999999999999 } }, by decide +kernel⟩,
    ⟨1000, 1000, 10000000000000, (State.setFlag { on with pwr := { on.pwr with agreeSince := some 10000000000000 } }
      Off.pwrLimitStat 30 true), by decide +kernel⟩,
    ⟨1000, 1000, { on with pwr := { on.pwr with differSince := some 7 } }, by decide +kernel⟩,
    ⟨1, 1, State.reset, by decide +kernel⟩⟩

/-- The clauses of PowerLoopAppliesTheCap have something to speak of. -/
theorem hyps_PowerLoopAppliesTheCap :
    (∃ (_r : PowerReading) (s : State), s.pwr.rails = true ∧ s.fw.restarting.contains .power = false ∧ s.lowest = false ∧
      s.estFault = false ∧ s.pwr.climbing = false ∧ s.thm.stopReq = none) ∧
    (∃ (_r : PowerReading) (s : State), s.pwr.rails = true ∧ s.fw.restarting.contains .power = false ∧ s.lowest = true) ∧
    (∃ (_r : PowerReading) (s : State), (s.pwr.rails = false ∨ s.fw.restarting.contains .power = true)) :=
  ⟨⟨rd, on, by decide +kernel⟩,
    ⟨rd, on.setFlag Off.pwrLimitStat 29 true, by decide +kernel⟩,
    ⟨rd, State.reset, by decide +kernel⟩⟩

/-- The clauses of ChangesAtAgreedLockCycles have something to speak of. -/
theorem hyps_ChangesAtAgreedLockCycles :
    (∃ (s : State), s.pwr.armed = none) ∧
    (∃ (b rate : Nat) (s : State), s.pwr.armed = some (b, rate) ∧ s.flag Off.pwrBudgetAt 63 = true ∧ s.field Off.pwrBudgetAt 45 0
      ≤ s.lcNow) ∧
    (∃ (s : State), s.freqDue = true ∧ s.lowest = false) ∧
    (∃ (s : State), (s.freqDue = false ∨ s.lowest = true)) :=
  ⟨⟨{ on with pwr := { on.pwr with ramp := some ⟨4400, 3000, 10, 762930⟩ } }, by decide +kernel⟩,
    ⟨3000, 10, withRegs [(Off.pwrBudgetAt, 0x8000000000000000 + 762930)]
      { on with pwr := { on.pwr with armed := some (3000, 10) } }, by decide +kernel⟩,
    ⟨withRegs [(Off.pwrFreqAt, 0xD400000000000000 + 762939)] on, by decide +kernel⟩,
    ⟨on, by decide +kernel⟩⟩

/-- The clauses of CoolantMonitors have something to speak of. -/
theorem hyps_CoolantMonitors :
    (∃ (w p : Nat) (ps : List Nat) (s : State), 20 ≤ w ∧ s.pwr.aux = true ∧ s.thm.pulses = p :: ps ∧ ps.length < 8 ∧ (p ::
      ps).getLastD 0 < s.clk.now) ∧
    (∃ (w : Nat) (s : State), 20 ≤ w ∧ s.pwr.aux = true ∧ s.thm.pulses = []) ∧
    (∃ (w : Nat) (s : State), (w < 20 ∨ s.pwr.aux = false)) ∧
    (∃ (p : Nat) (s : State), s.thm.lastPulse = some p ∧ s.stopPs ≤ s.clk.now - p) ∧
    (∃ (p : Nat) (s : State), s.thm.lastPulse = some p ∧ p < s.clk.now ∧ s.clk.now - p < s.stopPs ∧ 60000000000000 * s.thm.flow.2
      < s.thm.flow.1 * (s.flowK * (s.clk.now - p))) ∧
    (∃ (s : State), s.thm.lastPulse = none ∧ s.pwr.aux = true) ∧
    (∃ (s : State), s.thm.lastPulse = none ∧ s.pwr.aux = false) ∧
    (∃ (_i _o : Int) (s : State), s.pwr.aux = true) ∧
    (∃ (_o : Int) (s : State), s.pwr.aux = true) ∧
    (∃ (_i : Int) (s : State), s.pwr.aux = true) ∧
    (∃ (_i _o : Option Int) (s : State), s.pwr.aux = false) ∧
    (∃ (s : State) (u : Nat), s.thm.flowLow = some u ∧ u + 1000000000000 ≤ s.clk.now ∧ s.flag Off.thmStat 3 = false) ∧
    (∃ (s : State) (u : Nat), s.thm.flowOk = some u ∧ u + 10000000000000 ≤ s.clk.now ∧ s.flag Off.thmStat 3 = true) ∧
    (∃ (s : State) (u : Nat), s.thm.inletHigh = some u ∧ u + 1000000000000 ≤ s.clk.now ∧ s.flag Off.thmStat 4 = false) ∧
    (∃ (s : State) (u : Nat), s.thm.inletOk = some u ∧ u + 10000000000000 ≤ s.clk.now ∧ s.flag Off.thmStat 4 = true) ∧
    (∃ (s : State) (u : Nat), s.thm.binding = some u ∧ u + 1000000000000 ≤ s.clk.now ∧ s.flag Off.thmStat 5 = false) ∧
    (∃ (s : State) (u : Nat), s.thm.unbound = some u ∧ u + 10000000000000 ≤ s.clk.now ∧ s.flag Off.thmStat 5 = true) ∧
    (∃ (s : State), s.flag Off.thmStat 3 = false ∧ s.thm.flowLow = none) ∧
    (∃ (s : State), s.flag Off.thmStat 4 = false ∧ s.thm.inletHigh = none) ∧
    (∃ (s : State), s.flag Off.thmStat 5 = false ∧ s.thm.binding = none) :=
  ⟨⟨20, 19999990000000, [19999980000000], th (on) (fun v => { v with pulses := [19999990000000, 19999980000000] }),
      by decide +kernel⟩,
    ⟨20, th (on) (fun v => { v with pulses := [] }), by decide +kernel⟩,
    ⟨19, on, by decide +kernel⟩,
    ⟨19900000000000, th (on) (fun v => { v with lastPulse := some 19900000000000 }), by decide +kernel⟩,
    ⟨19999000000000, th (on) (fun v =>
      { v with lastPulse := some 19999000000000, pulses := [19999000000000], flow := (1000, 1) }), by decide +kernel⟩,
    ⟨on, by decide +kernel⟩,
    ⟨pw (on) (fun v => { v with aux := false }), by decide +kernel⟩,
    ⟨451, 400, on, by decide +kernel⟩,
    ⟨400, on, by decide +kernel⟩,
    ⟨451, on, by decide +kernel⟩,
    ⟨some 3, none, pw (on) (fun v => { v with aux := false }), by decide +kernel⟩,
    ⟨th (on) (fun v => { v with flowLow := some 19000000000000 }), 19000000000000, by decide +kernel⟩,
    ⟨th (withRegs [(Off.thmStat, 8)] (on)) (fun v => { v with flowOk := some 10000000000000 }), 10000000000000, by decide +kernel⟩,
    ⟨th (on) (fun v => { v with inletHigh := some 19000000000000 }), 19000000000000, by decide +kernel⟩,
    ⟨th (withRegs [(Off.thmStat, 16)] (on)) (fun v => { v with inletOk := some 10000000000000 }), 10000000000000,
      by decide +kernel⟩,
    ⟨th (on) (fun v => { v with binding := some 19000000000000 }), 19000000000000, by decide +kernel⟩,
    ⟨th (withRegs [(Off.thmStat, 32)] (on)) (fun v => { v with unbound := some 10000000000000 }), 10000000000000,
      by decide +kernel⟩,
    ⟨on, by decide +kernel⟩,
    ⟨on, by decide +kernel⟩,
    ⟨on, by decide +kernel⟩⟩

/-- The clauses of FlowStopForcesLowestState have something to speak of. -/
theorem hyps_FlowStopForcesLowestState :
    (∃ (p : Nat) (s : State), s.thm.lastPulse = some p ∧ s.pwr.rails = true ∧ s.flowStopped = false ∧ p + s.stopPs ≤ s.clk.now ∧
      s.lowest = false) ∧
    (∃ (s : State), (s.thm.lastPulse = none ∨ s.pwr.rails = false ∨ s.flowStopped = true)) ∧
    (∃ (u : Nat) (s : State), s.flowStopped = true ∧ s.thm.flowHalf = some u ∧ u + 1000000000000 ≤ s.clk.now) ∧
    (∃ (s : State), (s.flowStopped = false ∨ s.thm.flowHalf = none)) :=
  ⟨⟨19900000000000, th (on) (fun v => { v with lastPulse := some 19900000000000 }), by decide +kernel⟩,
    ⟨on, by decide +kernel⟩,
    ⟨19000000000000, th (withRegs [(Off.thmStat, 4)] (on)) (fun v => { v with flowHalf := some 19000000000000 }),
      by decide +kernel⟩,
    ⟨on, by decide +kernel⟩⟩

/-- The clauses of JunctionLimits have something to speak of. -/
theorem hyps_JunctionLimits :
    (∃ (n : Fin 1280) (v : Int) (s : State), sget false s.thm.failed n.val = false ∧ s.pwr.aux = true ∧ 105 ≤ v ∧ v < 125 ∧
      s.thm.temps = [] ∧ s.hot = false ∧ s.lowest = false) ∧
    (∃ (n : Fin 1280) (r : Option Int) (s : State), sget false s.thm.failed n.val = false ∧ s.pwr.aux = true ∧ ((∀ v, r = some v →
      v < -10 ∨ 150 < v))) ∧
    (∃ (n : Fin 1280) (_r : Option Int) (s : State), (sget false s.thm.failed n.val = true ∨ s.pwr.aux = false)) :=
  ⟨⟨1279, 112, on, by decide +kernel⟩,
    ⟨0, none, on, by decide +kernel⟩,
    ⟨0, some 3, th (on) (fun v => { v with failed := [(0, true)] }), by decide +kernel⟩⟩

/-- The clauses of ThermtripTakesTheRails have something to speak of. -/
theorem hyps_ThermtripTakesTheRails :
    (∃ (n : Fin 1280) (v : Int) (s : State), sget false s.thm.failed n.val = false ∧ s.pwr.aux = true ∧ 125 ≤ v ∧ v ≤ 150 ∧
      s.thm.temps = [] ∧ s.thm.trip = none) ∧
    (∃ (u : Nat) (o : Int) (s : State), s.thm.trip = some u ∧ u + 10000000000000 ≤ s.clk.now ∧ s.thm.outlet = some o ∧ o < 500 ∧
      s.flowAtLeast 50 = true ∧ s.thm.trayTrip = false) ∧
    (∃ (s : State), (s.thm.trip = none ∨ s.thm.outlet = none ∨ s.flowAtLeast 50 = false ∨ s.thm.trayTrip = true)) ∧
    (∃ (s : State), s.pwr.rails = true) ∧
    (∃ (s : State), s.thm.trayFell = true ∧ s.thm.trip = none) ∧
    (∃ (s : State), s.thm.trayFell = false) :=
  ⟨⟨7, 125, on, by decide +kernel⟩,
    ⟨10000000000000, 499, th (on) (fun v => { v with trip := some 10000000000000, outlet := some 499, flow := (1000, 1) }),
      by decide +kernel⟩,
    ⟨on, by decide +kernel⟩,
    ⟨on, by decide +kernel⟩,
    ⟨th (pw (on) (fun v => { v with rails := false })) (fun v => { v with trayFell := true, trayTrip := true }),
      by decide +kernel⟩,
    ⟨on, by decide +kernel⟩⟩

/-- The clauses of SupplyAndReset have something to speak of. -/
theorem hyps_SupplyAndReset :
    (∃ (s : State), s.pwr.aux = false) ∧
    (∃ (s : State), s.pwr.aux = true) ∧
    (∃ (s : State), s.pwr.aux = true) ∧
    (∃ (s : State), s.pwr.shut = false) ∧
    (∃ (s : State), s.pwr.shut = true) ∧
    (∃ (v : Nat) (s : State), ((3550 ≤ v ∧ v < 3600) ∨ (4200 < v ∧ v ≤ 4250)) ∧ s.pwr.aux = true) ∧
    (∃ (v : Nat) (s : State), ((3300 ≤ v ∧ v < 3550) ∨ (4250 < v ∧ v ≤ 4400)) ∧ s.pwr.aux = true ∧ s.pwr.alert = none ∧ s.tripped
      = false ∧ s.lowest = false) ∧
    (∃ (v : Nat) (s : State), (v < 3600 ∨ 4200 < v) ∧ s.pwr.aux = false) ∧
    (∃ (v : Nat) (s : State), (v < 3300 ∨ 4400 < v) ∧ s.pwr.aux = true ∧ s.pwr.rails = false) ∧
    (∃ (v : Nat) (s : State), (v < 3300 ∨ 4400 < v) ∧ s.pwr.aux = true ∧ s.pwr.rails = true) ∧
    (∃ (s : State), s.pwr.shut = true ∧ s.tripped = false) ∧
    (∃ (s : State), (s.pwr.shut = false ∨ s.tripped = true)) ∧
    (∃ (u : Nat) (s : State), s.pwr.aux = true ∧ s.tripped = false ∧ s.mail.resetAt = some u ∧ u ≤ s.clk.now ∧ (s.box (boxKey
      (.towpath .security))).full = false) ∧
    (∃ (u : Nat) (s : State), s.pwr.aux = true ∧ s.tripped = false ∧ (s.mail.resetAt = none ∨ (s.mail.resetAt = some u ∧
      (s.clk.now < u ∨ (s.box (boxKey (.towpath .security))).full = true)))) ∧
    (∃ (s : State), (s.pwr.aux = false ∨ s.tripped = true)) :=
  ⟨⟨pw (on) (fun v => { v with aux := false }), by decide +kernel⟩,
    ⟨on, by decide +kernel⟩,
    ⟨on, by decide +kernel⟩,
    ⟨pw (on) (fun v => { v with hv := false }), by decide +kernel⟩,
    ⟨pw (on) (fun v => { v with shut := true }), by decide +kernel⟩,
    ⟨3599, on, by decide +kernel⟩,
    ⟨3300, on, by decide +kernel⟩,
    ⟨4201, pw (on) (fun v => { v with aux := false }), by decide +kernel⟩,
    ⟨4401, pw (on) (fun v => { v with rails := false }), by decide +kernel⟩,
    ⟨4401, on, by decide +kernel⟩,
    ⟨pw (on) (fun v => { v with shut := true, hv := false }), by decide +kernel⟩,
    ⟨on, by decide +kernel⟩,
    ⟨7, { on with mail := { resetAt := some 7 } }, by decide +kernel⟩,
    ⟨20000000000001, { on with mail := { resetAt := some 20000000000001 } }, by decide +kernel⟩,
    ⟨pw (on) (fun v => { v with aux := false }), by decide +kernel⟩⟩

/-- The clauses of BootOfASlot have something to speak of. -/
theorem hyps_BootOfASlot :
    (∃ (_a : BitVec 2) (_b : BitVec 6) (s : State), s.pwr.aux = true ∧ s.bootStep ≤ 1 ∧ s.recovery = false ∧ s.bootOrder = []) ∧
    (∃ (_a : BitVec 2) (_b : BitVec 6) (k : Nat) (ks : List Nat) (s : State), s.pwr.aux = true ∧ s.bootStep ≤ 1 ∧ s.recovery =
      false ∧ s.bootOrder = k :: ks ∧ s.firstFail k [1, 2] = none) ∧
    (∃ (_a : BitVec 2) (_b : BitVec 6) (s : State), (s.pwr.aux = false ∨ 1 < s.bootStep ∨ s.recovery = true)) ∧
    (∃ (s : State), s.bootStep = 3 ∧ s.recovery = false ∧ s.pwr.hv = true ∧ s.pwr.hvOut = false ∧ s.pwr.shut = false ∧ s.thm.trip
      = none ∧ s.thm.trayTrip = false ∧ s.flowAtLeast 50 = true) ∧
    (∃ (s : State), (s.bootStep ≠ 3 ∨ s.recovery = true ∨ s.pwr.hv = false ∨ s.pwr.hvOut = true ∨ s.pwr.shut = true ∨
      s.thm.trip.isSome = true ∨ s.thm.trayTrip = true ∨ s.flowAtLeast 50 = false)) ∧
    (∃ (s : State), s.bootStep = 4 ∧ s.firstFail s.slot [3, 4, 5] = none) ∧
    (∃ (c k : Nat) (s : State), s.bootStep = 4 ∧ s.firstFail s.slot [3, 4, 5] = some (c, k)) ∧
    (∃ (s : State), s.bootStep ≠ 4) ∧
    (∃ (s : State), s.bootStep = 5) ∧
    (∃ (s : State), s.bootStep ≠ 5) :=
  ⟨⟨1, 2, fwm (booting 1) (fun v => { v with failedSlots := [0, 1] }), by decide +kernel⟩,
    ⟨1, 2, 0, [1], booting 1, by decide +kernel⟩,
    ⟨1, 2, on, by decide +kernel⟩,
    ⟨th (pw (booting 3) (fun v => { v with rails := false })) (fun v => { v with flow := (1000, 1) }), by decide +kernel⟩,
    ⟨on, by decide +kernel⟩,
    ⟨booting 4, by decide +kernel⟩,
    ⟨3, 1, fwm (booting 4) (fun v => { v with dev0 := { bootGen := 1, images := [factoryImage 1, factoryImage 2] } }),
      by decide +kernel⟩,
    ⟨on, by decide +kernel⟩,
    ⟨booting 5, by decide +kernel⟩,
    ⟨on, by decide +kernel⟩⟩

/-- The clauses of StackAccess have something to speak of. -/
theorem hyps_StackAccess :
    (∃ (n : Stack) (u : BitVec 30) (bs : List Byte) (m : StackMeets) (s : State), s.unitOk n.val u.toNat = true ∧ s.sluiceOpen
      n.val (32 * u.toNat) = true ∧ bs.length = 32 ∧ m.inner = 0 ∧ m.parity.toNat < 2) ∧
    (∃ (n : Stack) (u : BitVec 30) (m : StackMeets) (s : State), s.unitOk n.val u.toNat = true ∧ s.sluiceOpen n.val (32 * u.toNat)
      = true ∧ m.inner = 0 ∧ m.parity.toNat < 2 ∧ errLanes m.errs = [] ∧ sget false s.mem.bad (n.val * 0x800000000 + 32 * u.toNat)
      = false) ∧
    (∃ (n : Stack) (u : BitVec 30) (m : StackMeets) (s : State), s.unitOk n.val u.toNat = true ∧ s.sluiceOpen n.val (32 * u.toNat)
      = true ∧ m.inner = 0 ∧ m.parity.toNat < 2 ∧ errLanes m.errs ≠ [] ∧ sget false s.mem.bad (n.val * 0x800000000 + 32 * u.toNat)
      = false ∧ outerDecode (s.corrLimit n.val) ((s.stk n.val).erased (32 * u.toNat)) (syndromes (errLanes m.errs)) = some
      (errLanes m.errs)) ∧
    (∃ (n : Stack) (u : BitVec 30) (m : StackMeets) (s : State), s.unitOk n.val u.toNat = true ∧ s.sluiceOpen n.val (32 * u.toNat)
      = true ∧ m.inner = 0 ∧ m.parity.toNat < 2 ∧ errLanes m.errs ≠ [] ∧ sget false s.mem.bad (n.val * 0x800000000 + 32 * u.toNat)
      = false ∧ outerDecode (s.corrLimit n.val) ((s.stk n.val).erased (32 * u.toNat)) (syndromes (errLanes m.errs)) = some []) ∧
    (∃ (n : Stack) (u : BitVec 30) (m : StackMeets) (s : State), s.unitOk n.val u.toNat = true ∧ s.sluiceOpen n.val (32 * u.toNat)
      = true ∧ m.inner = 0 ∧ (2 ≤ m.parity.toNat ∨ sget false s.mem.bad (n.val * 0x800000000 + 32 * u.toNat) = true ∨ errLanes
      m.errs ≠ [] ∧ outerDecode (s.corrLimit n.val) ((s.stk n.val).erased (32 * u.toNat)) (syndromes (errLanes m.errs)) = none)) ∧
    (∃ (n : Stack) (u : BitVec 30) (m : StackMeets) (s : State), s.unitOk n.val u.toNat = true ∧ s.sluiceOpen n.val (32 * u.toNat)
      = true ∧ m.inner ≠ 0 ∧ m.parity.toNat < 2 ∧ errLanes m.errs = [] ∧ sget false s.mem.bad (n.val * 0x800000000 + 32 * u.toNat)
      = false) ∧
    (∃ (n : Stack) (u : BitVec 30) (_d : Option (List Byte)) (_m : StackMeets) (s : State), s.unitOk n.val u.toNat = false) ∧
    (∃ (n : Stack) (u : BitVec 30) (_d : Option (List Byte)) (_m : StackMeets) (s : State), s.unitOk n.val u.toNat = true ∧
      s.sluiceOpen n.val (32 * u.toNat) = false) :=
  ⟨⟨31, 0x2FFFFFFF, List.replicate 32 7, ⟨[], 0, 0⟩, on, by decide +kernel⟩,
    ⟨3, 9, ⟨[], 0, 0⟩, on, by decide +kernel⟩,
    ⟨3, 9, lane 7 3, on, by decide +kernel⟩,
    ⟨3, 9, ⟨[⟨31, 1⟩, ⟨32, 15⟩, ⟨33, 54⟩, ⟨34, 120⟩, ⟨35, 64⟩], 0, 0⟩, on, by decide +kernel⟩,
    ⟨3, 9, ⟨[], 0, 2⟩, { on with mem := { on.mem with bad := [(0x1800000120, true)] } }, by decide +kernel⟩,
    ⟨3, 9, ⟨[], 5, 1⟩, on, by decide +kernel⟩,
    ⟨3, 0x30000000, none, ⟨[], 0, 0⟩, on, by decide +kernel⟩,
    ⟨3, 9, none, ⟨[], 0, 0⟩, State.modStk (on) 3 (fun v => { v with shares := [(0, 0)] }), by decide +kernel⟩⟩

/-- The clauses of StackBandwidth have something to speak of. -/
theorem hyps_StackBandwidth :
    (∃ (n : Stack) (u : BitVec 30) (m : StackMeets) (s : State), s.unitOk n.val u.toNat = true ∧ m.inner = 0 ∧ m.parity.toNat < 2
      ∧ errLanes m.errs = [] ∧ sget false s.mem.bad (n.val * 0x800000000 + 32 * u.toNat) = false) ∧
    (∃ (n : Stack) (u : BitVec 30) (_m : StackMeets) (s : State), s.unitOk n.val u.toNat = false) ∧
    (∃ (x : Ctx) (_m : StackMeets) (d : Cmd) (s : State), s.scrubTurn x.val = some d ∧ d.mgmtLen ≤ 32 * d.progress ∧ s.Live x.val
      d) ∧
    (∃ (x : Ctx) (m : StackMeets) (d : Cmd) (s : State), s.scrubTurn x.val = some d ∧ 32 * d.progress < d.mgmtLen ∧ s.Live x.val d
      ∧ m.inner = 0 ∧ m.parity.toNat < 2 ∧ errLanes m.errs = [] ∧ s.unitOk ((d.mgmtAddr + 32 * d.progress) / 0x800000000)
      ((d.mgmtAddr + 32 * d.progress) % 0x800000000 / 32) = true ∧ s.sluiceOpen ((d.mgmtAddr + 32 * d.progress) / 0x800000000)
      ((d.mgmtAddr + 32 * d.progress) % 0x800000000) = true ∧ sget false s.mem.bad (d.mgmtAddr + 32 * d.progress) = false) ∧
    (∃ (x : Ctx) (_m : StackMeets) (s : State), s.scrubTurn x.val = none) ∧
    (∃ (n : Stack) (s : State), (s.stk n.val).dead = false) ∧
    (∃ (n : Stack) (s : State), (s.stk n.val).dead = false) ∧
    (∃ (n : Stack) (_b : Bool) (s : State), (s.stk n.val).dead = true) ∧
    (∃ (n : Stack) (s : State), (s.stk n.val).window ≠ s.sluiceNo) ∧
    (∃ (n : Stack) (s : State), (s.stk n.val).window = s.sluiceNo) ∧
    (∃ (f : Func) (n : Stack) (s : State), s.barOpen = true ∧ s.mayWrite f.val .pf 0 0 = true ∧ s.flag (Off.memSluiceCmd n.val) 2
      = false) ∧
    (∃ (f : Func) (_n : Stack) (s : State), s.barOpen = true ∧ s.mayWrite f.val .pf 0 0 = false) ∧
    (∃ (_f : Func) (_n : Stack) (s : State), s.barOpen = false) ∧
    (∃ (n : Stack) (s : State), (s.stk n.val).commit = true ∧ sluiceCheck (s.written n.val).1 (s.written n.val).2 = none) ∧
    (∃ (n : Stack) (c p : Nat) (s : State), (s.stk n.val).commit = true ∧ sluiceCheck (s.written n.val).1 (s.written n.val).2 =
      some (c, p)) ∧
    (∃ (n : Stack) (s : State), (s.stk n.val).commit = false) ∧
    (∃ (_f : Func) (n : Stack) (_i : Fin 8) (_v : Word) (s : State), s.barOpen = true ∧ s.flag (Off.memSluiceCmd n.val) 2 = true) :=
  ⟨⟨3, 9, ⟨[], 0, 0⟩, on, by decide +kernel⟩,
    ⟨3, 0x30000000, ⟨[], 0, 0⟩, on, by decide +kernel⟩,
    ⟨0, ⟨[], 0, 0⟩, scrubCmd 2, ring [scrubCmd 2], ⟨by decide +kernel, by decide +kernel, ⟨by decide +kernel, by decide +kernel,
      by decide +kernel⟩⟩⟩,
    ⟨0, ⟨[], 0, 0⟩, scrubCmd 0, { on with ctxs := [(0, { c0 with cmds := [scrubCmd 0] })] }, ⟨by decide +kernel,
      by decide +kernel, ⟨by decide +kernel, by decide +kernel, by decide +kernel⟩, by decide +kernel⟩⟩,
    ⟨0, ⟨[], 0, 0⟩, on, by decide +kernel⟩,
    ⟨3, on, by decide +kernel⟩,
    ⟨3, on, by decide +kernel⟩,
    ⟨3, false, State.modStk (on) 3 (fun v => { v with dead := true }), by decide +kernel⟩,
    ⟨3, on, by decide +kernel⟩,
    ⟨3, State.modStk (on) 3 (fun v => { v with window := 781250000 / 64 }), by decide +kernel⟩,
    ⟨0, 3, on, by decide +kernel⟩,
    ⟨1, 3, on, by decide +kernel⟩,
    ⟨0, 3, State.reset, by decide +kernel⟩,
    ⟨3, State.modStk (on) 3 (fun v => { v with commit := true }), by decide +kernel⟩,
    ⟨3, 1, 1, State.modStk (withRegs [(Off.memPart 3 1, 0x6000000000)] (on)) 3 (fun v => { v with commit := true }),
      by decide +kernel⟩,
    ⟨3, on, by decide +kernel⟩,
    ⟨0, 3, 1, 5, withRegs [(Off.memSluiceCmd 3, 4)] on, by decide +kernel⟩⟩

/-- The clauses of StackTemperatureAndRepairs have something to speak of. -/
theorem hyps_StackTemperatureAndRepairs :
    (∃ (n : Stack) (v : BitVec 8) (s : State), (s.stk n.val).trained = true ∧ v.toNat + 3 < s.field (Off.memTherm n.val) 23 16 ∧
      s.thm.temps = [] ∧ s.hot = false ∧ s.halted = false ∧ ((∀ m, m ≠ n.val → (s.stk m).trained = false))) ∧
    (∃ (n : Stack) (v : BitVec 8) (s : State), (s.stk n.val).trained = true ∧ s.thm.temps = [] ∧ s.field (Off.memTherm n.val) 23
      16 ≤ v.toNat ∧ s.hot = false ∧ s.lowest = false) ∧
    (∃ (n : Stack) (_v : BitVec 8) (s : State), (s.stk n.val).trained = false) ∧
    (∃ (n : Stack) (k : Nat) (s : State), (s.stk n.val).nextStep = some k ∧ k ≤ 4) ∧
    (∃ (n : Stack) (s : State), (s.stk n.val).nextStep = none) ∧
    (∃ (_n : Stack) (s : State), s.pwr.rails = true ∧ s.thm.trip = none) ∧
    (∃ (_n : Stack) (s : State), (s.pwr.rails = false ∨ s.thm.trip.isSome = true)) ∧
    (∃ (n : Stack) (a k : Nat) (r : List (Nat × Nat)) (s : State), (s.stk n.val).repairs = (a, k) :: r ∧ a / 0x800000000 = n.val ∧
      (s.stepBoundary || s.sweepWaits n.val) = true ∧ s.rowSpare a = true ∧ (∀ e ∈ s.ctxs, e.2.badDma = none)) ∧
    (∃ (n : Stack) (x : Ctx) (a u k i : Nat) (r : List (Nat × Nat)) (d : Cmd) (s : State), (s.stk n.val).repairs = (a, k) :: r ∧ a
      / 0x800000000 = n.val ∧ (s.stepBoundary || s.sweepWaits n.val) = true ∧ s.rowSpare a = true ∧ s.ctxs.map Prod.fst = [x.val]
      ∧ (s.ctx x.val).badDma = some (i, u) ∧ rowKey u = rowKey a ∧ d.idx = i ∧ s.Live x.val d) ∧
    (∃ (n : Stack) (a k : Nat) (r : List (Nat × Nat)) (s : State), (s.stk n.val).repairs = (a, k) :: r ∧ (s.stepBoundary ||
      s.sweepWaits n.val) = true ∧ s.rowSpare a = false ∧ ((∀ e ∈ s.ctxs, e.2.badDma = none ∧ ∀ w, e.2.sweep = some w → w.met =
      [])) ∧ (∀ e ∈ r, rowKey e.1 ≠ rowKey a)) ∧
    (∃ (n : Stack) (x : Ctx) (a k : Nat) (r : List (Nat × Nat)) (w : Sweep) (d : Cmd) (s : State), (s.stk n.val).repairs = (a, k)
      :: r ∧ s.sweepWaits n.val = true ∧ s.rowSpare a = false ∧ s.ctxs.map Prod.fst = [x.val] ∧ (s.ctx x.val).badDma = none ∧
      (s.ctx x.val).sweep = some w ∧ w.stopped.contains n.val = true ∧ w.met.any (fun m => m / 4096 == a / 4096) = true ∧ (∀ e ∈
      r, rowKey e.1 ≠ rowKey a) ∧ d.idx = w.idx ∧ s.Live x.val d) ∧
    (∃ (n : Stack) (s : State), ((s.stk n.val).repairs = [] ∨ s.stepBoundary = false ∧ s.sweepWaits n.val = false)) ∧
    (∃ (n : Stack) (c : Fin 16) (s : State), sget false (s.stk n.val).retrain c.val = true ∧ s.stepBoundary = true ∧ (∀ e ∈
      s.stks, e.2.wantTakeover = false)) ∧
    (∃ (n : Stack) (c : Fin 16) (_ls : List (Fin 72)) (s : State), (sget false (s.stk n.val).retrain c.val = false ∨
      s.stepBoundary = false)) ∧
    (∃ (c : Sector) (a : Nat) (r : List Nat) (s : State), (sget ({} : CombSt) s.combs c.val).due = a :: r ∧ s.stepBoundary = true
      ∧ sget 0 (sget ({} : CombSt) s.combs c.val).used (bits a 13 8) < 256) ∧
    (∃ (c : Sector) (s : State), ((sget ({} : CombSt) s.combs c.val).due = [] ∨ s.stepBoundary = false)) :=
  ⟨⟨3, 80, one3, ⟨by decide +kernel, by decide +kernel, by decide +kernel, by decide +kernel, by decide +kernel, fun m hm =>
      trained_off m hm⟩⟩,
    ⟨3, 95, withRegs [(Off.memTherm 3, 0x5F0000)] (State.modStk (on) 3 (fun v => { v with trained := true })), by decide +kernel⟩,
    ⟨3, 95, on, by decide +kernel⟩,
    ⟨3, 4, State.modStk (on) 3 (fun v => { v with nextStep := some 4 }), by decide +kernel⟩,
    ⟨3, on, by decide +kernel⟩,
    ⟨3, on, by decide +kernel⟩,
    ⟨3, State.reset, by decide +kernel⟩,
    ⟨3, 0x1800000040, 6, [], State.modStk (on) 3 (fun v => { v with repairs := [(0x1800000040, 6)] }), ⟨by decide +kernel,
      by decide +kernel, by decide +kernel, first_rowSpare _ _ 6 rfl rfl, by decide +kernel⟩⟩,
    ⟨3, 0, 0x1800000040, 0x1800000040, 6, 1, [], cm 1 2 0 .started, State.modStk
      ({ on with ctxs := [(0, { c0 with cmds := [cm 1 2 0 .started], badDma := some (1, 0x1800000040) })] }) 3 (fun v =>
      { v with repairs := [(0x1800000040, 6)] }), ⟨by decide +kernel, by decide +kernel, by decide +kernel, first_rowSpare _ _ 6
      rfl rfl, by decide +kernel, by decide +kernel, rfl, by decide +kernel, ⟨by decide +kernel, by decide +kernel,
      by decide +kernel⟩⟩⟩,
    ⟨3, 0x1800000040, 6, [], spent 0x1800000040, ⟨by decide +kernel, by decide +kernel, spent_rowSpare, by decide +kernel⟩⟩,
    ⟨3, 0, 0x1800000040, 6, [], { idx := 1, table := 0x9000, phase := .pass2, stopped := [3], met := [0x1800000040] }, cm 1 6
      0x9000 .started,
      { spent 0x1800000040 with ctxs := [(0, { c0 with cmds := [cm 1 6 0x9000 .started], sweep := some { idx := 1, table := 0x9000, phase := .pass2, stopped := [3], met := [0x1800000040] } })] },
      ⟨by decide +kernel, by decide +kernel, spent_rowSpare, by decide +kernel, by decide +kernel, by decide +kernel,
      by decide +kernel, by decide +kernel, by decide +kernel, by decide +kernel, ⟨by decide +kernel, by decide +kernel,
      by decide +kernel⟩⟩⟩,
    ⟨3, on, by decide +kernel⟩,
    ⟨3, 5, State.modStk (on) 3 (fun v => { v with retrain := [(5, true)] }), by decide +kernel⟩,
    ⟨3, 5, [], on, by decide +kernel⟩,
    ⟨3, 0x100C0000000, [], { on with combs := [(3, { due := [0x100C0000000] })] }, by decide +kernel⟩,
    ⟨3, on, by decide +kernel⟩⟩

/-- The clauses of StackTraining have something to speak of. -/
theorem hyps_StackTraining :
    (∃ (n : Stack) (_v : BitVec 8) (s : State), 6 ≤ s.bootStep ∧ (s.stk n.val).trained = false ∧ (s.stk n.val).dead = false ∧
      (s.stk n.val).wantTakeover = false) ∧
    (∃ (n : Stack) (_v : BitVec 8) (c : Fin 16) (_l : Fin 72) (s : State), 6 ≤ s.bootStep ∧ (s.stk n.val).trained = false ∧ (s.stk
      n.val).dead = false ∧ s.sparesLeft n.val c.val = 0) ∧
    (∃ (n : Stack) (_v : BitVec 8) (_ls : List (Fin 16 × Fin 72)) (s : State), 6 ≤ s.bootStep ∧ (s.stk n.val).trained = false ∧
      (s.stk n.val).dead = false) ∧
    (∃ (n : Stack) (_k : Sys2Proof.StackTraining) (s : State), (s.bootStep < 6 ∨ (s.stk n.val).trained = true ∨ (s.stk n.val).dead
      = true)) :=
  ⟨⟨3, 95, on, by decide +kernel⟩,
    ⟨3, 95, 2, 7, State.modStk (on) 3 (fun v => { v with sparesUsed := [(2, 15)] }), ⟨by decide +kernel, by decide +kernel,
      by decide +kernel, by show _ % 16 - 15 = 0; omega⟩⟩,
    ⟨3, 95, [], on, by decide +kernel⟩,
    ⟨3, ⟨true, 95, []⟩, booting 5, by decide +kernel⟩⟩

/-- The clauses of HiveMoves have something to speak of. -/
theorem hyps_HiveMoves :
    (∃ (h : Hive) (k : Nat) (s : State), s.movingTo h.val = some k ∧ s.hiveFree h.val = true ∧ k < 5 ∧ s.slotOfHive h.val ≠ 5 *
      (h.val / 4) + k ∧ s.mem.dev.wf = true ∧ s.slotFailed (s.slotOfHive h.val) = false ∧ s.slotFailed (5 * (h.val / 4) + k) =
      false ∧ s.hiveIn (5 * (h.val / 4) + k) = none ∧ s.hive.halt = false) ∧
    (∃ (h : Hive) (k : Nat) (s : State), s.movingTo h.val = some k ∧ s.slotOfHive h.val ≠ 5 * (h.val / 4) + k ∧ (s.slotFailed
      (s.slotOfHive h.val) = true ∨ s.slotFailed (5 * (h.val / 4) + k) = true ∨ (s.hiveIn (5 * (h.val / 4) + k)).isSome = true) ∧
      s.sync.held = []) ∧
    (∃ (h : Hive) (k : Nat) (s : State), s.movingTo h.val = some k ∧ s.slotOfHive h.val = 5 * (h.val / 4) + k ∧ s.sync.held = []) ∧
    (∃ (h : Hive) (k x p n g q i : Nat) (s : State), s.movingTo h.val = some k ∧ s.slotOfHive h.val = 5 * (h.val / 4) + k ∧ ((∀ l,
      l ≠ h.val → s.movingTo l = none)) ∧ s.sync.held = [.signal x p n (.queue g q i)] ∧ s.joins (sectorOfHive g) (sectorOfObject
      false p) = true ∧ s.counterFull p n = false ∧ s.overrun p n = false ∧ s.sync.watches = []) ∧
    (∃ (h : Hive) (s : State), s.movingTo h.val = none) ∧
    (∃ (h : Hive) (k : Nat) (s : State), s.movingTo h.val = some k ∧ s.slotFailed (s.slotOfHive h.val) = false ∧ s.slotFailed (5 *
      (h.val / 4) + k) = false ∧ s.hiveIn (5 * (h.val / 4) + k) = none ∧ (s.hiveFree h.val = false ∨ s.hive.halt = true)) ∧
    (∃ (d : Die) (k l : Nat) (s : State), s.rotation d.val = some (k, l) ∧ s.sinceRotation d.val (s.field Off.thmHiveRot 15 0) =
      true) ∧
    (∃ (d : Die) (k l : Nat) (a b : Int) (s : State), s.rotation d.val = some (k, l) ∧ s.flag Off.thmTjCfg 8 = true ∧ s.activeTemp
      d.val k = some a ∧ s.slotTemp d.val k = some b ∧ (s.tjTarget : Int) - 5 ≤ a ∧ b + 10 ≤ a ∧ s.sinceRotation d.val 2 = true) ∧
    (∃ (d : Die) (s : State), s.rotation d.val = none) ∧
    (∃ (d : Die) (s : State), (s.flag Off.thmTjCfg 8 = false ∨ s.sinceRotation d.val 2 = false)) ∧
    (∃ (d : Die) (s : State), s.sinceRotation d.val (s.field Off.thmHiveRot 15 0) = false) :=
  ⟨⟨9, 0, hv ({ on with mem := { dev := [(0x11000000000 + 12 * 0x2000000 + 5, 7)] } }) (fun v =>
      { v with moving := [(9, some 0)] }), by decide +kernel⟩,
    ⟨9, 0, hv (on) (fun v => { v with moving := [(9, some 0)], failed := [(12, true)] }), by decide +kernel⟩,
    ⟨9, 0, hv (on) (fun v => { v with moving := [(9, some 0)], slotOf := [(9, some 0)] }), by decide +kernel⟩,
    ⟨9, 0, 0, 2304, 1, 9, 2, 0, moves9, ⟨by decide +kernel, by decide +kernel, moving_off, by decide +kernel⟩⟩,
    ⟨9, on, by decide +kernel⟩,
    ⟨9, 0, hv (on) (fun v => { v with moving := [(9, some 0)], hives := [(9, { run := some (0, 1) })] }), by decide +kernel⟩,
    ⟨2, 0, 8, on, by decide +kernel⟩,
    ⟨2, 0, 8, 90, 60, withRegs [(Off.thmTjCfg, 0x15F)] (th (on) (fun v => { v with temps := [(30, some 60), (32, some 90)] })),
      by decide +kernel⟩,
    ⟨2, hv (on) (fun v => { v with moving := [(9, some 0)] }), by decide +kernel⟩,
    ⟨2, withRegs [(Off.thmTjCfg, 0x5F)] (on), by decide +kernel⟩,
    ⟨2, hv (on) (fun v => { v with lastRotation := [(2, 19999000000000)] }), by decide +kernel⟩⟩

/-- The clauses of HiveFailureScrubAndSelfTest have something to speak of. -/
theorem hyps_HiveFailureScrubAndSelfTest :
    (∃ (p : Slot) (l k : Nat) (s : State), s.slotFailed p.val = false ∧ s.hiveIn p.val = some l ∧ s.spareSlot (p.val / 5) = some
      k) ∧
    (∃ (p : Slot) (l : Nat) (s : State), s.slotFailed p.val = false ∧ s.hiveIn p.val = some l ∧ s.spareSlot (p.val / 5) = none ∧
      s.dieMoving (p.val / 5) = false ∧ sget false s.hive.three (p.val / 5) = false) ∧
    (∃ (p : Slot) (s : State), s.slotFailed p.val = false ∧ s.hiveIn p.val = none) ∧
    (∃ (p : Slot) (s : State), s.slotFailed p.val = true) ∧
    (∃ (d : Die) (l k : Nat) (s : State), s.toReplace d.val = some l ∧ s.spareSlot d.val = some k ∧ k < 5 ∧ s.slotFailed
      (s.slotOfHive l) = true) ∧
    (∃ (d : Die) (l : Nat) (s : State), s.toReplace d.val = some l ∧ s.spareSlot d.val = none ∧ s.slotFailed (s.slotOfHive l) =
      true ∧ s.slotOfHive l / 5 = d.val ∧ s.dieMoving d.val = false ∧ sget false s.hive.three d.val = false) ∧
    (∃ (d : Die) (s : State), s.toReplace d.val = none) ∧
    (∃ (a : BitVec 48) (_s : State), sramAt (a.toNat / 8 * 8) = true) ∧
    (∃ (a : BitVec 48) (_s : State), sramAt (a.toNat / 8 * 8) = true ∧ 0x11000000000 ≤ a.toNat / 8 * 8) ∧
    (∃ (a : BitVec 48) (_s : State), sramAt (a.toNat / 8 * 8) = true ∧ a.toNat / 8 * 8 < 0x11000000000) ∧
    (∃ (a : BitVec 48) (_e : SramError) (_s : State), sramAt (a.toNat / 8 * 8) = false) ∧
    (∃ (x : Ctx) (d : Cmd) (s : State), s.startableOp x.val 0x13 = some d ∧ s.Live x.val d ∧ s.testBusy d = true) ∧
    (∃ (x : Ctx) (d : Cmd) (s : State), s.startableOp x.val 0x13 = some d ∧ s.testBusy d = false ∧ d.items < 4) ∧
    (∃ (x : Ctx) (v : SelfTest) (d : Cmd) (i : Nat) (s : State), s.startableOp x.val 0x13 = none ∧ s.hive.test = some v ∧ v.x =
      x.val ∧ (s.ctx x.val).cmd v.idx = some d ∧ s.testReady v d = true ∧ (itemsOf v.items)[v.ran]? = some i ∧ 2 ≤ i) ∧
    (∃ (x : Ctx) (v : SelfTest) (d : Cmd) (i k e : Nat) (s : State), s.startableOp x.val 0x13 = none ∧ s.hive.test = some v ∧ v.x
      = x.val ∧ (s.ctx x.val).cmd v.idx = some d ∧ s.testReady v d = true ∧ (itemsOf v.items)[v.ran]? = some i ∧ i < 2 ∧ v.dies =
      [e] ∧ s.spareSlot e = some k ∧ sget false s.hive.spareHeld e = true ∧ sget 0 v.codes e ≠ 2) ∧
    (∃ (x : Ctx) (v : SelfTest) (d : Cmd) (s : State), s.startableOp x.val 0x13 = none ∧ s.hive.test = some v ∧ v.x = x.val ∧
      v.idx = d.idx ∧ s.Live x.val d ∧ s.testReady v d = true ∧ (itemsOf v.items)[v.ran]? = none ∧ d.resultAddr + 128 ≤
      0x10000000000 ∧ s.isProtected d.resultAddr 128 = false) ∧
    (∃ (x : Ctx) (v : SelfTest) (d : Cmd) (s : State), s.startableOp x.val 0x13 = none ∧ s.hive.test = some v ∧ v.x = x.val ∧
      v.idx = d.idx ∧ s.Live x.val d ∧ s.testReady v d = true ∧ (itemsOf v.items)[v.ran]? = none ∧ s.isProtected d.resultAddr 128
      = true) ∧
    (∃ (x : Ctx) (v : SelfTest) (d : Cmd) (s : State), s.startableOp x.val 0x13 = none ∧ (s.hive.test = none ∨ (s.hive.test = some
      v ∧ (v.x ≠ x.val ∨ ((s.ctx x.val).cmd v.idx = some d ∧ s.testReady v d = false))))) :=
  ⟨⟨11, 8, 0, hv ({ on with ctxs := [(0, { c0 with cmds := [cm 1 1 0 .started], runs := [⟨1, 0, [8], none, false⟩] })] }) (fun v
      => { v with hives := [(8, { run := some (0, 1) })] }), by decide +kernel⟩,
    ⟨12, 9, hv (on) (fun v => { v with failed := [(10, true)] }), by decide +kernel⟩,
    ⟨10, on, by decide +kernel⟩,
    ⟨11, hv (on) (fun v => { v with failed := [(11, true)] }), by decide +kernel⟩,
    ⟨2, 8, 0, hv (on) (fun v => { v with failed := [(11, true)] }), by decide +kernel⟩,
    ⟨2, 8, hv (on) (fun v => { v with failed := [(10, true), (11, true)] }), by decide +kernel⟩,
    ⟨2, on, by decide +kernel⟩,
    ⟨0x100C0000008, on, by decide +kernel⟩,
    ⟨0x11000000010, on, by decide +kernel⟩,
    ⟨0x100C0000008, on, by decide +kernel⟩,
    ⟨0x40, .corrected, on, by decide +kernel⟩,
    ⟨0, cm 1 0x13 1, hv (ring [cm 1 0x13 1]) (fun v => { v with test := some ⟨3, 4, 1, [], [], 0⟩ }), ⟨by decide +kernel,
      ⟨by decide +kernel, by decide +kernel, by decide +kernel⟩, by decide +kernel⟩⟩,
    ⟨0, cm 1 0x13 1, ring [cm 1 0x13 1], by decide +kernel⟩,
    ⟨0, ⟨0, 1, 0x40, [], [], 0⟩, cm 1 0x13 0x40 .started, 6, hv (withRegs [(Off.pwrLimitStat, 0x40101000)] (ring [cm 1 0x13 0x40
      .started])) (fun v => { v with test := some ⟨0, 1, 0x40, [], [], 0⟩ }), by decide +kernel⟩,
    ⟨0, ⟨0, 1, 1, [2], [], 0⟩, cm 1 0x13 1 .started, 0, 0, 2, hv (ring [cm 1 0x13 1 .started]) (fun v =>
      { v with test := some ⟨0, 1, 1, [2], [], 0⟩, spareHeld := [(2, true)] }), by decide +kernel⟩,
    ⟨0, ⟨0, 1, 0x40, [], [(70, 1)], 1⟩, cm 1 0x13 0x40 .started, hv (ring [cm 1 0x13 0x40 .started]) (fun v =>
      { v with test := some ⟨0, 1, 0x40, [], [(70, 1)], 1⟩ }), ⟨by decide +kernel, by decide +kernel, by decide +kernel,
      by decide +kernel, ⟨by decide +kernel, by decide +kernel, by decide +kernel⟩, by decide +kernel⟩⟩,
    ⟨0, ⟨0, 1, 0x40, [], [(70, 1)], 1⟩, cm 1 0x13 0x40 .started, hv
      { on with ctxs := [(0, { c0 with cmds := [cm 1 0x13 0x40 .started], guards := [(9, [(0, 0x100000)])] })] } (fun v =>
      { v with test := some ⟨0, 1, 0x40, [], [(70, 1)], 1⟩ }), ⟨by decide +kernel, by decide +kernel, by decide +kernel,
      by decide +kernel, ⟨by decide +kernel, by decide +kernel, by decide +kernel⟩, by decide +kernel⟩⟩,
    ⟨0, ⟨0, 1, 0x40, [], [(70, 1)], 1⟩, cm 1 0x13 0x40 .started, on, by decide +kernel⟩⟩

/-- The clauses of ControlRowsExecuteAtFetch have something to speak of. -/
theorem hyps_ControlRowsExecuteAtFetch :
    (∃ (h : Hive) (x : Nat) (s : State) (r w : _), s.NextInsn h.val x .setx (.setx r w)) ∧
    (∃ (h : Hive) (x : Nat) (s : State) (r w : _), s.NextInsn h.val x .addx (.addx r w)) ∧
    (∃ (h : Hive) (x : Nat) (s : State) (r l g : _), s.NextInsn h.val x .blt (.blt r l g)) ∧
    (∃ (h : Hive) (x : Nat) (s : State), s.NextInsn h.val x .nop .nop) ∧
    (∃ (h : Hive) (x : Nat) (s : State), s.NextInsn h.val x .endStream .endStream) :=
  ⟨⟨0, 0, prog [0x50 + 3 * 2^8 + 9 * 2^32], 3, 9, by unfold State.NextInsn; decide +kernel⟩,
    ⟨0, 0, prog [0x51 + 3 * 2^8 + 9 * 2^32] (fun v => { v with xs := [0, 0, 0xFFFFFFFF, 0, 0, 0, 0] }), 3, 9,
      by unfold State.NextInsn; decide +kernel⟩,
    ⟨0, 0, prog [0, 0x52 + 3 * 2^8 + 9 * 2^32] (fun v => { v with pos := 1 }), 3, 9, 0, by unfold State.NextInsn; decide +kernel⟩,
    ⟨0, 0, prog [0], by unfold State.NextInsn; decide +kernel⟩,
    ⟨0, 0, prog [0x5F], by unfold State.NextInsn; decide +kernel⟩⟩

/-- The clauses of QueuedRowsRunInOrder have something to speak of. -/
theorem hyps_QueuedRowsRunInOrder :
    (∃ (h : Hive) (x q : Nat) (row : HiveRow) (i : Insn) (op : Op) (v : HiveState) (s : State), s.Queues h.val x row i q op v) ∧
    (∃ (h : Hive) (x q : Nat) (row : HiveRow) (i : Insn) (op : Op) (v : HiveState) (s : State) (u : _), s.Queues h.val x row i q
      op v ∧ v.queue q = [] ∧ q < v.queues.length ∧ (s.ctx x).fault = none ∧ (s.placed h.val x q op v).runEntry x h.val q v.mode
      { pos := v.pos, op := op } = .done u ∧ (u.ctx x).fault = none ∧ (u.hiveSt h.val).queues.length = v.queues.length) ∧
    (∃ (h : Hive) (x q : Nat) (row : HiveRow) (i : Insn) (_op : Op) (_v : HiveState) (s : State), s.NextInsn h.val x row i ∧
      i.queue = some q ∧ 64 ≤ ((s.hiveSt h.val).queue q).length) :=
  ⟨⟨0, 0, 5, .signal, .signal 5 false 5 1, .signal false 5 1, sigAcct, sig, ⟨by unfold State.NextInsn; decide +kernel, rfl, rfl,
      by decide +kernel, ok_of _ _ (by decide +kernel)⟩⟩,
    ⟨0, 0, 5, .signal, .signal 5 false 5 1, .signal false 5 1, sigAcct, sig, sigDone, ⟨⟨by unfold State.NextInsn; decide +kernel,
      rfl, rfl, by decide +kernel, ok_of _ _ (by decide +kernel)⟩, by decide +kernel, by decide +kernel, by decide +kernel,
      done_of _ (by decide +kernel), by decide +kernel⟩⟩,
    ⟨0, 0, 5, .signal, .signal 5 false 5 1, .signal false 5 1, {}, xl (prog [0x40 + 5 * 2^8 + 2^11 + 5 * 2^12 + 2^24] (fun v =>
      { v with queues := [[], [], [], [], [], List.replicate 64 { pos := 0, op := .wait 9 9 }] })),
      ⟨by unfold State.NextInsn; decide +kernel, by decide +kernel⟩⟩⟩

/-- The clauses of EntriesExecute have something to speak of. -/
theorem hyps_EntriesExecute :
    (∃ (_x _h _q _mode : Nat) (i : QItem) (_s _u : State) (o : _), i.op = .tile o) ∧
    (∃ (_x _h _q _mode : Nat) (i : QItem) (_s _u : State) (o : _), i.op = .drain o) ∧
    (∃ (_x _h _q _mode : Nat) (i : QItem) (_s _u : State) (o : _), i.op = .wop o) ∧
    (∃ (_x h _q _mode : Nat) (_i : QItem) (s _u : State) (rd wr : _), (extentEnds (rd ++ wr)).any s.onMove = false ∧ s.reachesAll
      (sectorOfHive h) (extentEnds (rd ++ wr)) = true ∧ s.sluicesOpen (rd ++ wr) = true) ∧
    (∃ (_x h _q _mode : Nat) (_i : QItem) (s _u : State) (rd wr : _), ((extentEnds (rd ++ wr)).any s.onMove = true ∨ s.reachesAll
      (sectorOfHive h) (extentEnds (rd ++ wr)) = false)) ∧
    (∃ (_x h _q _mode : Nat) (_i : QItem) (s _u : State) (rd wr : _), (extentEnds (rd ++ wr)).any s.onMove = false ∧ s.reachesAll
      (sectorOfHive h) (extentEnds (rd ++ wr)) = true ∧ s.sluicesOpen (rd ++ wr) = false) ∧
    (∃ (x h _q mode : Nat) (i : QItem) (s _u : State) (d : _), i.op = .dma d ∧ s.dmaHeld x (some (sectorOfHive h)) d = false ∧
      s.sluicesOpen (s.dmaExtents x d) = true ∧ (s.runDma x d (some (h, mode))).status = stOk ∧ (s.runDma x d (some (h,
      mode))).bad = none) ∧
    (∃ (x h _q _mode : Nat) (i : QItem) (s _u : State) (d : _), i.op = .dma d ∧ s.dmaHeld x (some (sectorOfHive h)) d = true) ∧
    (∃ (x h _q _mode : Nat) (i : QItem) (s _u : State) (d : _), i.op = .dma d ∧ s.dmaHeld x (some (sectorOfHive h)) d = false ∧
      s.sluicesOpen (s.dmaExtents x d) = false) ∧
    (∃ (x h _q _mode : Nat) (i : QItem) (s _u : State) (a id n : _), i.op = .signal a id n ∧ s.isLocal (s.xl x id) = true ∧
      s.accepted x (s.xl x id) = true ∧ s.counterFull (s.xl x id).object n = false ∧ s.overrun (s.xl x id).object n = false ∧
      s.homeAway (sectorOfHive h) false (s.xl x id).object = false ∧ s.sync.watches = []) ∧
    (∃ (x h q _mode : Nat) (i : QItem) (s _u : State) (id g : _), i.op = .wait id g ∧ s.waitMet x id g (waitTag h q) = true) ∧
    (∃ (x h q _mode : Nat) (i : QItem) (s _u : State) (id g : _), i.op = .wait id g ∧ s.waitMet x id g (waitTag h q) = false ∧
      i.held = true) ∧
    (∃ (x h q _mode : Nat) (i : QItem) (s _u : State) (id p : _), i.op = .barrier id ∧ s.partIndex (s.xl x id).object (.queue h q)
      = some p ∧ s.accepted x (s.xl x id) = true ∧ s.homeAway (sectorOfHive h) true (s.xl x id).object = false ∧ i.held = false ∧
      s.mayArrive (s.xl x id).object p = true ∧ (s.xl x id).hold = false) ∧
    (∃ (x h q _mode : Nat) (i : QItem) (s _u : State) (id p : _), i.op = .barrier id ∧ s.partIndex (s.xl x id).object (.queue h q)
      = some p ∧ s.accepted x (s.xl x id) = true ∧ s.homeAway (sectorOfHive h) true (s.xl x id).object = false ∧ i.held = false ∧
      s.mayArrive (s.xl x id).object p = false) ∧
    (∃ (x h q _mode : Nat) (i : QItem) (s _u : State) (id p : _), i.op = .barrier id ∧ s.partIndex (s.xl x id).object (.queue h q)
      = some p ∧ s.homeAway (sectorOfHive h) true (s.xl x id).object = true) ∧
    (∃ (x h q _mode : Nat) (i : QItem) (s _u : State) (id : _), i.op = .barrier id ∧ s.partIndex (s.xl x id).object (.queue h q) =
      none) :=
  ⟨⟨0, 0, 0, 0, { pos := 0, op := .tile tileOp }, prog [0x1234567], okOf on ((prog [0x1234567]).runTile 0 0 0 tileOp), tileOp,
      by decide +kernel⟩,
    ⟨0, 0, 0, 0, { pos := 0, op := .drain drainOp }, drainable, okOf on ((drainable).runDrain 0 0 0 drainOp), drainOp,
      by decide +kernel⟩,
    ⟨0, 0, 3, 0, { pos := 0, op := .wop wopOp }, prog [0x1234567], okOf on ((prog [0x1234567]).runWop 0 0 0 wopOp), wopOp,
      by decide +kernel⟩,
    ⟨0, 0, 0, 0, { pos := 0, op := .dma dmaOp }, on, prog [], [(0x1000, 64)], [(0x2000, 64)], by decide +kernel⟩,
    ⟨0, 0, 0, 0, { pos := 0, op := .dma dmaOp }, { on with hive := { moving := [(0, some 0)] } }, prog [], [(0x12000000000, 64)],
      [], by decide +kernel⟩,
    ⟨0, 0, 0, 0, { pos := 0, op := .dma dmaOp }, shut on, prog [], [(0x1000, 64)], [(0x2000, 64)], by decide +kernel⟩,
    ⟨0, 0, 4, 0, { pos := 0, op := .dma dmaOp }, prog [0x1234567], on, dmaOp, by decide +kernel⟩,
    ⟨0, 0, 4, 0, { pos := 0, op := .dma { dmaOp with src := 0x12000000000 } }, { on with hive := { moving := [(0, some 0)] } },
      on, { dmaOp with src := 0x12000000000 }, by decide +kernel⟩,
    ⟨0, 0, 4, 0, { pos := 0, op := .dma dmaOp }, shut (prog [0x1234567]), on, dmaOp, by decide +kernel⟩,
    ⟨0, 0, 5, 0, { pos := 0, op := .signal false 5 1 }, xl on, on, false, 5, 1, by decide +kernel⟩,
    ⟨0, 0, 5, 0, { pos := 0, op := .wait 5 0 }, xl on, on, 5, 0, by decide +kernel⟩,
    ⟨0, 0, 5, 0, { pos := 0, op := .wait 5 1, held := true }, xl on, on, 5, 1, by decide +kernel⟩,
    ⟨0, 0, 5, 0, { pos := 0, op := .barrier 5 }, xb on, on, 5, 0, by decide +kernel⟩,
    ⟨0, 0, 5, 0, { pos := 0, op := .barrier 5 }, xb { on with sync := { barriers := [(3, { arr := [(0, 2)] })] } }, on, 5, 0,
      by decide +kernel⟩,
    ⟨0, 0, 5, 0, { pos := 0, op := .barrier 5 }, xb { on with hive := { moving := [(0, some 0)] } }, on, 5, 0, by decide +kernel⟩,
    ⟨0, 0, 4, 0, { pos := 0, op := .barrier 5 }, xb on, on, 5, by decide +kernel⟩⟩

/-- The clauses of CopyMovesBytes have something to speak of. -/
theorem hyps_CopyMovesBytes :
    ∃ (x : Nat) (d : DmaOp) (s : State), d.mode = 0 ∧ d.src + d.count ≤ 0x10000000000 ∧ d.dst + d.count ≤ 0x10000000000 ∧
      s.mayAccess x d.src d.count = true ∧ s.mayAccess x d.dst d.count = true ∧ s.isProtected d.dst d.count = false ∧ s.mem.bad =
      [] :=
  ⟨0, dmaOp, prog [0x1234567], by decide +kernel⟩

/-- The clauses of FetchFailureAndRunEnd have something to speak of. -/
theorem hyps_FetchFailureAndRunEnd :
    (∃ (h : Hive) (x : Nat) (row : HiveRow) (s : State), s.FetchFails h.val x row) ∧
    (∃ (h : Hive) (x st : Nat) (row : HiveRow) (i : Insn) (s : State), s.CheckFails h.val x row i st) ∧
    (∃ (h : Hive) (x i a : Nat) (_row : HiveRow) (r : Run) (s : State), (s.hiveSt h.val).run = some (x, i) ∧ s.fetching h.val =
      true ∧ (s.hiveSt h.val).pos < (s.hiveSt h.val).len ∧ s.badAmong (s.fetchReads x (s.hiveSt h.val)) = some a ∧ a <
      0x10400000000 ∧ (s.ctx x).fault = none ∧ (s.ctx x).runs = [r] ∧ r.idx = i ∧ r.hives = [h.val] ∧ (s.hiveSt h.val).queues =
      List.replicate 6 []) ∧
    (∃ (h x i _p _st : Nat) (r : Run) (s : State), (s.hiveSt h).run = some (x, i) ∧ (s.ctx x).runs.find? (fun r => r.idx == i) =
      some r ∧ r.fail.isSome = true) ∧
    (∃ (h x i _p _st : Nat) (r : Run) (s : State), (s.hiveSt h).run = some (x, i) ∧ (s.ctx x).runs.find? (fun r => r.idx == i) =
      some r ∧ r.fail = none) ∧
    (∃ (h : Hive) (_row : HiveRow) (s : State), s.fetching h.val = false) ∧
    (∃ (x : Ctx) (r : Run) (d : Cmd) (s : State), s.doneRun x.val = some r ∧ s.Live x.val d ∧ d.idx = r.idx) ∧
    (∃ (x : Ctx) (s : State), s.doneRun x.val = none) ∧
    (∃ (x : Ctx) (r : Run) (d : Cmd) (s : State), (s.ctx x.val).runs = [r] ∧ r.suspended = true ∧ r.fail = none ∧ r.hives.all (fun
      h => (s.hiveSt h).idle) = true ∧ s.Live x.val d ∧ d.idx = r.idx ∧ d.suspended = false ∧ ((∀ e, e ∈ (s.ctx x.val).cmds →
      e.opcode ≠ 0x18))) ∧
    (∃ (x : Ctx) (r : Run) (d e : Cmd) (s : State), s.doneRun x.val = some r ∧ (s.ctx x.val).cmds = [d, e] ∧ d.live = true ∧
      e.opcode = 0x18 ∧ e.acted = true ∧ e.live = true ∧ d.idx = r.idx ∧ e.f 95 64 = r.idx ∧ d.idx ≠ e.idx ∧ (s.ctx
      x.val).suspends d.idx = [e]) ∧
    (∃ (x : Ctx) (s : State), (s.ctx x.val).runs = []) :=
  ⟨⟨0, 0, .tile, prog [], ⟨by decide +kernel, by decide +kernel, .inl (by decide +kernel)⟩⟩,
    ⟨0, 0, stBadDescriptor, .signal, .signal 5 false 5 1, prog [0x40 + 5 * 2^8 + 2^11 + 5 * 2^12 + 2^24], ⟨by decide +kernel,
      by decide +kernel, by decide +kernel, by decide +kernel, by decide +kernel, by decide +kernel, by decide +kernel, .inl
      (by decide +kernel)⟩⟩,
    ⟨0, 0, 1, 0x1000, .nop, ⟨1, 0, [0], none, false⟩, { prog [0] with mem := { (prog [0]).mem with bad := [(0x1000, true)] } },
      by decide +kernel⟩,
    ⟨0, 0, 1, 3, 0x10, ⟨1, 0, [0], some (5, 6), false⟩,
      { prog [] with ctxs := [(0, { c0 with runs := [⟨1, 0, [0], some (5, 6), false⟩] })] }, by decide +kernel⟩,
    ⟨0, 0, 1, 3, 0x10, ⟨1, 0, [0], none, false⟩, prog [], by decide +kernel⟩,
    ⟨0, .tile, on, by decide +kernel⟩,
    ⟨0, ⟨1, 0, [0], none, false⟩, cm 1 1 0 .started, prog [] (fun v => { v with ended := true }), ⟨by decide +kernel,
      ⟨by decide +kernel, by decide +kernel, by decide +kernel⟩, by decide +kernel⟩⟩,
    ⟨0, on, by decide +kernel⟩,
    ⟨0, ⟨1, 0, [0], none, true⟩, cm 1 1 0 .started,
      { prog [] with ctxs := [(0, { c0 with cmds := [cm 1 1 0 .started], runs := [⟨1, 0, [0], none, true⟩] })] },
      ⟨by decide +kernel, by decide +kernel, by decide +kernel, by decide +kernel, ⟨by decide +kernel, by decide +kernel,
      by decide +kernel⟩, by decide +kernel⟩⟩,
    ⟨0, ⟨1, 0, [0], none, false⟩, cm 1 1 0 .started, { cm 2 0x18 1 with acted := true },
      { prog [] (fun v => { v with ended := true }) with ctxs := [(0, { c0 with cmds := [cm 1 1 0 .started, { cm 2 0x18 1 with acted := true }], runs := [⟨1, 0, [0], none, false⟩] })] },
      by decide +kernel⟩,
    ⟨0, on, by decide +kernel⟩⟩

/-- The clauses of SignalMessageAtItsHome have something to speak of. -/
theorem hyps_SignalMessageAtItsHome :
    (∃ (m : SyncMsg) (s : State), m.type = 1 ∧ s.msgWaits m = false ∧ s.tooOld m = false ∧ m.gen = (s.counter m.object.toNat).gen
      ∧ s.originOk false m = true ∧ s.counterFull m.object.toNat m.value.toNat = false ∧ s.overrun m.object.toNat m.value.toNat =
      false ∧ s.sync.watches = []) ∧
    (∃ (m : SyncMsg) (s : State), m.type = 1 ∧ s.msgWaits m = false ∧ s.tooOld m = false ∧ m.gen = (s.counter m.object.toNat).gen
      ∧ s.originOk false m = true ∧ (s.counterFull m.object.toNat m.value.toNat = true ∨ s.overrun m.object.toNat m.value.toNat =
      true)) ∧
    (∃ (m : SyncMsg) (s : State), m.type = 1 ∧ s.msgWaits m = false ∧ s.tooOld m = false ∧ (m.gen ≠ (s.counter m.object.toNat).gen
      ∨ s.originOk false m = false)) ∧
    (∃ (m : SyncMsg) (s : State), m.type = 1 ∧ s.msgWaits m = false ∧ s.tooOld m = true) ∧
    (∃ (m : SyncMsg) (s : State), m.type = 1 ∧ s.msgWaits m = true) :=
  ⟨⟨sm 1 7 1, on, by decide +kernel⟩,
    ⟨sm 1 7 1, { on with sync := { counters := [(7, { value := 2^48 - 1 })] } }, by decide +kernel⟩,
    ⟨sm 1 7 1, { on with sync := { counters := [(7, { gen := 3 })] } }, by decide +kernel⟩,
    ⟨sm 1 7 1 0 38, on, by decide +kernel⟩,
    ⟨sm 1 7 1, { on with hive := { moving := [(0, some 0)] } }, by decide +kernel⟩⟩

/-- The clauses of WaitsWatchesAndReleases have something to speak of. -/
theorem hyps_WaitsWatchesAndReleases :
    (∃ (m : SyncMsg) (s : State), m.type = 2 ∧ watchesBarrier m = false ∧ s.msgWaits m = false ∧ s.tooOld m = false ∧ m.gen =
      (s.counter m.object.toNat).gen ∧ s.originOk false m = true ∧ s.sync.watches = [] ∧ s.stepCount m.object.toNat <
      m.value.toNat) ∧
    (∃ (m : SyncMsg) (s : State), m.type = 2 ∧ watchesBarrier m = false ∧ s.msgWaits m = false ∧ s.tooOld m = false ∧ m.gen =
      (s.counter m.object.toNat).gen ∧ s.originOk false m = true ∧ s.sync.watches = [] ∧ m.value.toNat ≤ s.stepCount
      m.object.toNat) ∧
    (∃ (m : SyncMsg) (i : Nat) (s : State), m.type = 3 ∧ s.tooOld m = false ∧ s.releaseFor m = some i) ∧
    (∃ (m : SyncMsg) (s : State), m.type = 3 ∧ s.tooOld m = false ∧ s.releaseFor m = none) ∧
    (∃ (x : Ctx) (d : Cmd) (s : State), (s.ctx x.val).stopped = false ∧ (s.ctx x.val).mayRun = true ∧ (s.ctx x.val).openWaits =
      [d] ∧ d.opcode = 4 ∧ s.waitMet x.val d.ident (d.f 175 128) (hostTag x.val) = true ∧ s.Live x.val d) ∧
    (∃ (h : Hive) (q : Fin 6) (x i id g : Nat) (e : QItem) (s : State), (s.hiveSt h.val).run = some (x, i) ∧ (s.hiveSt
      h.val).queue q.val = [e] ∧ q.val < (s.hiveSt h.val).queues.length ∧ e.op = .wait id g ∧ s.hive.halt = false ∧ s.waitMet x id
      g (waitTag h.val q.val) = true) ∧
    (∃ (i : Nat) (w : Watch) (s : State), s.sync.watches = [w] ∧ i = 0 ∧ w.target ≤ s.stepCount w.object) ∧
    (∃ (x : Ctx) (d : Cmd) (s : State), (s.ctx x.val).openWaits = [d] ∧ d.logged = false ∧ s.longHeld d.since = true) ∧
    (∃ (h : Hive) (q : Fin 6) (x i id g : Nat) (e : QItem) (r : List QItem) (s : State), (s.hiveSt h.val).run = some (x, i) ∧
      (s.hiveSt h.val).queue q.val = e :: r ∧ e.op = .wait id g ∧ e.held = true ∧ e.logged = false ∧ s.longHeld e.since = true) ∧
    (∃ (x : Ctx) (s : State), (s.ctx x.val).openWaits = []) ∧
    (∃ (i : Nat) (o : OutMsg) (s : State), s.sync.outbox[i]? = some o ∧ s.tooOld o.msg = true ∧ o.msg.origin.toNat = s.moduleNo ∧
      o.dest ≠ s.moduleNo) ∧
    (∃ (i : Nat) (s : State), ((∀ o, s.sync.outbox[i]? = some o → s.tooOld o.msg = false))) ∧
    (∃ (p : PortCode) (s : State), (∀ k ∈ (s.port p.toNat).packets, ((s.port p.toNat).queued k).2.filter s.tooOld = []) ∧ (∀ b ∈
      (s.port p.toNat).barges, b.2.heldMsgs.filter s.tooOld = [])) ∧
    (∃ (p : PortCode) (k : Packet) (m : SyncMsg) (s : State), (s.port p.toNat).queue = [k] ∧ (s.port p.toNat).barges = [] ∧
      (s.port p.toNat).outRest = [] ∧ (s.port p.toNat).inPart = [] ∧ packetMsgs k = [m] ∧ s.tooOld m = true ∧ m.origin.toNat ≠
      s.moduleNo ∧ k.dest.toNat ≠ s.moduleNo) ∧
    (∃ (m : SyncMsg) (s : State), s.sync.held = [.message m none] ∧ s.tooOld m = true) :=
  ⟨⟨sm 2 7 1, on, by decide +kernel⟩,
    ⟨sm 2 7 0, on, by decide +kernel⟩,
    ⟨sm 3 7 1 4096, 5, withRegs [(Off.synXlate 0 5, 0x8100000000000007)] (ring [cm 1 4 5 .started]), by decide +kernel⟩,
    ⟨sm 3 7 1 4096, on, by decide +kernel⟩,
    ⟨0, cm 1 4 5 .started, xl (ring [cm 1 4 5 .started]), ⟨by decide +kernel, by decide +kernel, by decide +kernel,
      by decide +kernel, by decide +kernel, ⟨by decide +kernel, by decide +kernel, by decide +kernel⟩⟩⟩,
    ⟨0, 5, 0, 1, 5, 0, { pos := 0, op := .wait 5 0, held := true }, xl (prog [] (fun v =>
      { v with queues := [[], [], [], [], [], [{ pos := 0, op := .wait 5 0, held := true }]] })), by decide +kernel⟩,
    ⟨0, ⟨false, 7, 0, 9, 0, 0, 0⟩, { on with sync := { watches := [⟨false, 7, 0, 9, 0, 0, 0⟩] } }, by decide +kernel⟩,
    ⟨0, cm 1 4 5 .started, xl (withRegs [(Off.synWaitLimit, 1000)] (ring [cm 1 4 5 .started])), by decide +kernel⟩,
    ⟨0, 5, 0, 1, 5, 0, { pos := 0, op := .wait 5 0, held := true }, [], xl (withRegs [(Off.synWaitLimit, 1000)] (prog [] (fun v =>
      { v with queues := [[], [], [], [], [], [{ pos := 0, op := .wait 5 0, held := true }]] }))), by decide +kernel⟩,
    ⟨0, on, by decide +kernel⟩,
    ⟨0, ⟨sm 1 7 1 0 38, 9, none, 0⟩, { on with sync := { outbox := [⟨sm 1 7 1 0 38, 9, none, 0⟩] } }, by decide +kernel⟩,
    ⟨0, on, by decide +kernel⟩,
    ⟨0, pt { queue := [⟨2, 0, 0, 3, 7, 0, 16, 1, msgBytes (sm 1 7 1)⟩] }, by decide +kernel⟩,
    ⟨0, ⟨2, 0, 0, 3, 7, 0, 16, 1, msgBytes ({ sm 1 7 1 0 38 with origin := 9 })⟩, { sm 1 7 1 0 38 with origin := 9 }, pt
      { queue := [⟨2, 0, 0, 3, 7, 0, 16, 1, msgBytes ({ sm 1 7 1 0 38 with origin := 9 })⟩] }, by decide +kernel⟩,
    ⟨{ sm 1 7 1 0 38 with origin := 9 }, { on with sync := { held := [.message ({ sm 1 7 1 0 38 with origin := 9 }) none] } },
      by decide +kernel⟩⟩

/-- The clauses of BarrierMessages have something to speak of. -/
theorem hyps_BarrierMessages :
    (∃ (m : SyncMsg) (p : Nat) (s : State), m.type = 4 ∧ s.msgWaits m = false ∧ s.tooOld m = false ∧ m.gen = (s.bar
      m.object.toNat).gen ∧ s.originOk true m = true ∧ s.partIndex m.object.toNat (.remote m.origin.toNat m.tag.toNat) = some p ∧
      s.hasParent m.object.toNat = false) ∧
    (∃ (m : SyncMsg) (p : Nat) (s : State), m.type = 4 ∧ s.msgWaits m = false ∧ s.tooOld m = false ∧ m.gen = (s.bar
      m.object.toNat).gen ∧ s.originOk true m = true ∧ s.partIndex m.object.toNat (.remote m.origin.toNat m.tag.toNat) = some p ∧
      s.flag (Off.synBarCfg m.object.toNat) 16 = true ∧ s.flag (Off.synBarCfg m.object.toNat) 17 = true ∧ m.object.toNat < 65536 ∧
      ((∀ j, j < s.barParts m.object.toNat → j ≠ p → (s.bar m.object.toNat).l < (s.bar m.object.toNat).a j)) ∧ (s.bar
      m.object.toNat).a p = (s.bar m.object.toNat).l) ∧
    (∃ (m : SyncMsg) (s : State), (m.type = 4 ∨ m.type = 5) ∧ s.msgWaits m = true) ∧
    (∃ (m : SyncMsg) (s : State), m.type = 4 ∧ s.msgWaits m = false ∧ s.tooOld m = false ∧ (m.gen ≠ (s.bar m.object.toNat).gen ∨
      s.originOk true m = false)) ∧
    (∃ (m : SyncMsg) (s : State), m.type = 5 ∧ s.msgWaits m = false ∧ s.tooOld m = false ∧ ((∀ j c, j < s.barParts m.object.toNat
      → s.part m.object.toNat j ≠ .child c)) ∧ s.acceptsRelease m.object.toNat m.origin.toNat m.tag.toNat m.gen true = true) ∧
    (∃ (m : SyncMsg) (s : State), m.type = 5 ∧ s.msgWaits m = false ∧ s.tooOld m = false ∧ s.acceptsRelease m.object.toNat
      m.origin.toNat m.tag.toNat m.gen true = false) :=
  ⟨⟨{ sm 4 3 1 4 with origin := 9 }, 0, withRegs [(Off.synBarCfg 3, 2^55 + 2^48), (Off.synBarPart 3 0, 0xC0000000 + 2^14 * 9 +
      4)] on, by decide +kernel⟩,
    ⟨{ sm 4 3 1 4 with origin := 9 }, 0, withRegs [(Off.synBarCfg 3, 2^55 + 2^48 + 2^16 + 2^17 + 4 + 9 * 2^18), (Off.synBarPart 3
      0, 0xC0000000 + 2^14 * 9 + 4)] on, by decide +kernel⟩,
    ⟨sm 4 3 1 4, { on with hive := { moving := [(0, some 0)] } }, by decide +kernel⟩,
    ⟨{ sm 4 3 1 4 with gen := 7 }, withRegs [(Off.synBarCfg 3, 2^55 + 2^48), (Off.synBarPart 3 0, 0xC0000000 + 2^14 * 9 + 4)] on,
      by decide +kernel⟩,
    ⟨{ sm 5 3 1 4 with origin := 9 }, withRegs [(Off.synBarCfg 3, 2^16 + 2^17 + 4 + 9 * 2^18)] on, ⟨by decide +kernel,
      by decide +kernel, by decide +kernel, fun j c hj => absurd (Nat.lt_of_lt_of_eq hj (show _ = 0 from by decide +kernel))
      (Nat.not_lt_zero j), by decide +kernel⟩⟩,
    ⟨sm 5 3 1, on, by decide +kernel⟩⟩

/-- The clauses of SynchronisationSetup have something to speak of. -/
theorem hyps_SynchronisationSetup :
    (∃ (f : Func) (x : Ctx) (i : Fin 4096) (v : Word) (s : State), s.barOpen = true ∧ s.mayWrite f.val .ctx x.val i.val = true ∧
      s.running x.val = false ∧ (xlOf v.toNat).valid = true ∧ (xlOf v.toNat).kind = 0 ∧ (xlOf v.toNat).remote = false ∧
      s.ownsCounter x.val (xlOf v.toNat).object = true) ∧
    (∃ (f : Func) (x : Ctx) (i : Fin 4096) (_v : Word) (s : State), s.barOpen = true ∧ s.mayWrite f.val .ctx x.val i.val = true ∧
      s.running x.val = true) ∧
    (∃ (f : Func) (x : Ctx) (i : Fin 4096) (v : Word) (s : State), s.barOpen = true ∧ s.mayWrite f.val .ctx x.val i.val = true ∧
      s.running x.val = false ∧ (xlOf v.toNat).valid = true ∧ (xlOf v.toNat).kind = 0 ∧ (xlOf v.toNat).remote = false ∧
      s.ownsCounter x.val (xlOf v.toNat).object = true ∧ (s.xl x.val i.val).pending = false ∧ s.rebindDue false (xlOf
      v.toNat).object = true) ∧
    (∃ (f : Func) (x : Ctx) (i : Fin 4096) (v : Word) (s : State), s.barOpen = true ∧ s.mayWrite f.val .ctx x.val i.val = true ∧
      s.running x.val = false ∧ (xlOf v.toNat).valid = true ∧ (xlOf v.toNat).kind = 0 ∧ (xlOf v.toNat).remote = false ∧
      s.ownsCounter x.val (xlOf v.toNat).object = true ∧ (s.xl x.val i.val).pending = false ∧ s.rebindDue false (xlOf
      v.toNat).object = false) ∧
    (∃ (x : Ctx) (i : Fin 4096) (o : Nat) (s : State), s.sync.rebinds = [⟨x.val, i.val, false, o⟩] ∧ s.rebindDue false o = true) ∧
    (∃ (_x : Ctx) (_i : Fin 4096) (s : State), s.sync.rebinds = []) ∧
    (∃ (_f : Func) (_x : Ctx) (_i : Fin 4096) (_v : Word) (s : State), s.barOpen = false) ∧
    (∃ (f : Func) (n : Fin 4368) (v : Word) (s : State), s.barOpen = true ∧ s.mayWrite f.val .slot n.val 0 = true ∧ s.ownerRuns
      (s.ownerOf true n.val) = false ∧ s.barCfgOk n.val v.toNat = true) ∧
    (∃ (f : Func) (n : Fin 4368) (j : Fin 64) (v : Word) (s : State), s.barOpen = true ∧ s.mayWrite f.val .slot n.val j.val = true
      ∧ s.ownerRuns (s.ownerOf true n.val) = false ∧ partOk n.val (v.toNat % 2 ^ 32) = true) ∧
    (∃ (f : Func) (n : Fin 4368) (v : Word) (s : State), s.barOpen = true ∧ s.mayWrite f.val .slot n.val 0 = true ∧ s.barCfgOk
      n.val v.toNat = false) ∧
    (∃ (_f : Func) (_n : Fin 4368) (_j : Option (Fin 64)) (_v : Word) (s : State), s.barOpen = false) :=
  ⟨⟨0, 0, 5, 0x8000000000000007, on, by decide +kernel⟩,
    ⟨0, 0, 5, 0x8000000000000007, prog [], by decide +kernel⟩,
    ⟨0, 0, 5, 0x8400000000000007, on, by decide +kernel⟩,
    ⟨0, 0, 5, 0x8400000000000007, { on with sync := { counters := [(7, { rebound := some 19999999000000 })] } },
      by decide +kernel⟩,
    ⟨0, 5, 7, { on with sync := { rebinds := [⟨0, 5, false, 7⟩] } }, by decide +kernel⟩,
    ⟨0, 5, on, by decide +kernel⟩,
    ⟨0, 0, 5, 0x8000000000000007, State.reset, by decide +kernel⟩,
    ⟨0, 3, 0, on, by decide +kernel⟩,
    ⟨0, 3, 0, 0x500, on, by decide +kernel⟩,
    ⟨0, 3, 0x0041000000000000, on, by decide +kernel⟩,
    ⟨0, 3, none, 0, State.reset, by decide +kernel⟩⟩

/-- The clauses of DoorbellsAndDescriptorReads have something to speak of. -/
theorem hyps_DoorbellsAndDescriptorReads :
    (∃ (f : Func) (x : Ctx) (v : BitVec 32) (s : State), s.barOpen = true ∧ s.funcOwns f.val (some x.val) = true ∧ (v - (s.ctx
      x.val).released).toNat ≤ (s.ctx x.val).sqSize ∧ (v - (s.ctx x.val).fetch).toNat ≤ (v - (s.ctx x.val).released).toNat) ∧
    (∃ (f : Func) (x : Ctx) (v : BitVec 32) (s : State), s.barOpen = true ∧ s.funcOwns f.val (some x.val) = true ∧ ((s.ctx
      x.val).sqSize < (v - (s.ctx x.val).released).toNat ∨ (v - (s.ctx x.val).released).toNat < (v - (s.ctx x.val).fetch).toNat)) ∧
    (∃ (f : Func) (x : Ctx) (v : BitVec 32) (s : State), s.barOpen = true ∧ s.funcOwns f.val (some x.val) = true ∧ ((s.ctx
      x.val).cqTail - v).toNat ≤ (s.ctx x.val).cqSize) ∧
    (∃ (f : Func) (x : Ctx) (v : BitVec 32) (s : State), s.barOpen = true ∧ s.funcOwns f.val (some x.val) = true ∧ (s.ctx
      x.val).cqSize < ((s.ctx x.val).cqTail - v).toNat) ∧
    (∃ (f : Func) (x : Ctx) (_v : BitVec 32) (s : State), s.barOpen = true ∧ s.funcOwns f.val (some x.val) = true) ∧
    (∃ (f : Func) (x : Ctx) (_v : BitVec 32) (s : State), s.barOpen = true ∧ s.funcOwns f.val (some x.val) = false) ∧
    (∃ (_f : Func) (_x : Ctx) (_v : BitVec 32) (s : State), s.barOpen = false) ∧
    (∃ (x : Ctx) (s : State), s.booted = true ∧ s.fail.moved = false ∧ s.hostOk x.val = true ∧ (s.ctx x.val).state ≠ 6 ∧ (s.ctx
      x.val).read = none ∧ (s.ctx x.val).replayReady = false ∧ 0 < (s.ctx x.val).readSize ∧ s.ideHolds (s.funcOf x.val) ((s.ctx
      x.val).sqBase + 64 * ((s.ctx x.val).fetch.toNat % 2 ^ (s.ctx x.val).sqLog)) = false) ∧
    (∃ (x : Ctx) (s : State), (s.hostOk x.val = false ∨ (s.ctx x.val).read.isSome = true ∨ (s.ctx x.val).readSize = 0)) ∧
    (∃ (x : Ctx) (i : BitVec 32) (u : Nat) (d : Cmd) (s : State), (s.ctx x.val).read = some (i, 1, u) ∧ (s.ctx x.val).cmds = [] ∧
      (s.ctx x.val).drain = none ∧ d = { idx := i.toNat, desc := s.slotDesc (s.ctx x.val) i, since := s.clk.now } ∧ s.descCheck
      x.val d = stOk) ∧
    (∃ (x : Ctx) (i : BitVec 32) (u : Nat) (d : Cmd) (s : State), (s.ctx x.val).read = some (i, 1, u) ∧ (s.ctx x.val).cmds = [] ∧
      (s.ctx x.val).drain = none ∧ d = { idx := i.toNat, desc := s.slotDesc (s.ctx x.val) i, since := s.clk.now } ∧ d.f 23 16 ≠ 1) ∧
    (∃ (x : Ctx) (i : BitVec 32) (n u : Nat) (c : CplStatus) (s : State), (s.ctx x.val).read = some (i, n, u) ∧ c ≠ .ok) ∧
    (∃ (x : Ctx) (_c : CplStatus) (s : State), (s.ctx x.val).read = none) :=
  ⟨⟨0, 0, 65, { on with ctxs := [(0, { c0 with tail := 5, fetch := 2, released := 1, cqTail := 9, cqHead := 4 })] },
      by decide +kernel⟩,
    ⟨0, 0, 66, { on with ctxs := [(0, { c0 with tail := 5, fetch := 2, released := 1, cqTail := 9, cqHead := 4 })] },
      by decide +kernel⟩,
    ⟨0, 0, 9, { on with ctxs := [(0, { c0 with tail := 5, fetch := 2, released := 1, cqTail := 9, cqHead := 4 })] },
      by decide +kernel⟩,
    ⟨0, 0, 10, { on with ctxs := [(0, { c0 with tail := 5, fetch := 2, released := 1, cqTail := 9, cqHead := 4 })] },
      by decide +kernel⟩,
    ⟨0, 0, 7, { on with ctxs := [(0, { c0 with tail := 5, fetch := 2, released := 1, cqTail := 9, cqHead := 4 })] },
      by decide +kernel⟩,
    ⟨1, 0, 7, { on with ctxs := [(0, { c0 with tail := 5, fetch := 2, released := 1, cqTail := 9, cqHead := 4 })] },
      by decide +kernel⟩,
    ⟨0, 0, 7, State.reset, by decide +kernel⟩,
    ⟨0, { on with ctxs := [(0, { c0 with tail := 5, fetch := 2, released := 1, cqTail := 9, cqHead := 4 })] }, by decide +kernel⟩,
    ⟨0, on, by decide +kernel⟩,
    ⟨0, 0, 7, _,
      { on with mem := { host := Memory.setNat [] 0x200000 64 (0x10018) }, ctxs := [(0, { c0 with tail := 1, read := some (0, 1, 7) })] },
      ⟨by decide +kernel, by decide +kernel, by decide +kernel, rfl, by decide +kernel⟩⟩,
    ⟨0, 0, 7, _,
      { on with mem := { host := Memory.setNat [] 0x200000 64 (0x20018) }, ctxs := [(0, { c0 with tail := 1, read := some (0, 1, 7) })] },
      ⟨by decide +kernel, by decide +kernel, by decide +kernel, rfl, by decide +kernel⟩⟩,
    ⟨0, 0, 1, 7, .aborted,
      { on with mem := { host := Memory.setNat [] 0x200000 64 (0) }, ctxs := [(0, { c0 with tail := 1, read := some (0, 1, 7) })] },
      by decide +kernel⟩,
    ⟨0, .ok, on, by decide +kernel⟩⟩

/-- The clauses of CompletionWrites have something to speak of. -/
theorem hyps_CompletionWrites :
    (∃ (x : Ctx) (e : Entry) (r : List Entry) (s : State), (s.ctx x.val).entries = e :: r ∧ s.mayWriteEntry x.val = true ∧ e.intr
      = false ∧ (s.ctx x.val).irqCount + 1 < s.irqEvery x.val) ∧
    (∃ (x : Ctx) (e : Entry) (r : List Entry) (s : State), (s.ctx x.val).entries = e :: r ∧ s.mayWriteEntry x.val = true ∧ e.intr
      = true ∧ s.flag (Off.ctxIrqCfg x.val) 0 = true ∧ s.msixMasked (s.funcOf x.val) (1 + x.val) = false) ∧
    (∃ (x : Ctx) (e : Entry) (r : List Entry) (c : CplStatus) (s : State), (s.ctx x.val).entries = e :: r ∧ s.mayWriteEntry x.val
      = true ∧ c ≠ .ok) ∧
    (∃ (x : Ctx) (_c : CplStatus) (s : State), ((s.ctx x.val).entries = [] ∨ s.mayWriteEntry x.val = false)) ∧
    (∃ (x : Ctx) (u : Nat) (s : State), (s.ctx x.val).irqSince = some u ∧ s.field (Off.ctxIrqCfg x.val) 31 16 ≠ 0 ∧ u + s.field
      (Off.ctxIrqCfg x.val) 31 16 * 1000000 ≤ s.clk.now ∧ s.hostOk x.val = true ∧ s.flag (Off.ctxIrqCfg x.val) 0 = true ∧
      s.msixMasked (s.funcOf x.val) (1 + x.val) = false) ∧
    (∃ (x : Ctx) (s : State), ((s.ctx x.val).irqSince = none ∨ s.field (Off.ctxIrqCfg x.val) 31 16 = 0 ∨ s.hostOk x.val = false)) :=
  ⟨⟨0, ⟨1, 0, 0, 1, 7, 0, false⟩, [], withRegs [(Off.ctxIrqCfg 0, 0x201)]
      { on with io := { on.io with msix := [(7, 0)] }, ctxs := [(0, { c0 with entries := [⟨1, 0, 0, 1, 7, 0, false⟩] })] },
      by decide +kernel⟩,
    ⟨0, ⟨1, 0, 0, 1, 7, 0, true⟩, [], withRegs [(Off.ctxIrqCfg 0, 0x201)]
      { on with io := { on.io with msix := [(7, 0)] }, ctxs := [(0, { c0 with entries := [⟨1, 0, 0, 1, 7, 0, true⟩] })] },
      by decide +kernel⟩,
    ⟨0, ⟨1, 0, 0, 1, 7, 0, true⟩, [], .aborted, withRegs [(Off.ctxIrqCfg 0, 0x201)]
      { on with io := { on.io with msix := [(7, 0)] }, ctxs := [(0, { c0 with entries := [⟨1, 0, 0, 1, 7, 0, true⟩] })] },
      by decide +kernel⟩,
    ⟨0, .ok, on, by decide +kernel⟩,
    ⟨0, 19999000000000, withRegs [(Off.ctxIrqCfg 0, 0x03E80001)]
      { on with io := { on.io with msix := [(7, 0)] }, ctxs := [(0, { c0 with irqSince := some 19999000000000 })] },
      by decide +kernel⟩,
    ⟨0, on, by decide +kernel⟩⟩

/-- The clauses of HostLossAndResets have something to speak of. -/
theorem hyps_HostLossAndResets :
    (∃ (_k x : Nat) (s : State), ((s.ctx x).state = 1 ∨ (s.ctx x).state = 5 ∨ (s.ctx x).state = 6)) ∧
    (∃ (_k x : Nat) (s : State), ((s.ctx x).state = 1 ∨ (s.ctx x).state = 5 ∨ (s.ctx x).state = 6)) ∧
    (∃ (_k x : Nat) (s : State), ((s.ctx x).state = 1 ∨ (s.ctx x).state = 5 ∨ (s.ctx x).state = 6)) ∧
    (∃ (_k x : Nat) (s : State), ((s.ctx x).state = 2 ∨ (s.ctx x).state = 3 ∨ (s.ctx x).state = 4)) ∧
    (∃ (x : Ctx) (s : State), s.field (Off.ctxHbCfg x.val) 15 0 ≠ 0 ∧ (s.ctx x.val).lastBeat + s.field (Off.ctxHbCfg x.val) 15 0 *
      1000000000 ≤ s.clk.now ∧ ((s.ctx x.val).state = 1 ∨ (s.ctx x.val).state = 5 ∨ (s.ctx x.val).state = 6)) ∧
    (∃ (x : Ctx) (s : State), (s.field (Off.ctxHbCfg x.val) 15 0 = 0 ∨ s.clk.now < (s.ctx x.val).lastBeat + s.field (Off.ctxHbCfg
      x.val) 15 0 * 1000000000 ∨ ((s.ctx x.val).state ≠ 1 ∧ (s.ctx x.val).state ≠ 5 ∧ (s.ctx x.val).state ≠ 6))) ∧
    (∃ (x : Ctx) (s : State), s.hostOk x.val = true) ∧
    (∃ (x : Ctx) (s : State), s.hostOk x.val = false) ∧
    (∃ (f : Func) (s : State), s.flag (Off.hifFuncStat f.val) 63 = true) ∧
    (∃ (f : Func) (s : State), s.flag (Off.hifFuncStat f.val) 62 = false) ∧
    (∃ (f : Func) (s : State), s.flag (Off.hifFuncStat f.val) 63 = false) ∧
    (∃ (f : Func) (s : State), s.flag (Off.hifFuncStat f.val) 62 = true) ∧
    (∃ (s : State), s.flag (Off.hifFuncStat 0) 61 = true) ∧
    (∃ (s : State), s.flag (Off.hifFuncStat 0) 61 = false) ∧
    (∃ (f : Func) (_s : State), f.val ≠ 0) ∧
    (∃ (f : Func) (_s : State), f.val = 0) ∧
    (∃ (s : State), s.pwr.aux = true ∧ s.flag Off.hifLinkStat 1 = false) ∧
    (∃ (s : State), (s.pwr.aux = false ∨ s.flag Off.hifLinkStat 1 = true)) :=
  ⟨⟨3, 0, { on with ctxs := [(0, c0)] }, by decide +kernel⟩,
    ⟨3, 0, { on with ctxs := [(0, c0)] }, by decide +kernel⟩,
    ⟨3, 0, { on with ctxs := [(0, c0)] }, by decide +kernel⟩,
    ⟨3, 0, { on with ctxs := [(0, { c0 with state := 2 })] }, by decide +kernel⟩,
    ⟨0, withRegs [(Off.ctxHbCfg 0, 100)] { on with ctxs := [(0, c0)] }, by decide +kernel⟩,
    ⟨0, withRegs [(Off.ctxHbCfg 0, 0)] { on with ctxs := [(0, c0)] }, by decide +kernel⟩,
    ⟨0, { on with ctxs := [(0, c0)] }, by decide +kernel⟩,
    ⟨0, on, by decide +kernel⟩,
    ⟨0, { on with ctxs := [(0, c0)] }, by decide +kernel⟩,
    ⟨0, { on with ctxs := [(0, c0)] }, by decide +kernel⟩,
    ⟨1, on, by decide +kernel⟩,
    ⟨0, on.setFlag (Off.hifFuncStat 0) 62 true, by decide +kernel⟩,
    ⟨withRegs [(Off.hifFuncStat 2, 0x8000000000000000), (Off.secCtxFunc 1, 0x12)] { on with ctxs := [(1, c0)] },
      by decide +kernel⟩,
    ⟨State.reset, by decide +kernel⟩,
    ⟨2, withRegs [(Off.hifFuncStat 2, 0x8000000000000000), (Off.secCtxFunc 1, 0x12)] { on with ctxs := [(1, c0)] },
      by decide +kernel⟩,
    ⟨0, { on with ctxs := [(0, c0)] }, by decide +kernel⟩,
    ⟨{ on with regs := [] }, by decide +kernel⟩,
    ⟨State.reset, by decide +kernel⟩⟩

/-- The clauses of ConfigurationParkingAndHostErrors have something to speak of. -/
theorem hyps_ConfigurationParkingAndHostErrors :
    (∃ (_f : Func) (_a : ConfigAccess) (s : State), s.io.perst = false ∧ s.pwr.aux = true ∧ s.flag Off.hifLinkStat 1 = true ∧
      s.bootStep < 6) ∧
    (∃ (f : Func) (_a : ConfigAccess) (s : State), s.io.perst = false ∧ s.pwr.aux = true ∧ s.flag Off.hifLinkStat 1 = true ∧ 6 ≤
      s.bootStep ∧ f.val ≠ 0 ∧ s.flag (Off.hifFuncStat 0) 61 = false) ∧
    (∃ (f : Func) (a : ConfigAccess) (s : State), s.io.perst = false ∧ s.pwr.aux = true ∧ s.flag Off.hifLinkStat 1 = true ∧ 6 ≤
      s.bootStep ∧ (f.val = 0 ∨ s.flag (Off.hifFuncStat 0) 61 = true) ∧ rejectsConfig a = false) ∧
    (∃ (f : Func) (_i : Fin 3) (c : BitVec 3) (_k : BitVec 4) (_w : BitVec 5) (_b : BitVec 64) (s : State), s.io.perst = false ∧
      s.pwr.aux = true ∧ s.flag Off.hifLinkStat 1 = true ∧ 6 ≤ s.bootStep ∧ (f.val = 0 ∨ s.flag (Off.hifFuncStat 0) 61 = true) ∧
      c.toNat ≤ 2) ∧
    (∃ (f : Func) (_i : Fin 3) (c : BitVec 3) (_k : BitVec 4) (_w : BitVec 5) (_b : BitVec 64) (s : State), s.io.perst = false ∧
      s.pwr.aux = true ∧ s.flag Off.hifLinkStat 1 = true ∧ 6 ≤ s.bootStep ∧ (f.val = 0 ∨ s.flag (Off.hifFuncStat 0) 61 = true) ∧
      c.toNat ≤ 5) ∧
    (∃ (f : Func) (_i : Fin 3) (_c : BitVec 3) (k : BitVec 4) (_w : BitVec 5) (_b : BitVec 64) (s : State), s.io.perst = false ∧
      s.pwr.aux = true ∧ s.flag Off.hifLinkStat 1 = true ∧ 6 ≤ s.bootStep ∧ (f.val = 0 ∨ s.flag (Off.hifFuncStat 0) 61 = true) ∧
      timeoutCodes.contains k.toNat = true) ∧
    (∃ (f : Func) (i : Fin 3) (_c : BitVec 3) (_k : BitVec 4) (_w : BitVec 5) (_b : BitVec 64) (s : State), s.io.perst = false ∧
      s.pwr.aux = true ∧ s.flag Off.hifLinkStat 1 = true ∧ 6 ≤ s.bootStep ∧ (f.val = 0 ∨ s.flag (Off.hifFuncStat 0) 61 = true) ∧
      f.val = 0 ∧ i.val < (sget ({} : FuncCfg) s.io.cfg 0).bars.length) ∧
    (∃ (f : Func) (i : Fin 3) (_c : BitVec 3) (_k : BitVec 4) (_w : BitVec 5) (_b : BitVec 64) (s : State), s.io.perst = false ∧
      s.pwr.aux = true ∧ s.flag Off.hifLinkStat 1 = true ∧ 6 ≤ s.bootStep ∧ (f.val = 0 ∨ s.flag (Off.hifFuncStat 0) 61 = true) ∧
      f.val = 0 ∧ i.val < (sget ({} : FuncCfg) s.io.cfg 0).vfBars.length) ∧
    (∃ (f : Func) (_i : Fin 3) (_c : BitVec 3) (_k : BitVec 4) (_w : BitVec 5) (_b : BitVec 64) (s : State), s.io.perst = false ∧
      s.pwr.aux = true ∧ s.flag Off.hifLinkStat 1 = true ∧ 6 ≤ s.bootStep ∧ (f.val = 0 ∨ s.flag (Off.hifFuncStat 0) 61 = true) ∧
      f.val ≠ 0) ∧
    (∃ (f : Func) (_i : Fin 3) (_c : BitVec 3) (_k : BitVec 4) (w : BitVec 5) (_b : BitVec 64) (s : State), s.io.perst = false ∧
      s.pwr.aux = true ∧ s.flag Off.hifLinkStat 1 = true ∧ 6 ≤ s.bootStep ∧ (f.val = 0 ∨ s.flag (Off.hifFuncStat 0) 61 = true) ∧
      w.toNat ∈ [1, 2, 4, 8, 16] ∧ w.toNat ≤ s.field Off.hifLinkStat 47 40) ∧
    (∃ (f : Func) (a : ConfigAccess) (s : State), s.io.perst = false ∧ s.pwr.aux = true ∧ s.flag Off.hifLinkStat 1 = true ∧ 6 ≤
      s.bootStep ∧ (f.val = 0 ∨ s.flag (Off.hifFuncStat 0) 61 = true) ∧ rejectsConfig a = true) ∧
    (∃ (_f : Func) (_a : ConfigAccess) (s : State), (s.io.perst = true ∨ s.pwr.aux = false)) ∧
    (∃ (x : Ctx) (s : State), (s.ctx x.val).state = 2 ∧ (s.ctx x.val).sweep = none ∧ s.waitsHost x.val = false ∧ (s.ctx
      x.val).stepCmds = [] ∧ (s.ctx x.val).abandon = none) ∧
    (∃ (x : Ctx) (s : State), (s.ctx x.val).state = 2 ∧ (s.ctx x.val).sweep = none ∧ s.waitsHost x.val = true ∧ s.joined x.val =
      false) ∧
    (∃ (x : Ctx) (s : State), (s.ctx x.val).state ≠ 2) ∧
    (∃ (x : Ctx) (c : CplStatus) (d : Cmd) (s : State), c ≠ .ok ∧ s.hostOk x.val = true ∧ (s.ctx x.val).runs = [] ∧ s.hostCmd
      x.val = some d ∧ s.Live x.val d) ∧
    (∃ (x : Ctx) (c : CplStatus) (h p : Nat) (s : State), c ≠ .ok ∧ s.hostOk x.val = true ∧ (s.ctx x.val).runHives.find? (fun g =>
      !(s.headEnds g).isEmpty) = none ∧ s.hostCmd x.val = none ∧ (s.ctx x.val).runHives.find? (fun g => (s.hiveSt
      g).hostAt.isSome) = some h ∧ (s.hiveSt h).hostAt = some p) ∧
    (∃ (x : Ctx) (_c : CplStatus) (s : State), s.hostOk x.val = false) :=
  ⟨⟨0, .read, booting 5, by decide +kernel⟩,
    ⟨1, .read, on.setFlag (Off.hifFuncStat 0) 61 false, by decide +kernel⟩,
    ⟨0, .busMasterEnable, on, by decide +kernel⟩,
    ⟨0, 1, 2, 9, 4, 0x12345678, withRegs [(Off.hifLinkStat, 2 + 2^32 * 16 + 2^40 * 16)] on, by decide +kernel⟩,
    ⟨0, 1, 2, 9, 4, 0x12345678, withRegs [(Off.hifLinkStat, 2 + 2^32 * 16 + 2^40 * 16)] on, by decide +kernel⟩,
    ⟨0, 1, 2, 9, 4, 0x12345678, withRegs [(Off.hifLinkStat, 2 + 2^32 * 16 + 2^40 * 16)] on, by decide +kernel⟩,
    ⟨0, 1, 2, 9, 4, 0x12345678, withRegs [(Off.hifLinkStat, 2 + 2^32 * 16 + 2^40 * 16)] on, by decide +kernel⟩,
    ⟨0, 1, 2, 9, 4, 0x12345678, withRegs [(Off.hifLinkStat, 2 + 2^32 * 16 + 2^40 * 16)] on, by decide +kernel⟩,
    ⟨1, 1, 2, 9, 4, 0x12345678, withRegs [(Off.hifLinkStat, 2 + 2^32 * 16 + 2^40 * 16)] on, by decide +kernel⟩,
    ⟨0, 1, 2, 9, 4, 0x12345678, withRegs [(Off.hifLinkStat, 2 + 2^32 * 16 + 2^40 * 16)] on, by decide +kernel⟩,
    ⟨0, .unlisted .needed, on, by decide +kernel⟩,
    ⟨0, .read, State.reset, by decide +kernel⟩,
    ⟨0, { on with ctxs := [(0, { c0 with state := 2 })] }, by decide +kernel⟩,
    ⟨0, { on with ctxs := [(0, { c0 with state := 2, drain := some 3 })] }, by decide +kernel⟩,
    ⟨0, on, by decide +kernel⟩,
    ⟨0, .aborted, cm 1 2 (2^64 * 0x1000 + 2^128 * 0x800000000000) .started, ring [cm 1 2 (2^64 * 0x1000 + 2^128 * 0x800000000000)
      .started], ⟨by decide +kernel, by decide +kernel, by decide +kernel, by decide +kernel, ⟨by decide +kernel,
      by decide +kernel, by decide +kernel⟩⟩⟩,
    ⟨0, .aborted, 0, 0x10,
      { prog [] (fun v => { v with hostAt := some 0x10 }) with ctxs := [(0, { c0 with runs := [⟨1, 0, [0], none, false⟩] })] },
      by decide +kernel⟩,
    ⟨0, .aborted, on, by decide +kernel⟩⟩

/-- The clauses of RingSetupAndReattachment have something to speak of. -/
theorem hyps_RingSetupAndReattachment :
    (∃ (f : Func) (x : Ctx) (v : Word) (s : State), s.barOpen = true ∧ s.mayWrite f.val .ctx x.val 0 = true ∧ s.ctxEnabled x.val =
      true ∧ v.toNat.testBit 31 = true ∧ sizeOk (bits v.toNat 4 0) = true ∧ sizeOk (bits v.toNat 12 8) = true ∧ s.flag
      (Off.ctxRingCfg x.val) 31 = false ∧ (s.ctx x.val).state = 0) ∧
    (∃ (f : Func) (x : Ctx) (v : Word) (s : State), s.barOpen = true ∧ s.mayWrite f.val .ctx x.val 0 = true ∧ s.ctxEnabled x.val =
      true ∧ v.toNat.testBit 31 = true ∧ sizeOk (bits v.toNat 4 0) = false) ∧
    (∃ (f : Func) (x : Ctx) (s : State), s.barOpen = true ∧ s.mayWrite f.val .ctx x.val 0 = true ∧ s.mayAttach x.val = true ∧
      (s.ctx x.val).fault = none) ∧
    (∃ (f : Func) (x : Ctx) (s : State), s.barOpen = true ∧ s.mayWrite f.val .ctx x.val 0 = true ∧ s.mayAttach x.val = true ∧
      s.joined x.val = false ∧ (s.ctx x.val).stepCmds = []) ∧
    (∃ (f : Func) (x : Ctx) (s : State), s.barOpen = true ∧ s.mayWrite f.val .ctx x.val 0 = true ∧ s.mayAttach x.val = true ∧
      s.joined x.val = false ∧ (s.ctx x.val).stepCmds ≠ [] ∧ (s.ctx x.val).ending = false ∧ s.journalBad x.val = none) ∧
    (∃ (f : Func) (x : Ctx) (s : State), s.barOpen = true ∧ s.mayWrite f.val .ctx x.val 0 = true ∧ s.mayAttach x.val = false) ∧
    (∃ (_f : Func) (_x : Ctx) (_v : Word) (s : State), s.barOpen = false) :=
  ⟨⟨0, 0, 0x80000606, on, by decide +kernel⟩,
    ⟨0, 0, 0x80000605, on, by decide +kernel⟩,
    ⟨0, 0, withRegs [(Off.ctxRingCfg 0, 0x80000606)] { on with ctxs := [(0, { c0 with state := 3 })] }, by decide +kernel⟩,
    ⟨0, 0, withRegs [(Off.ctxRingCfg 0, 0x80000606)] { on with ctxs := [(0, { c0 with state := 3 })] }, by decide +kernel⟩,
    ⟨0, 0, withRegs [(Off.ctxRingCfg 0, 0x80000606)]
      { on with ctxs := [(0, { c0 with state := 4, cmds := [cm 1 1 0 .started] })] }, by decide +kernel⟩,
    ⟨0, 0, on, by decide +kernel⟩,
    ⟨0, 0, 0, State.reset, by decide +kernel⟩⟩

/-- The clauses of StepAbandonment have something to speak of. -/
theorem hyps_StepAbandonment :
    (∃ (x : Ctx) (a : Abandon) (st : Nat) (s : State), (s.ctx x.val).fault = some (a, st) ∧ (s.ctx x.val).ending = false ∧
      (s.joined x.val = false ∨ a = .moved) ∧ (a ≠ .replay ∨ s.journalBad x.val = none)) ∧
    (∃ (x : Ctx) (a : Abandon) (st : Nat) (d : Cmd) (s : State), (s.ctx x.val).fault = some (a, st) ∧ (s.ctx x.val).ending = false
      ∧ s.joined x.val = false ∧ (s.ctx x.val).cmds = [d] ∧ d.isStep = true ∧ d.past = false ∧ d.phase = .started ∧ s.journalBad
      x.val = none) ∧
    (∃ (x : Ctx) (st u : Nat) (s : State), (s.ctx x.val).fault = some (.replay, st) ∧ (s.ctx x.val).ending = false ∧ s.joined
      x.val = false ∧ s.journalBad x.val = some u) ∧
    (∃ (x : Ctx) (s : State), ((s.ctx x.val).fault = none ∨ (s.ctx x.val).ending = true)) :=
  ⟨⟨0, .fail, 0x32,
      { prog [] with ctxs := [(0, { c0 with fault := some (.fail, 0x32), cmds := [cm 1 1 0 .started], runs := [⟨1, 0, [0], none, false⟩] })] },
      by decide +kernel⟩,
    ⟨0, .fail, 0x32, cm 1 1 0 .started,
      { prog [] with ctxs := [(0, { c0 with fault := some (.fail, 0x32), cmds := [cm 1 1 0 .started], runs := [⟨1, 0, [0], none, false⟩] })] },
      by decide +kernel⟩,
    ⟨0, 0x32, 0x700,
      { on with mem := { bad := [(0x700, true)] }, ctxs := [(0, { c0 with fault := some (.replay, 0x32), journal := [{ addr := 0x500, fmt := 5, old := [7, 8], scaleAddr := none, oldScale := 0, kept := 0x700 }] })] },
      by decide +kernel⟩,
    ⟨0, on, by decide +kernel⟩⟩

/-- The clauses of RestoreAndReplay have something to speak of. -/
theorem hyps_RestoreAndReplay :
    (∃ (x : Ctx) (a : Abandon) (u : Nat) (s : State), (s.ctx x.val).abandon = some (a, u) ∧ (u + 1000000000 ≤ s.clk.now ∨ (s.ctx
      x.val).state = 4) ∧ swf {} s.layersC = true) ∧
    (∃ (x r k g : Nat) (o : List Byte) (s : State), (s.ctx x).journal =
      [{ addr := r, fmt := g, old := o, scaleAddr := none, oldScale := 0, kept := k }] ∧ r + o.length ≤ 0x10000000000 ∧ s.badIn k
      (o.length + 8) = none) ∧
    (∃ (x r k g : Nat) (o : List Byte) (s : State) (b : _), (s.ctx x).journal =
      [{ addr := r, fmt := g, old := o, scaleAddr := none, oldScale := 0, kept := k }] ∧ r + o.length ≤ 0x10000000000 ∧ s.badIn k
      (o.length + 8) = none ∧ (b < r ∨ r + o.length ≤ b)) ∧
    (∃ (x b : Nat) (v : Byte) (s : State), (s.ctx x).touched = [] ∧ (s.ctx x).mapOld = [(b, v)] ∧ b < 0x10000000000) ∧
    (∃ (x b : Nat) (v : Byte) (s : State) (c : _), (s.ctx x).touched = [] ∧ (s.ctx x).mapOld = [(b, v)] ∧ b < 0x10000000000 ∧ c ≠
      b) ∧
    (∃ (x : Ctx) (a : Abandon) (u : Nat) (s : State), (s.ctx x.val).abandon = some (a, u) ∧ s.clk.now < u + 1000000000 ∧ (s.ctx
      x.val).state ≠ 4) ∧
    (∃ (x : Ctx) (s : State), (s.ctx x.val).abandon = none) ∧
    (∃ (x : Ctx) (s : State), (s.ctx x.val).replayReady = true ∧ (s.ctx x.val).drain = none ∧ s.repaired x.val = true) ∧
    (∃ (x : Ctx) (s : State), ((s.ctx x.val).replayReady = false ∨ (s.ctx x.val).drain.isSome = true ∨ s.repaired x.val = false)) :=
  ⟨⟨0, .replay, 19998000000000,
      { { on with sync := { counters := [(7, { value := 9, committed := 4 })], barriers := [(3, { arr := [(0, 2)], cArr := [(0, 1)], cl := 1 })] }, layers := [(2, { path := true })] } with ctxs := [(0, { c0 with abandon := some (.replay, 19998000000000) })] },
      by decide +kernel⟩,
    ⟨0, 0x500, 0x700, 5, [7, 8],
      { on with ctxs := [(0, { c0 with journal := [{ addr := 0x500, fmt := 5, old := [7, 8], scaleAddr := none, oldScale := 0, kept := 0x700 }] })] },
      by decide +kernel⟩,
    ⟨0, 0x500, 0x700, 5, [7, 8],
      { on with ctxs := [(0, { c0 with journal := [{ addr := 0x500, fmt := 5, old := [7, 8], scaleAddr := none, oldScale := 0, kept := 0x700 }] })] },
      0x502, by decide +kernel⟩,
    ⟨0, 0x600, 9, { on with ctxs := [(0, { c0 with mapOld := [(0x600, 9)] })] }, by decide +kernel⟩,
    ⟨0, 0x600, 9, { on with ctxs := [(0, { c0 with mapOld := [(0x600, 9)] })] }, 0x601, by decide +kernel⟩,
    ⟨0, .replay, 19999500000000, { on with ctxs := [(0, { c0 with abandon := some (.replay, 19999500000000) })] },
      by decide +kernel⟩,
    ⟨0, on, by decide +kernel⟩,
    ⟨0, { on with ctxs := [(0, { c0 with replayReady := true, cmds := [cm 1 1] })] }, by decide +kernel⟩,
    ⟨0, on, by decide +kernel⟩⟩

/-- The clauses of RunProgramsAndJoinedSteps have something to speak of. -/
theorem hyps_RunProgramsAndJoinedSteps :
    (∃ (x : Ctx) (d : Cmd) (s : State), s.startableOp x.val 1 = some d ∧ s.Live x.val d ∧ s.runCheck x.val (d.addr 64) ≠ stOk ∧
      s.badAmong (s.imageReads x.val (d.addr 64)) = none) ∧
    (∃ (x : Ctx) (d : Cmd) (s : State), s.startableOp x.val 1 = some d ∧ s.Live x.val d ∧ s.runCheck x.val (d.addr 64) = stOk ∧
      s.badAmong (s.imageReads x.val (d.addr 64)) = none ∧ ((∀ l, l ∈ (s.hivesOf x.val).take (s.imageHdr x.val (d.addr 64)).hives
      → (s.hiveSt l).run = none ∧ sget none s.hive.moving l = none))) ∧
    (∃ (x : Ctx) (d : Cmd) (l : Nat) (s : State), s.startableOp x.val 1 = some d ∧ s.runCheck x.val (d.addr 64) = stOk ∧
      s.badAmong (s.imageReads x.val (d.addr 64)) = none ∧ l ∈ (s.hivesOf x.val).take (s.imageHdr x.val (d.addr 64)).hives ∧
      ((s.hiveSt l).run.isSome = true ∨ (sget none s.hive.moving l).isSome = true)) ∧
    (∃ (x : Ctx) (s : State), s.startableOp x.val 1 = none) ∧
    (∃ (x : Ctx) (a : Abandon) (st : Nat) (s : State), (s.ctx x.val).fault = some (a, st) ∧ s.joined x.val = true ∧ (s.ctx
      x.val).heldReported = false ∧ (s.ctx x.val).ending = false ∧ a ≠ .moved ∧ (s.ctx x.val).state = 1) ∧
    (∃ (x : Ctx) (s : State), ((s.ctx x.val).fault = none ∨ s.joined x.val = false ∨ (s.ctx x.val).heldReported = true)) ∧
    (∃ (x : Ctx) (act lr : Nat) (s : State), (s.ctx x.val).jobAct = some (act, lr) ∧ s.clk.lock = true ∧ lr ≤ s.lockCycle ∧ (s.ctx
      x.val).ending = false ∧ (s.ctx x.val).state = 5 ∧ (act ≠ 1 ∨ s.journalBad x.val = none)) ∧
    (∃ (x : Ctx) (act lr : Nat) (s : State), (s.ctx x.val).jobAct = some (act, lr) ∧ (s.clk.lock = false ∨ s.lockCycle < lr)) ∧
    (∃ (x : Ctx) (s : State), (s.ctx x.val).jobAct = none) :=
  ⟨⟨0, cm 1 1 0x10000, ring [cm 1 1 0x10000], ⟨by decide +kernel, ⟨by decide +kernel, by decide +kernel, by decide +kernel⟩,
      by decide +kernel⟩⟩,
    ⟨0, cm 1 1 0x10000,
      { ring [cm 1 1 0x10000] with mem := { dev := Memory.setBytes [] 0x10000 (natLe 1213616199 4 ++ natLe 1 2 ++ natLe 0 2 ++ natLe 1 2 ++ natLe 0 6 ++ natLe 64 8 ++ natLe 96 8 ++ natLe 0 32 ++ natLe 5 4 ++ natLe 1 4) } },
      ⟨by decide +kernel, ⟨by decide +kernel, by decide +kernel, by decide +kernel⟩, by decide +kernel⟩⟩,
    ⟨0, cm 1 1 0x10000, 0,
      { { ring [cm 1 1 0x10000] with mem := { dev := Memory.setBytes [] 0x10000 (natLe 1213616199 4 ++ natLe 1 2 ++ natLe 0 2 ++ natLe 1 2 ++ natLe 0 6 ++ natLe 64 8 ++ natLe 96 8 ++ natLe 0 32 ++ natLe 5 4 ++ natLe 1 4) } } with hive := { hives := [(0, { run := some (0, 9) })] } },
      by decide +kernel⟩,
    ⟨0, on, by decide +kernel⟩,
    ⟨0, .fail, 0x32, withRegs [(Off.ctxJob 0, 2)]
      { on with ctxs := [(0, { c0 with fault := some (.fail, 0x32), cmds := [cm 1 1 0 .started] })] }, by decide +kernel⟩,
    ⟨0, on, by decide +kernel⟩,
    ⟨0, 2, 70000, { on with ctxs := [(0, { c0 with state := 5, jobAct := some (2, 70000), cmds := [cm 1 1 0 .started] })] },
      by decide +kernel⟩,
    ⟨0, 2, 900000, { on with ctxs := [(0, { c0 with state := 5, jobAct := some (2, 900000) })] }, by decide +kernel⟩,
    ⟨0, on, by decide +kernel⟩⟩

/-- The clauses of RingStepCommands have something to speak of. -/
theorem hyps_RingStepCommands :
    (∃ (x : Ctx) (d : Cmd) (s : State), s.dmaTurn x.val = some d ∧ s.dmaHeld x.val none d.dma = false ∧ s.sluicesOpen
      (s.dmaExtents x.val d.dma) = true ∧ s.Live x.val d ∧ ((s.start x.val d.idx).runDma x.val d.dma none).bad = none ∧ (((s.start
      x.val d.idx).runDma x.val d.dma none).s.ctx x.val).cmd d.idx = ((s.start x.val d.idx).ctx x.val).cmd d.idx ∧ (((s.start
      x.val d.idx).runDma x.val d.dma none).s.ctx x.val).suspends d.idx = [] ∧ (((s.start x.val d.idx).runDma x.val d.dma
      none).s.ctx x.val).fault = none) ∧
    (∃ (x : Ctx) (d : Cmd) (s : State), s.startableOp x.val 3 = some d ∧ s.Live x.val d ∧ (s.xl x.val d.ident).usable = true ∧
      (s.xl x.val d.ident).dirty = false ∧ (s.xl x.val d.ident).kind = 0 ∧ (s.xl x.val d.ident).remote = false ∧ s.accepted x.val
      (s.xl x.val d.ident) = true ∧ s.counterFull (s.xl x.val d.ident).object (d.f 95 80) = false ∧ s.overrun (s.xl x.val
      d.ident).object (d.f 95 80) = false ∧ s.homeAway 0 false (s.xl x.val d.ident).object = false ∧ s.sync.watches = []) ∧
    (∃ (x : Ctx) (d : Cmd) (s : State), s.startableOp x.val 3 = some d ∧ s.Live x.val d ∧ ((s.xl x.val d.ident).usable = false ∨
      (s.xl x.val d.ident).dirty = true)) ∧
    (∃ (x : Ctx) (d : Cmd) (s : State), s.startableOp x.val 4 = some d ∧ s.Live x.val d ∧ ((s.xl x.val d.ident).usable = false ∨
      (s.xl x.val d.ident).dirty = true)) ∧
    (∃ (x : Ctx) (d : Cmd) (s : State), s.startableOp x.val 5 = some d ∧ s.Live x.val d ∧ ((s.xl x.val d.ident).usable = false ∨
      (s.xl x.val d.ident).dirty = true)) ∧
    (∃ (x : Ctx) (d : Cmd) (s : State), s.startableOp x.val 4 = some d ∧ s.Live x.val d ∧ d.opcode = 4 ∧ (s.xl x.val
      d.ident).usable = true ∧ (s.xl x.val d.ident).dirty = false ∧ s.waitMet x.val d.ident (d.f 175 128) (hostTag x.val) = true) ∧
    (∃ (x : Ctx) (d : Cmd) (p : Nat) (s : State), s.startableOp x.val 5 = some d ∧ s.Live x.val d ∧ d.opcode = 5 ∧ d.progress = 0
      ∧ (s.xl x.val d.ident).usable = true ∧ (s.xl x.val d.ident).dirty = false ∧ (s.xl x.val d.ident).kind = 1 ∧ (s.xl x.val
      d.ident).remote = false ∧ (s.xl x.val d.ident).hold = false ∧ s.partIndex (s.xl x.val d.ident).object (.host x.val) = some p
      ∧ s.accepted x.val (s.xl x.val d.ident) = true ∧ s.homeAway 0 true (s.xl x.val d.ident).object = false ∧ s.mayArrive (s.xl
      x.val d.ident).object p = true ∧ s.hasParent (s.xl x.val d.ident).object = false) :=
  ⟨⟨0, cm 1 2 (2^32 * 64 + 2^64 * 0x1000 + 2^128 * 0x2000),
      { ring [cm 1 2 (2^32 * 64 + 2^64 * 0x1000 + 2^128 * 0x2000)] with mem := { dev := Memory.setBytes [] 0x1000 [7, 8] } },
      ⟨by decide +kernel, by decide +kernel, by decide +kernel, ⟨by decide +kernel, by decide +kernel, by decide +kernel⟩,
      by decide +kernel⟩⟩,
    ⟨0, cm 1 3 (5 + 2^16 * 3), withRegs [(Off.synXlate 0 5, 0x8000000000000007)] (ring [cm 1 3 (5 + 2^16 * 3)]),
      ⟨by decide +kernel, ⟨by decide +kernel, by decide +kernel, by decide +kernel⟩, by decide +kernel⟩⟩,
    ⟨0, cm 1 3 (5 + 2^16 * 3), ring [cm 1 3 (5 + 2^16 * 3)], ⟨by decide +kernel, ⟨by decide +kernel, by decide +kernel,
      by decide +kernel⟩, by decide +kernel⟩⟩,
    ⟨0, cm 1 4 5, ring [cm 1 4 5], ⟨by decide +kernel, ⟨by decide +kernel, by decide +kernel, by decide +kernel⟩,
      by decide +kernel⟩⟩,
    ⟨0, cm 1 5 5, ring [cm 1 5 5], ⟨by decide +kernel, ⟨by decide +kernel, by decide +kernel, by decide +kernel⟩,
      by decide +kernel⟩⟩,
    ⟨0, cm 1 4 5, withRegs [(Off.synXlate 0 5, 0x8000000000000007)] (ring [cm 1 4 5]), ⟨by decide +kernel, ⟨by decide +kernel,
      by decide +kernel, by decide +kernel⟩, by decide +kernel⟩⟩,
    ⟨0, cm 1 5 5, 0, withRegs [(Off.synXlate 0 5, 0xA000000000000003), (Off.synBarCfg 3, 2^48), (Off.synBarPart 3 0, 0x40000000)]
      (ring [cm 1 5 5]), ⟨by decide +kernel, ⟨by decide +kernel, by decide +kernel, by decide +kernel⟩, by decide +kernel⟩⟩⟩

/-- The clauses of RingServiceCommands have something to speak of. -/
theorem hyps_RingServiceCommands :
    (∃ (x : Ctx) (d : Cmd) (s : State), s.startableOp x.val 0x12 = some d ∧ s.Live x.val d) ∧
    (∃ (x : Ctx) (h : Hint) (s : State), (s.ctx x.val).hint = some h ∧ h.start ≤ s.clk.now ∧ h.active = false ∧ s.emergency =
      false) ∧
    (∃ (x : Ctx) (s : State), ((s.ctx x.val).hint = none ∨ s.emergency = true)) ∧
    (∃ (x : Ctx) (d : Cmd) (s : State), s.startableOp x.val 0x20 (some 3) = some d ∧ s.Live x.val d) ∧
    (∃ (x : Ctx) (d : Cmd) (s : State), s.startableOp x.val 0x20 (some 4) = some d ∧ s.Live x.val d) ∧
    (∃ (x : Ctx) (d : Cmd) (s : State), s.startableOp x.val 0x20 (some 1) = some d ∧ s.Live x.val d ∧ isHostAddr d.mgmtAddr =
      false ∧ s.isProtected d.mgmtAddr 4096 = false ∧ s.copyReady x.val [d.mgmtAddr] = true) ∧
    (∃ (x : Ctx) (d : Cmd) (s : State), s.startableOp x.val 0x20 (some 1) = some d ∧ s.Live x.val d ∧ s.isProtected d.mgmtAddr
      4096 = true) ∧
    (∃ (x : Ctx) (s : State), s.startable x.val = none) :=
  ⟨⟨0, cm 1 0x12 (1 + 2^8 * 9 + 2^32 * 5 + 2^64 * 100), ring [cm 1 0x12 (1 + 2^8 * 9 + 2^32 * 5 + 2^64 * 100)],
      ⟨by decide +kernel, ⟨by decide +kernel, by decide +kernel, by decide +kernel⟩⟩⟩,
    ⟨0, ⟨1, 9, 5, 100, false⟩, { on with ctxs := [(0, { c0 with hint := some ⟨1, 9, 5, 100, false⟩ })] }, by decide +kernel⟩,
    ⟨0, on, by decide +kernel⟩,
    ⟨0, cm 1 0x20 (3 + 2^192 * 77), ring [cm 1 0x20 (3 + 2^192 * 77)], ⟨by decide +kernel, ⟨by decide +kernel, by decide +kernel,
      by decide +kernel⟩⟩⟩,
    ⟨0, cm 1 0x20 (4 + 2^192 * 30 + 2^208 * 5 + 2^224), ring [cm 1 0x20 (4 + 2^192 * 30 + 2^208 * 5 + 2^224)], ⟨by decide +kernel,
      ⟨by decide +kernel, by decide +kernel, by decide +kernel⟩⟩⟩,
    ⟨0, cm 1 0x20 (1 + 2^64 * 0x4000), ring [cm 1 0x20 (1 + 2^64 * 0x4000)], ⟨by decide +kernel, ⟨by decide +kernel,
      by decide +kernel, by decide +kernel⟩, by decide +kernel⟩⟩,
    ⟨0, cm 1 0x20 (1 + 2^64 * 0x9000),
      { on with ctxs := [(0, { c0 with cmds := [cm 1 0x20 (1 + 2^64 * 0x9000)], guards := [(0x9000, [(0x9000, 0x100)])] })] },
      ⟨by decide +kernel, ⟨by decide +kernel, by decide +kernel, by decide +kernel⟩, by decide +kernel⟩⟩,
    ⟨0, on, by decide +kernel⟩⟩

/-- The clauses of ControlCommands have something to speak of. -/
theorem hyps_ControlCommands :
    (∃ (x : Ctx) (d e : Cmd) (s : State), s.controlTurn x.val 0x18 = some d ∧ (s.ctx x.val).targetOf d = .waiting e ∧ s.Live x.val
      d ∧ d.idx ≠ e.idx) ∧
    (∃ (x : Ctx) (d e : Cmd) (s : State), s.controlTurn x.val 0x18 = some d ∧ (s.ctx x.val).targetOf d = .started e ∧ e.opcode = 1
      ∧ e.suspended = false) ∧
    (∃ (x : Ctx) (d e : Cmd) (s : State), s.controlTurn x.val 0x18 = some d ∧ (s.ctx x.val).targetOf d = .started e ∧ e.stoppable
      = true ∧ e.suspended = false ∧ s.Live x.val d ∧ s.Live x.val e ∧ d.idx ≠ e.idx) ∧
    (∃ (x : Ctx) (d e : Cmd) (s : State), s.controlTurn x.val 0x18 = some d ∧ (s.ctx x.val).targetOf d = .started e ∧ e.opcode ≠ 1
      ∧ e.stoppable = false ∧ s.Live x.val d) ∧
    (∃ (x : Ctx) (d e : Cmd) (s : State), s.controlTurn x.val 0x19 = some d ∧ (s.ctx x.val).targetOf d = .waiting e ∧ s.Live x.val
      d ∧ d.idx ≠ e.idx) ∧
    (∃ (x : Ctx) (d e : Cmd) (s : State), s.controlTurn x.val 0x19 = some d ∧ (s.ctx x.val).targetOf d = .started e ∧ (e.opcode =
      1 ∨ e.stoppable = true) ∧ (s.moduleTest = false ∨ e.opcode = 0x13) ∧ s.Live x.val d ∧ ((∀ c, c ∈ (s.ctx x.val).cmds →
      c.opcode ≠ 0x18)) ∧ d.idx ≠ e.idx) ∧
    (∃ (x : Ctx) (d e : Cmd) (s : State), s.controlTurn x.val 0x19 = some d ∧ (s.ctx x.val).targetOf d = .started e ∧ e.opcode ≠ 1
      ∧ e.stoppable = false ∧ s.moduleTest = false ∧ s.Live x.val d) ∧
    (∃ (x : Ctx) (d e : Cmd) (s : State), s.controlTurn x.val 0x19 = some d ∧ (s.ctx x.val).targetOf d = .started e ∧ s.moduleTest
      = true ∧ e.opcode ≠ 0x13) ∧
    (∃ (x : Ctx) (d e : Cmd) (s : State), s.controlTurn x.val 0x1A = some d ∧ (s.ctx x.val).targetOf d = .started e ∧ e.stoppable
      = true ∧ e.opcode ≠ 0x13 ∧ e.isStep = false ∧ s.Live x.val d ∧ s.Live x.val e ∧ d.idx ≠ e.idx) ∧
    (∃ (x : Ctx) (d e : Cmd) (s : State), s.controlTurn x.val 0x1A = some d ∧ (s.ctx x.val).targetOf d = .waiting e ∧ e.isStep =
      false ∧ s.Live x.val d ∧ s.Live x.val e ∧ d.idx ≠ e.idx) ∧
    (∃ (x : Ctx) (d e : Cmd) (s : State), s.controlTurn x.val 0x1A = some d ∧ (s.ctx x.val).targetOf d = .started e ∧ (e.opcode =
      1 ∨ e.opcode = 2) ∧ s.joined x.val = false ∧ d.idx ≠ e.idx) ∧
    (∃ (x : Ctx) (d e : Cmd) (s : State), s.controlTurn x.val 0x1A = some d ∧ (s.ctx x.val).targetOf d = .started e ∧ (e.opcode =
      1 ∨ e.opcode = 2) ∧ s.joined x.val = true ∧ s.Live x.val d ∧ d.idx ≠ e.idx) ∧
    (∃ (x : Ctx) (d e : Cmd) (s : State), s.controlTurn x.val 0x1A = some d ∧ (s.ctx x.val).targetOf d = .started e ∧ e.opcode = 6
      ∧ ((s.ctx x.val).sweep.all (fun w => decide (w.phase ≠ .start ∧ w.phase ≠ .norm ∧ w.phase ≠ .decide)) = true) ∧ s.Live x.val
      d) ∧
    (∃ (x : Ctx) (d : Cmd) (s : State), ((s.ctx x.val).targetOf d = .none ∨ (s.ctx x.val).targetOf d = .done) ∧ s.Live x.val d ∧
      s.controlTurn x.val 0x18 = some d) ∧
    (∃ (x : Ctx) (d : Cmd) (s : State), ((s.ctx x.val).targetOf d = .none ∨ (s.ctx x.val).targetOf d = .done) ∧ s.Live x.val d ∧
      s.controlTurn x.val 0x19 = some d) ∧
    (∃ (x : Ctx) (d : Cmd) (s : State), ((s.ctx x.val).targetOf d = .none ∨ (s.ctx x.val).targetOf d = .done) ∧ s.Live x.val d ∧
      s.controlTurn x.val 0x1A = some d) ∧
    (∃ (x : Ctx) (s : State), (s.ctx x.val).cmds = []) :=
  ⟨⟨0, cm 2 0x18 1, cm 1 2, ring [cm 1 2, cm 2 0x18 1], ⟨by decide +kernel, by decide +kernel, ⟨by decide +kernel,
      by decide +kernel, by decide +kernel⟩, by decide +kernel⟩⟩,
    ⟨0, cm 2 0x18 1, cm 1 1 0 .started,
      { on with ctxs := [(0, { c0 with cmds := [cm 1 1 0 .started, cm 2 0x18 1], runs := [⟨1, 0, [0], none, false⟩] })] },
      by decide +kernel⟩,
    ⟨0, cm 2 0x18 1, cm 1 0x20 (2 + 2^64 * 0x4000 + 2^128 * 0x4000) .started, ring [cm 1 0x20 (2 + 2^64 * 0x4000 + 2^128 * 0x4000)
      .started, cm 2 0x18 1], ⟨by decide +kernel, by decide +kernel, by decide +kernel, by decide +kernel, ⟨by decide +kernel,
      by decide +kernel, by decide +kernel⟩, ⟨by decide +kernel, by decide +kernel, by decide +kernel⟩, by decide +kernel⟩⟩,
    ⟨0, cm 2 0x18 1, cm 1 2 0 .started, ring [cm 1 2 0 .started, cm 2 0x18 1], ⟨by decide +kernel, by decide +kernel,
      by decide +kernel, by decide +kernel, ⟨by decide +kernel, by decide +kernel, by decide +kernel⟩⟩⟩,
    ⟨0, cm 2 0x19 1, cm 1 2, ring [cm 1 2, cm 2 0x19 1], ⟨by decide +kernel, by decide +kernel, ⟨by decide +kernel,
      by decide +kernel, by decide +kernel⟩, by decide +kernel⟩⟩,
    ⟨0, cm 2 0x19 1, cm 1 1 0 .started,
      { on with ctxs := [(0, { c0 with cmds := [cm 1 1 0 .started, cm 2 0x19 1], runs := [⟨1, 0, [0], none, true⟩] })] },
      ⟨by decide +kernel, by decide +kernel, by decide +kernel, by decide +kernel, ⟨by decide +kernel, by decide +kernel,
      by decide +kernel⟩, by decide +kernel⟩⟩,
    ⟨0, cm 2 0x19 1, cm 1 2 0 .started, ring [cm 1 2 0 .started, cm 2 0x19 1], ⟨by decide +kernel, by decide +kernel,
      by decide +kernel, by decide +kernel, by decide +kernel, ⟨by decide +kernel, by decide +kernel, by decide +kernel⟩⟩⟩,
    ⟨0, cm 2 0x19 1, cm 1 1 0 .started,
      { on with ctxs := [(0, { c0 with cmds := [cm 1 1 0 .started, cm 2 0x19 1], runs := [⟨1, 0, [0], none, true⟩] })], hive := { test := some ⟨3, 4, 4, [], [], 0⟩ } },
      by decide +kernel⟩,
    ⟨0, cm 2 0x1a 1, cm 1 0x20 (2 + 2^64 * 0x4000 + 2^128 * 0x4000) .started, ring [cm 1 0x20 (2 + 2^64 * 0x4000 + 2^128 * 0x4000)
      .started, cm 2 0x1a 1], ⟨by decide +kernel, by decide +kernel, by decide +kernel, by decide +kernel, by decide +kernel,
      ⟨by decide +kernel, by decide +kernel, by decide +kernel⟩, ⟨by decide +kernel, by decide +kernel, by decide +kernel⟩,
      by decide +kernel⟩⟩,
    ⟨0, cm 2 0x1a 1, cm 1 0x12 (1 + 2^8 * 9 + 2^32 * 5 + 2^64 * 100), ring [cm 1 0x12 (1 + 2^8 * 9 + 2^32 * 5 + 2^64 * 100), cm 2
      0x1a 1], ⟨by decide +kernel, by decide +kernel, by decide +kernel, ⟨by decide +kernel, by decide +kernel,
      by decide +kernel⟩, ⟨by decide +kernel, by decide +kernel, by decide +kernel⟩, by decide +kernel⟩⟩,
    ⟨0, cm 2 0x1A 1, cm 1 1 0 .started,
      { on with ctxs := [(0, { c0 with cmds := [cm 1 1 0 .started, cm 2 0x1a 1], runs := [⟨1, 0, [0], none, false⟩] })] },
      by decide +kernel⟩,
    ⟨0, cm 2 0x1a 1, cm 1 1 0 .started, withRegs [(Off.ctxJob 0, 2)]
      ({ on with ctxs := [(0, { c0 with cmds := [cm 1 1 0 .started, cm 2 0x1a 1], runs := [⟨1, 0, [0], none, false⟩] })] }),
      ⟨by decide +kernel, by decide +kernel, by decide +kernel, by decide +kernel, ⟨by decide +kernel, by decide +kernel,
      by decide +kernel⟩, by decide +kernel⟩⟩,
    ⟨0, cm 2 0x1a 1, cm 1 6 0x9000 .started,
      { on with mem := { dev := tableMem }, ctxs := [(0, { c0 with cmds := [cm 1 6 0x9000 .started, cm 2 0x1a 1], sweep := some (sw .pass2) })] },
      ⟨by decide +kernel, by decide +kernel, by decide +kernel, by decide +kernel, ⟨by decide +kernel, by decide +kernel,
      by decide +kernel⟩⟩⟩,
    ⟨0, cm 2 0x18 9, ring [cm 2 0x18 9], ⟨by decide +kernel, ⟨by decide +kernel, by decide +kernel, by decide +kernel⟩,
      by decide +kernel⟩⟩,
    ⟨0, cm 2 0x19 9, ring [cm 2 0x19 9], ⟨by decide +kernel, ⟨by decide +kernel, by decide +kernel, by decide +kernel⟩,
      by decide +kernel⟩⟩,
    ⟨0, cm 2 0x1a 9, ring [cm 2 0x1a 9], ⟨by decide +kernel, ⟨by decide +kernel, by decide +kernel, by decide +kernel⟩,
      by decide +kernel⟩⟩,
    ⟨0, on, by decide +kernel⟩⟩

/-- The clauses of ExportCommands have something to speak of. -/
theorem hyps_ExportCommands :
    (∃ (x : Ctx) (d : Cmd) (s : State), s.startableOp x.val 0x10 (some 0) = some d ∧ s.Live x.val d ∧ s.fail.exp.host.isSome =
      true) ∧
    (∃ (x : Ctx) (d : Cmd) (s : State), s.startableOp x.val 0x10 (some 0) = some d ∧ s.Live x.val d ∧ s.fail.exp.host = none ∧
      s.hostReady x.val d.tailAddr = true ∧ isHostAddr d.tailAddr = true) ∧
    (∃ (x : Ctx) (d : Cmd) (s : State), s.startableOp x.val 0x10 (some 1) = some d ∧ s.Live x.val d) ∧
    (∃ (x : Ctx) (d : Cmd) (s : State), s.startableOp x.val 0x10 (some 4) = some d ∧ s.Live x.val d ∧ s.copyReady x.val [d.list] =
      true ∧ ((∀ a, a ∈ s.tensorList x.val d → isHostAddr a = false ∧ a % 64 = 0 ∧ s.mayAccess x.val a 64 = true))) ∧
    (∃ (x : Ctx) (d : Cmd) (a : Nat) (s : State), s.startableOp x.val 0x10 (some 4) = some d ∧ s.Live x.val d ∧ s.copyReady x.val
      [d.list] = true ∧ a ∈ s.tensorList x.val d ∧ (isHostAddr a = true ∨ a % 64 ≠ 0 ∨ s.mayAccess x.val a 64 = false)) ∧
    (∃ (x : Ctx) (d : Cmd) (s : State), s.startableOp x.val 0x10 (some 2) = some d ∧ s.Live x.val d ∧ ((s.ctx x.val).snapshotOpen
      = true ∨ s.tableForm x.val d.sweepTable ≠ stOk)) ∧
    (∃ (x : Ctx) (d : Cmd) (s : State), s.startableOp x.val 0x10 (some 2) = some d ∧ (s.ctx x.val).snapshotOpen = false ∧
      s.tableForm x.val d.sweepTable = stOk ∧ s.snapshotsGo x.val = true ∧ s.copyReady x.val (d.buf :: (s.snapshotReads x.val
      d.sweepTable).map (·.1)) = true) ∧
    (∃ (x : Ctx) (d : Cmd) (s : State), s.startableOp x.val 0x10 (some 2) = none ∧ s.snapshotTurn x.val = some d ∧ s.copyReady
      x.val ((d.buf + 64 * d.units) :: (s.snapshotReads x.val d.sweepTable).map (·.1)) = true) ∧
    (∃ (x : Nat) (d : Cmd) (r : Draft) (bs : List Byte) (s : State), (s.ctx x).cmd d.idx = some d ∧ (s.fullDrafts x d.sweepTable
      (s.ctx x).step (s.ctx x).tensors)[d.progress]? = some r ∧ bs = r.bytes (BitVec.ofNat 32 d.progress) ∧ d.units + bs.length /
      64 ≤ d.size ∧ r.kind ≠ kCommit ∧ s.isProtected (d.buf + 64 * d.units) bs.length = false ∧ d.buf + 64 * d.units + bs.length ≤
      0x10000000000) ∧
    (∃ (x : Nat) (d : Cmd) (r : Draft) (bs : List Byte) (s : State) (a : _), (s.ctx x).cmd d.idx = some d ∧ (s.fullDrafts x
      d.sweepTable (s.ctx x).step (s.ctx x).tensors)[d.progress]? = some r ∧ bs = r.bytes (BitVec.ofNat 32 d.progress) ∧ d.units +
      bs.length / 64 ≤ d.size ∧ r.kind ≠ kCommit ∧ s.isProtected (d.buf + 64 * d.units) bs.length = false ∧ d.buf + 64 * d.units +
      bs.length ≤ 0x10000000000 ∧ (a < d.buf + 64 * d.units ∨ d.buf + 64 * d.units + bs.length ≤ a)) ∧
    (∃ (x : Nat) (d : Cmd) (r : Draft) (bs : List Byte) (s : State), (s.ctx x).cmd d.idx = some d ∧ (s.fullDrafts x d.sweepTable
      (s.ctx x).step (s.ctx x).tensors)[d.progress]? = some r ∧ bs = r.bytes (BitVec.ofNat 32 d.progress) ∧ d.units + bs.length /
      64 ≤ d.size ∧ r.kind ≠ kCommit ∧ s.isProtected (d.buf + 64 * d.units) bs.length = false ∧ d.buf + 64 * d.units + bs.length ≤
      0x10000000000) ∧
    (∃ (x : Nat) (d : Cmd) (r : Draft) (bs : List Byte) (s : State), (s.ctx x).cmd d.idx = some d ∧ (s.fullDrafts x d.sweepTable
      (s.ctx x).step (s.ctx x).tensors)[d.progress]? = some r ∧ bs = r.bytes (BitVec.ofNat 32 d.progress) ∧ d.units + bs.length /
      64 ≤ d.size ∧ r.kind ≠ kCommit ∧ s.isProtected (d.buf + 64 * d.units) bs.length = false ∧ d.buf + 64 * d.units + bs.length ≤
      0x10000000000) ∧
    (∃ (x : Nat) (d : Cmd) (r : Draft) (bs : List Byte) (s : State), (s.ctx x).cmd d.idx = some d ∧ (s.fullDrafts x d.sweepTable
      (s.ctx x).step (s.ctx x).tensors)[d.progress]? = some r ∧ bs = r.bytes (BitVec.ofNat 32 d.progress) ∧ d.units + bs.length /
      64 ≤ d.size ∧ r.kind ≠ kCommit ∧ s.isProtected (d.buf + 64 * d.units) bs.length = false ∧ d.buf + 64 * d.units + bs.length ≤
      0x10000000000) ∧
    (∃ (x : Nat) (d : Cmd) (s : State), s.Live x d ∧ (s.fullDrafts x d.sweepTable (s.ctx x).step (s.ctx x).tensors)[d.progress]? =
      none) ∧
    (∃ (x : Nat) (d : Cmd) (r : Draft) (s : State), s.Live x d ∧ (s.fullDrafts x d.sweepTable (s.ctx x).step (s.ctx
      x).tensors)[d.progress]? = some r ∧ d.size < d.units + (r.bytes (BitVec.ofNat 32 d.progress)).length / 64) ∧
    (∃ (x : Ctx) (d : Cmd) (s : State), s.startableOp x.val 0x10 (some 3) = some d ∧ s.Live x.val d ∧ ((s.ctx
      x.val).stepInProgress = true ∨ (s.ctx x.val).snapshotOpen = true)) ∧
    (∃ (x : Ctx) (d : Cmd) (s : State), s.startableOp x.val 0x10 (some 3) = some d ∧ s.Live x.val d ∧ (s.ctx x.val).stepInProgress
      = false ∧ (s.ctx x.val).snapshotOpen = false ∧ s.tableForm x.val d.sweepTable ≠ stOk) ∧
    (∃ (x : Ctx) (d : Cmd) (r : List Byte) (s : State), s.startableOp x.val 0x10 (some 3) = some d ∧ s.Live x.val d ∧ (s.ctx
      x.val).stepInProgress = false ∧ (s.ctx x.val).snapshotOpen = false ∧ s.tableForm x.val d.sweepTable = stOk ∧ s.copyReady
      x.val [d.buf, d.buf + 64 * d.size - 1] = true ∧ (s.readRecords x.val (d.size + 1) d.buf (64 * d.size)).find? (fun r =>
      !recCheck (s.loads x.val) r) = some r) ∧
    (∃ (x : Ctx) (d : Cmd) (e : Nat × Nat) (rs : List (List Byte)) (s : State), s.startableOp x.val 0x10 (some 3) = some d ∧
      s.Live x.val d ∧ (s.ctx x.val).stepInProgress = false ∧ (s.ctx x.val).snapshotOpen = false ∧ s.tableForm x.val d.sweepTable
      = stOk ∧ s.copyReady x.val [d.buf, d.buf + 64 * d.size - 1] = true ∧ rs = s.readRecords x.val (d.size + 1) d.buf (64 *
      d.size) ∧ ((∀ r, r ∈ rs → recCheck (s.loads x.val) r = true)) ∧ e ∈ s.recordExtents x.val rs ∧ (isHostAddr e.1 = true ∨
      s.mayAccess x.val e.1 e.2 = false ∨ s.isProtected e.1 e.2 = true)) ∧
    (∃ (x : Ctx) (d : Cmd) (rs : List (List Byte)) (s : State), s.startableOp x.val 0x10 (some 3) = some d ∧ s.Live x.val d ∧
      (s.ctx x.val).stepInProgress = false ∧ (s.ctx x.val).snapshotOpen = false ∧ s.tableForm x.val d.sweepTable = stOk ∧
      s.copyReady x.val [d.buf, d.buf + 64 * d.size - 1] = true ∧ rs = s.readRecords x.val (d.size + 1) d.buf (64 * d.size) ∧ ((∀
      r, r ∈ rs → recCheck (s.loads x.val) r = true)) ∧ ((∀ e, e ∈ s.recordExtents x.val rs → isHostAddr e.1 = false ∧ s.mayAccess
      x.val e.1 e.2 = true ∧ s.isProtected e.1 e.2 = false)) ∧ s.copyReady x.val ((s.recordExtents x.val rs).map (·.1)) = true ∧
      s.mayRederive x.val d.sweepTable (s.tgts x.val d.sweepTable) = true ∧ ((s.applyRecords x.val (bySeq rs)).swHdr x.val
      d.sweepTable).targets = 0) ∧
    (∃ (x : Ctx) (s : State), s.startable x.val = none) :=
  ⟨⟨0, cm 1 0x10 (0 + 2^64 * 0x800000010000 + 2^128 * 0x800000020000 + 2^320 * 1024),
      { on with ctxs := [(0, { c0 with cmds := [cm 1 0x10 (0 + 2^64 * 0x800000010000 + 2^128 * 0x800000020000 + 2^320 * 1024)] })], fail := { exp := { host := some ⟨0, 0x800000010000, 0x800000020000, 1024, 0, 0, 0, false⟩ } } },
      ⟨by decide +kernel, ⟨by decide +kernel, by decide +kernel, by decide +kernel⟩, by decide +kernel⟩⟩,
    ⟨0, cm 1 0x10 (0 + 2^64 * 0x800000010000 + 2^128 * 0x800000020000 + 2^320 * 1024),
      { on with ctxs := [(0, { c0 with cmds := [cm 1 0x10 (0 + 2^64 * 0x800000010000 + 2^128 * 0x800000020000 + 2^320 * 1024)] })] },
      ⟨by decide +kernel, ⟨by decide +kernel, by decide +kernel, by decide +kernel⟩, by decide +kernel⟩⟩,
    ⟨0, cm 1 0x10 (1 + 0),
      { on with ctxs := [(0, { c0 with cmds := [cm 1 0x10 (1 + 0)] })], fail := { exp := { host := some ⟨0, 0x800000010000, 0x800000020000, 1024, 0, 0, 0, false⟩ } } },
      ⟨by decide +kernel, ⟨by decide +kernel, by decide +kernel, by decide +kernel⟩⟩⟩,
    ⟨0, cm 1 0x10 (4 + 2^256 * 0x8000 + 2^320 * 2),
      { on with ctxs := [(0, { c0 with cmds := [cm 1 0x10 (4 + 2^256 * 0x8000 + 2^320 * 2)] })], mem := { dev := Memory.setBytes [] 0x8000 (natLe 0x4000 8 ++ natLe 0x4040 8) } },
      ⟨by decide +kernel, ⟨by decide +kernel, by decide +kernel, by decide +kernel⟩, by decide +kernel⟩⟩,
    ⟨0, cm 1 0x10 (4 + 2^256 * 0x8000 + 2^320 * 2), 0x600000000,
      { on with ctxs := [(0, { c0 with cmds := [cm 1 0x10 (4 + 2^256 * 0x8000 + 2^320 * 2)] })], mem := { dev := Memory.setBytes [] 0x8000 (natLe 0x600000000 8 ++ natLe 0x4040 8) } },
      ⟨by decide +kernel, ⟨by decide +kernel, by decide +kernel, by decide +kernel⟩, by decide +kernel⟩⟩,
    ⟨0, cm 1 0x10 (2 + 2^64 * 0x4000 + 2^192 * 0x9000 + 2^320 * 100),
      { on with ctxs := [(0, { c0 with cmds := [cm 1 0x10 (2 + 2^64 * 0x4000 + 2^192 * 0x9000 + 2^320 * 100)] })] },
      ⟨by decide +kernel, ⟨by decide +kernel, by decide +kernel, by decide +kernel⟩, by decide +kernel⟩⟩,
    ⟨0, cm 1 0x10 (2 + 2^64 * 0x4000 + 2^192 * 0x9000 + 2^320 * 100),
      { on with ctxs := [(0, { c0 with cmds := [cm 1 0x10 (2 + 2^64 * 0x4000 + 2^192 * 0x9000 + 2^320 * 100)], tensors := [0xC000] })], mem := { dev := tableMem } },
      by decide +kernel⟩,
    ⟨0, cm 1 0x10 (2 + 2^64 * 0x4000 + 2^192 * 0x9000 + 2^320 * 100) .started,
      { on with ctxs := [(0, { c0 with cmds := [cm 1 0x10 (2 + 2^64 * 0x4000 + 2^192 * 0x9000 + 2^320 * 100) .started], tensors := [0xC000] })], mem := { dev := tableMem } },
      by decide +kernel⟩,
    ⟨0, cm 1 0x10 (2 + 2^64 * 0x4000 + 2^192 * 0x9000 + 2^320 * 100) .started,
      (({ on with ctxs := [(0, { c0 with cmds := [cm 1 0x10 (2 + 2^64 * 0x4000 + 2^192 * 0x9000 + 2^320 * 100) .started], tensors := [0xC000] })], mem := { dev := tableMem } }).fullDrafts
      0 0x9000 0 [0xC000]).getD 0 (on.commitDraft 0 0 0 0 [] []), _,
      { on with ctxs := [(0, { c0 with cmds := [cm 1 0x10 (2 + 2^64 * 0x4000 + 2^192 * 0x9000 + 2^320 * 100) .started], tensors := [0xC000] })], mem := { dev := tableMem } },
      ⟨by decide +kernel, by decide +kernel, rfl, by decide +kernel⟩⟩,
    ⟨0, cm 1 0x10 (2 + 2^64 * 0x4000 + 2^192 * 0x9000 + 2^320 * 100) .started,
      (({ on with ctxs := [(0, { c0 with cmds := [cm 1 0x10 (2 + 2^64 * 0x4000 + 2^192 * 0x9000 + 2^320 * 100) .started], tensors := [0xC000] })], mem := { dev := tableMem } }).fullDrafts
      0 0x9000 0 [0xC000]).getD 0 (on.commitDraft 0 0 0 0 [] []), _,
      { on with ctxs := [(0, { c0 with cmds := [cm 1 0x10 (2 + 2^64 * 0x4000 + 2^192 * 0x9000 + 2^320 * 100) .started], tensors := [0xC000] })], mem := { dev := tableMem } },
      0x3FFF, ⟨by decide +kernel, by decide +kernel, rfl, by decide +kernel⟩⟩,
    ⟨0, cm 1 0x10 (2 + 2^64 * 0x4000 + 2^192 * 0x9000 + 2^320 * 100) .started,
      (({ on with ctxs := [(0, { c0 with cmds := [cm 1 0x10 (2 + 2^64 * 0x4000 + 2^192 * 0x9000 + 2^320 * 100) .started], tensors := [0xC000] })], mem := { dev := tableMem } }).fullDrafts
      0 0x9000 0 [0xC000]).getD 0 (on.commitDraft 0 0 0 0 [] []), _,
      { on with ctxs := [(0, { c0 with cmds := [cm 1 0x10 (2 + 2^64 * 0x4000 + 2^192 * 0x9000 + 2^320 * 100) .started], tensors := [0xC000] })], mem := { dev := tableMem } },
      ⟨by decide +kernel, by decide +kernel, rfl, by decide +kernel⟩⟩,
    ⟨0, cm 1 0x10 (2 + 2^64 * 0x4000 + 2^192 * 0x9000 + 2^320 * 100) .started,
      (({ on with ctxs := [(0, { c0 with cmds := [cm 1 0x10 (2 + 2^64 * 0x4000 + 2^192 * 0x9000 + 2^320 * 100) .started], tensors := [0xC000] })], mem := { dev := tableMem } }).fullDrafts
      0 0x9000 0 [0xC000]).getD 0 (on.commitDraft 0 0 0 0 [] []), _,
      { on with ctxs := [(0, { c0 with cmds := [cm 1 0x10 (2 + 2^64 * 0x4000 + 2^192 * 0x9000 + 2^320 * 100) .started], tensors := [0xC000] })], mem := { dev := tableMem } },
      ⟨by decide +kernel, by decide +kernel, rfl, by decide +kernel⟩⟩,
    ⟨0, cm 1 0x10 (2 + 2^64 * 0x4000 + 2^192 * 0x9000 + 2^320 * 100) .started,
      (({ on with ctxs := [(0, { c0 with cmds := [cm 1 0x10 (2 + 2^64 * 0x4000 + 2^192 * 0x9000 + 2^320 * 100) .started], tensors := [0xC000] })], mem := { dev := tableMem } }).fullDrafts
      0 0x9000 0 [0xC000]).getD 0 (on.commitDraft 0 0 0 0 [] []), _,
      { on with ctxs := [(0, { c0 with cmds := [cm 1 0x10 (2 + 2^64 * 0x4000 + 2^192 * 0x9000 + 2^320 * 100) .started], tensors := [0xC000] })], mem := { dev := tableMem } },
      ⟨by decide +kernel, by decide +kernel, rfl, by decide +kernel⟩⟩,
    ⟨0, { cm 1 0x10 (2 + 2^64 * 0x4000 + 2^192 * 0x9000 + 2^320 * 100) .started with progress := 99 },
      { on with ctxs := [(0, { c0 with cmds := [{ cm 1 0x10 (2 + 2^64 * 0x4000 + 2^192 * 0x9000 + 2^320 * 100) .started with progress := 99 }], tensors := [0xC000] })], mem := { dev := tableMem } },
      ⟨⟨by decide +kernel, by decide +kernel, by decide +kernel⟩, by decide +kernel⟩⟩,
    ⟨0, { cm 1 0x10 (2 + 2^64 * 0x4000 + 2^192 * 0x9000 + 2^320 * 100) .started with units := 100 },
      (({ on with ctxs := [(0, { c0 with cmds := [cm 1 0x10 (2 + 2^64 * 0x4000 + 2^192 * 0x9000 + 2^320 * 100) .started], tensors := [0xC000] })], mem := { dev := tableMem } }).fullDrafts
      0 0x9000 0 [0xC000]).getD 0 (on.commitDraft 0 0 0 0 [] []),
      { on with ctxs := [(0, { c0 with cmds := [{ cm 1 0x10 (2 + 2^64 * 0x4000 + 2^192 * 0x9000 + 2^320 * 100) .started with units := 100 }], tensors := [0xC000] })], mem := { dev := tableMem } },
      ⟨⟨by decide +kernel, by decide +kernel, by decide +kernel⟩, by decide +kernel⟩⟩,
    ⟨0, cm 1 0x10 (3 + 2^64 * 0x4000 + 2^192 * 0x9000 + 2^320 * 4),
      { on with ctxs := [(0, { c0 with cmds := [cm 0 1 0 .started, cm 1 0x10 (3 + 2^64 * 0x4000 + 2^192 * 0x9000 + 2^320 * 4)] })] },
      ⟨by decide +kernel, ⟨by decide +kernel, by decide +kernel, by decide +kernel⟩, by decide +kernel⟩⟩,
    ⟨0, cm 1 0x10 (3 + 2^64 * 0x4000 + 2^192 * 0x9000 + 2^320 * 4),
      { on with ctxs := [(0, { c0 with cmds := [cm 1 0x10 (3 + 2^64 * 0x4000 + 2^192 * 0x9000 + 2^320 * 4)] })] },
      ⟨by decide +kernel, ⟨by decide +kernel, by decide +kernel, by decide +kernel⟩, by decide +kernel⟩⟩,
    ⟨0, cm 1 0x10 (3 + 2^64 * 0x4000 + 2^192 * 0x9000 + 2^320 * 4), List.replicate 64 0,
      { on with ctxs := [(0, { c0 with cmds := [cm 1 0x10 (3 + 2^64 * 0x4000 + 2^192 * 0x9000 + 2^320 * 4)] })], mem := { dev := tableMem } },
      ⟨by decide +kernel, ⟨by decide +kernel, by decide +kernel, by decide +kernel⟩, by decide +kernel⟩⟩,
    ⟨0, cm 1 0x10 (3 + 2^64 * 0x4000 + 2^192 * 0x9000 + 2^320 * 2), (0x600000000, 64), _,
      { on with ctxs := [(0, { c0 with cmds := [cm 1 0x10 (3 + 2^64 * 0x4000 + 2^192 * 0x9000 + 2^320 * 2)] })], mem := { dev := Memory.setBytes tableMem 0x4000 (recordBytes 0 kCommit 0 0 5 0 (natLe 0 6 ++ natLe 0x600000000 6) (natLe 77 64) 0) } },
      ⟨by decide +kernel, ⟨by decide +kernel, by decide +kernel, by decide +kernel⟩, by decide +kernel, by decide +kernel,
      by decide +kernel, by decide +kernel, rfl, by decide +kernel⟩⟩,
    ⟨0, cm 1 0x10 (3 + 2^64 * 0x4000 + 2^192 * 0x9000 + 2^320 * 2), _,
      { on with ctxs := [(0, { c0 with cmds := [cm 1 0x10 (3 + 2^64 * 0x4000 + 2^192 * 0x9000 + 2^320 * 2)] })], mem := { dev := Memory.setBytes tableMem 0x4000 (recordBytes 0 kCommit 0 0 5 0 (natLe 0 6 ++ natLe 0xA000 6) (natLe 77 64) 0) } },
      ⟨by decide +kernel, ⟨by decide +kernel, by decide +kernel, by decide +kernel⟩, by decide +kernel, by decide +kernel,
      by decide +kernel, by decide +kernel, rfl, by decide +kernel⟩⟩,
    ⟨0, on, by decide +kernel⟩⟩

/-- The clauses of RecordStream have something to speak of. -/
theorem hyps_RecordStream :
    (∃ (h : HostCopy) (r : Rec) (s : State), s.fail.exp.host = some h ∧ s.hostNext h = some r ∧ s.hostReady h.x h.base = true ∧
      (s.exporting && !s.joins 0 (r.stack / 2)) = false ∧ (r.seq = h.next ∨ h.gap = true) ∧ h.tail + r.bytes.length / 64 - h.head
      ≤ h.size) ∧
    (∃ (h : HostCopy) (r : Rec) (s : State), s.fail.exp.host = some h ∧ s.hostNext h = some r ∧ s.hostReady h.x h.base = true ∧
      (s.exporting && !s.joins 0 (r.stack / 2)) = false ∧ r.seq = h.next ∧ h.gap = false ∧ h.size < h.tail + r.bytes.length / 64 -
      h.head) ∧
    (∃ (s : State), s.fail.exp.host = none) ∧
    (∃ (h : HostCopy) (s : State), s.fail.exp.host = some h ∧ s.hostNext h = none) ∧
    (∃ (_f : Func) (_v : Word) (s : State), s.barOpen = true) ∧
    (∃ (v : Word) (s : State), s.barOpen = true ∧ v.toNat.testBit 0 = true ∧ s.exporting = false) ∧
    (∃ (v : Word) (s : State), s.barOpen = true ∧ v.toNat.testBit 0 = true ∧ s.exporting = true) ∧
    (∃ (v : Word) (s : State), s.barOpen = true ∧ v.toNat.testBit 0 = false) ∧
    (∃ (f : Func) (_v : Word) (s : State), s.barOpen = true ∧ f.val ≠ 0) ∧
    (∃ (_f : Func) (_v : Word) (s : State), s.barOpen = false) ∧
    (∃ (d : Nat) (s : State), s.clk.lock = true ∧ s.streamPeers = [d] ∧ sget 0 s.fail.exp.sentTo d ≤ s.lockCycle ∧ ((∀ r, r ∈
      s.fail.exp.replies → r.1 ≠ d))) ∧
    (∃ (s : State), (s.clk.lock = false ∨ (∀ d, d ∈ s.streamPeers → s.lockCycle < sget 0 s.fail.exp.sentTo d))) ∧
    (∃ (_n : BitVec 48) (q : BitVec 32) (s : State), s.exporting = true ∧ s.fail.exp.resyncEnd ≠ some q) ∧
    (∃ (_n : BitVec 48) (q : BitVec 32) (s : State), s.exporting = true ∧ s.fail.exp.resync = true ∧ s.fail.exp.resyncEnd = some
      q) ∧
    (∃ (q : BitVec 32) (s : State), s.exporting = true ∧ ((∃ r, r ∈ s.fail.exp.recs ∧ r.seq = q))) ∧
    (∃ (q : BitVec 32) (s : State), s.exporting = true ∧ ((∀ r, r ∈ s.fail.exp.recs → r.seq ≠ q)) ∧ 2 ^ 31 ≤ (q -
      s.fail.exp.seq).toNat) ∧
    (∃ (q : BitVec 32) (s : State), s.exporting = true ∧ ((∀ r, r ∈ s.fail.exp.recs → r.seq ≠ q)) ∧ (q - s.fail.exp.seq).toNat < 2
      ^ 31) ∧
    (∃ (_n : BitVec 48) (_q : BitVec 32) (s : State), s.exporting = false) ∧
    (∃ (d : Draft) (s : State), s.exporting = true ∧ s.fail.exp.resync = true ∧ s.sweepsQuiet = true ∧
      s.resyncDrafts[s.fail.exp.resyncPos]? = some d ∧ s.roomFor [d] = true) ∧
    (∃ (s : State), (s.fail.exp.resync = false ∨ s.sweepsQuiet = false ∨ s.resyncDrafts[s.fail.exp.resyncPos]? = none)) ∧
    (∃ (s : State), s.exporting = true ∧ s.fail.exp.lost = false ∧ s.fail.exp.heard + timeoutPs (s.field Off.updExpCtrl 31 16) ≤
      s.clk.now) ∧
    (∃ (s : State), s.clk.now < s.fail.exp.heard + timeoutPs (s.field Off.updExpCtrl 31 16)) :=
  ⟨⟨⟨0, 0x800000010000, 0x800000020000, 1024, 0, 0, 7, false⟩, ⟨7, 6, 0, 0, 0, List.replicate 64 5, 0, false⟩,
      { on with ctxs := [(0, c0)], fail := { exp := { host := some ⟨0, 0x800000010000, 0x800000020000, 1024, 0, 0, 7, false⟩, recs := [⟨7, 6, 0, 0, 0, List.replicate 64 5, 0, false⟩] } } },
      by decide +kernel⟩,
    ⟨⟨0, 0x800000010000, 0x800000020000, 1024, 1024, 0, 7, false⟩, ⟨7, 6, 0, 0, 0, List.replicate 64 5, 0, false⟩,
      { on with ctxs := [(0, c0)], fail := { exp := { host := some ⟨0, 0x800000010000, 0x800000020000, 1024, 1024, 0, 7, false⟩, recs := [⟨7, 6, 0, 0, 0, List.replicate 64 5, 0, false⟩] } } },
      by decide +kernel⟩,
    ⟨on, by decide +kernel⟩,
    ⟨⟨0, 0x800000010000, 0x800000020000, 1024, 0, 0, 7, false⟩,
      { on with ctxs := [(0, c0)], fail := { exp := { host := some ⟨0, 0x800000010000, 0x800000020000, 1024, 0, 0, 7, false⟩ } } },
      by decide +kernel⟩,
    ⟨1, 0x8000000000000003,
      { on with ctxs := [(0, c0)], fail := { exp := { host := some ⟨0, 0x800000010000, 0x800000020000, 1024, 9, 0, 7, false⟩ } } },
      by decide +kernel⟩,
    ⟨0x24000000001, on, by decide +kernel⟩,
    ⟨0x24000000001, withRegs [(Off.updExpCtrl, 0x24000000001)] on, by decide +kernel⟩,
    ⟨0x24000000000, withRegs [(Off.updExpCtrl, 0x24000000001)] on, by decide +kernel⟩,
    ⟨1, 1, on, by decide +kernel⟩,
    ⟨0, 1, State.reset, by decide +kernel⟩,
    ⟨9, withRegs [(Off.updExpCtrl, 1 + 2^34 * 9)] on, by decide +kernel⟩,
    ⟨{ on with clk := { on.clk with lock := false } }, by decide +kernel⟩,
    ⟨5, 7, withRegs [(Off.updExpCtrl, 0x24000000001)] { on with ctxs := [(0, { c0 with unacked := some 7 })] }, by decide +kernel⟩,
    ⟨5, 7, withRegs [(Off.updExpCtrl, 0x24000000001)]
      { on with ctxs := [(0, c0)], fail := { exp := { resync := true, resyncEnd := some 7 } } }, by decide +kernel⟩,
    ⟨7, withRegs [(Off.updExpCtrl, 0x24000000001)]
      { on with ctxs := [(0, c0)], fail := { exp := { recs := [⟨7, 6, 0, 0, 0, List.replicate 64 5, 0, false⟩] } } },
      by decide +kernel⟩,
    ⟨7, withRegs [(Off.updExpCtrl, 0x24000000001)] { on with ctxs := [(0, c0)], fail := { exp := { seq := 9 } } },
      by decide +kernel⟩,
    ⟨12, withRegs [(Off.updExpCtrl, 0x24000000001)] { on with ctxs := [(0, c0)], fail := { exp := { seq := 9 } } },
      by decide +kernel⟩,
    ⟨5, 7, on, by decide +kernel⟩,
    ⟨(withRegs [(Off.updExpCtrl, 0x24000000001)] (withRegs [(Off.updExpSpool 0, 2^32)]
      { on with ctxs := [(0, { c0 with table := some 0x9000 })], fail := { exp := { resync := true } } })).resyncDrafts.getD 0
      ((withRegs [(Off.updExpCtrl, 0x24000000001)] (withRegs [(Off.updExpSpool 0, 2^32)]
      { on with ctxs := [(0, { c0 with table := some 0x9000 })], fail := { exp := { resync := true } } })).commitDraft 0 0 0 0 []
      []), withRegs [(Off.updExpCtrl, 0x24000000001)] (withRegs [(Off.updExpSpool 0, 2^32)]
      { on with ctxs := [(0, { c0 with table := some 0x9000 })], fail := { exp := { resync := true } } }), by decide +kernel⟩,
    ⟨on, by decide +kernel⟩,
    ⟨withRegs [(Off.updExpCtrl, 0x24000000001)] on, by decide +kernel⟩,
    ⟨withRegs [(Off.updExpCtrl, 0x24000000001)] { on with ctxs := [(0, c0)], fail := { exp := { heard := 20000000000000 } } },
      by decide +kernel⟩⟩

/-- The clauses of MirrorOfASource have something to speak of. -/
theorem hyps_MirrorOfASource :
    (∃ (p : Source) (r : List Byte) (s : State), s.mirValid p.val = true ∧ s.fail.silenced.contains (s.mirSource p.val) = false ∧
      (s.mirror p.val).state = 1 ∧ (s.mirror p.val).next = some (recSeq r) ∧ recOk r = true ∧ recKind r < kUndo ∧ ((s.mirror
      p.val).ctx (recCtx r)).inStep = true ∧ (recKind r == kBlock && recFull r) = false ∧ s.mirSize p.val ≠ 0 ∧ (s.mirror
      p.val).dropped = none ∧ (s.mirror p.val).used + r.length ≤ s.mirSize p.val ∧ (s.mirror p.val).pos + r.length ≤ s.mirSize
      p.val ∧ 0 < r.length ∧ s.mirSource p.val ≠ s.partner ∧ s.mirSpoolBase p.val + s.mirSize p.val ≤ 0x10000000000) ∧
    (∃ (p : Source) (q : BitVec 32) (r : List Byte) (s : State), s.mirValid p.val = true ∧ s.fail.silenced.contains (s.mirSource
      p.val) = false ∧ (s.mirror p.val).state ≠ 3 ∧ (s.mirror p.val).next = some q ∧ (recOk r = false ∨ (recOk r = true ∧ recKind
      r < kKeepalive ∧ recSeq r ≠ q ∧ (recSeq r - q).toNat < 2 ^ 31))) ∧
    (∃ (p : Source) (r : List Byte) (s : State), s.mirValid p.val = true ∧ s.fail.silenced.contains (s.mirSource p.val) = false ∧
      (s.mirror p.val).state ≠ 3 ∧ recOk r = true ∧ recKind r = kKeepalive ∧ s.mirSource p.val ≠ s.partner) ∧
    (∃ (p : Source) (r : List Byte) (n : Nat) (ws : Writes) (s : State), s.mirValid p.val = true ∧ s.fail.silenced.contains
      (s.mirSource p.val) = false ∧ (s.mirror p.val).state = 2 ∧ (s.mirror p.val).next = some (recSeq r) ∧ recOk r = true ∧
      recKind r = kCommit ∧ s.mirSize p.val ≠ 0 ∧ ((s.mirror p.val).ctx (recCtx r)).inStep = false ∧ n = recNat r 16 6 ∧
      ((s.mirror p.val).ctx (recCtx r)).fulls.length = n ∧ 0 < n ∧ (((s.mirror p.val).waiting (recCtx r)).length < n ∨ recStep r =
      ((s.mirror p.val).ctx (recCtx r)).applied) ∧ ws = (commitWrites r).map (fun w => (w.1 + s.mirDisp p.val, w.2)) ∧ s.writesOk
      p.val ws = true) ∧
    (∃ (p n : Nat) (r : List Byte) (v s : State), n = recNat r 16 6 ∧ ((s.mirror p).ctx (recCtx r)).fulls.length ≠ n ∧ n ≤
      ((s.mirror p).waiting (recCtx r)).length ∧ s.overRecords p (((s.mirror p).waiting (recCtx r)).drop (((s.mirror p).waiting
      (recCtx r)).length - n) ++ [r]) = .ok v) ∧
    (∃ (p n : Nat) (r : List Byte) (v s : State), n = recNat r 16 6 ∧ ((s.mirror p).ctx (recCtx r)).fulls.length ≠ n ∧ n ≤
      ((s.mirror p).waiting (recCtx r)).length ∧ s.overRecords p (((s.mirror p).waiting (recCtx r)).drop (((s.mirror p).waiting
      (recCtx r)).length - n) ++ [r]) = .ok v) ∧
    (∃ (p n : Nat) (r : List Byte) (v s : State), n = recNat r 16 6 ∧ ((s.mirror p).ctx (recCtx r)).fulls.length ≠ n ∧ n ≤
      ((s.mirror p).waiting (recCtx r)).length ∧ s.overRecords p (((s.mirror p).waiting (recCtx r)).drop (((s.mirror p).waiting
      (recCtx r)).length - n) ++ [r]) = .ok v) ∧
    (∃ (p n : Nat) (r : List Byte) (v s : State), n = recNat r 16 6 ∧ ((s.mirror p).ctx (recCtx r)).fulls.length ≠ n ∧ n ≤
      ((s.mirror p).waiting (recCtx r)).length ∧ s.overRecords p (((s.mirror p).waiting (recCtx r)).drop (((s.mirror p).waiting
      (recCtx r)).length - n) ++ [r]) = .ok v) ∧
    (∃ (p : Source) (r : List Byte) (n : Nat) (s : State), s.mirValid p.val = true ∧ s.fail.silenced.contains (s.mirSource p.val)
      = false ∧ (s.mirror p.val).state = 2 ∧ (s.mirror p.val).next = some (recSeq r) ∧ recOk r = true ∧ recKind r = kCommit ∧
      s.mirSize p.val ≠ 0 ∧ ((s.mirror p.val).ctx (recCtx r)).inStep = false ∧ n = recNat r 16 6 ∧ ((s.mirror p.val).ctx (recCtx
      r)).fulls.length ≠ n ∧ ((s.mirror p.val).waiting (recCtx r)).length < n) ∧
    (∃ (p : Source) (_r : List Byte) (s : State), (s.mirValid p.val = false ∨ s.fail.silenced.contains (s.mirSource p.val) = true
      ∨ (s.mirror p.val).state = 3)) ∧
    (∃ (p : Source) (all rs rest : List (List Byte)) (c : List Byte) (u : State) (old : Writes) (s : State), s.mirValid p.val =
      true ∧ (s.mirror p.val).state = 1 ∧ splitStep (s.mirror p.val).spool = some (all, c, rest) ∧ recNat c 16 6 ≤ all.length ∧ rs
      = all.drop (all.length - recNat c 16 6) ∧ recStep c = ((s.mirror p.val).ctx (recCtx c)).applied + 1 ∧ ((∀ r, r ∈ rs →
      recStep r = recStep c)) ∧ s.applyStep p.val (rs ++ [c]) [] = .ok (u, old) ∧ (s.mirror p.val).dropped = none) ∧
    (∃ (p : Source) (all rest : List (List Byte)) (c : List Byte) (q : BitVec 32) (s : State), s.mirValid p.val = true ∧ (s.mirror
      p.val).state = 1 ∧ splitStep (s.mirror p.val).spool = some (all, c, rest) ∧ (s.mirror p.val).next = some q ∧ (all.length <
      recNat c 16 6 ∨ recStep c ≠ ((s.mirror p.val).ctx (recCtx c)).applied + 1)) ∧
    (∃ (p : Source) (s : State), (s.mirValid p.val = false ∨ (s.mirror p.val).state = 0 ∨ (s.mirror p.val).state = 3 ∨ splitStep
      (s.mirror p.val).spool = none)) ∧
    (∃ (p : Source) (x : Ctx) (s : State), s.mirValid p.val = true ∧ (s.mirror p.val).spool.all (fun r => !(recKind r == kCommit
      && recCtx r == x.val)) = true ∧ ((s.mirror p.val).ctx x.val).undo ≠ []) ∧
    (∃ (p : Source) (x : Ctx) (c : List Byte) (s : State), s.mirValid p.val = true ∧ ((s.mirror p.val).spool.filter (fun r =>
      recKind r == kCommit && recCtx r == x.val)).getLast? = some c) ∧
    (∃ (p : Source) (b : Bool) (s : State), s.mirValid p.val = true ∧ (s.mirror p.val).state ≠ 3 ∧ ((b = true ∨ (s.mirror
      p.val).heard + timeoutPs (s.field (Off.updMirrorIn p.val) 31 16) ≤ s.clk.now)) ∧ splitStep (s.mirror p.val).spool = none) ∧
    (∃ (p : Source) (_b : Bool) (s : State), (s.mirValid p.val = false ∨ (s.mirror p.val).state = 3)) ∧
    (∃ (p : Source) (_x : Ctx) (s : State), s.mirValid p.val = false) :=
  ⟨⟨2, (recordBytes 7 1 0 0 5 0 [] [] 0), withRegs [(Off.updMirrorIn 2, 2^63 + 2^49 * 9), (Off.updMirrorSpool 2, 2^32),
      (Off.updExpCtrl, 2^34 * 4)]
      { on with fail := { mirrors := [(2, { state := 1, next := some 7, ctxs := [(0, { inStep := true, applied := 4 })] })] } },
      by decide +kernel⟩,
    ⟨2, 6, (recordBytes 7 1 0 0 5 0 [] [] 0), withRegs [(Off.updMirrorIn 2, 2^63 + 2^49 * 9), (Off.updMirrorSpool 2, 2^32),
      (Off.updExpCtrl, 2^34 * 4)] { on with fail := { mirrors := [(2, { state := 1, next := some 6 })] } }, by decide +kernel⟩,
    ⟨2, (recordBytes 7 6 0 0 5 0 [] [] 0), withRegs [(Off.updMirrorIn 2, 2^63 + 2^49 * 9), (Off.updMirrorSpool 2, 2^32),
      (Off.updExpCtrl, 2^34 * 4)] { on with fail := { mirrors := [(2, { state := 1, next := some 6 })] } }, by decide +kernel⟩,
    ⟨2, (recordBytes 8 kCommit 0 0 5 0 (natLe 1 6 ++ natLe 0xA000 6) (natLe 77 64) 0), 1, ((commitWrites (recordBytes 8 kCommit 0
      0 5 0 (natLe 1 6 ++ natLe 0xA000 6) (natLe 77 64) 0)).map (fun w => (w.1 + (withRegs [(Off.updMirrorIn 2, 2^63 + 2^49 * 9),
      (Off.updMirrorSpool 2, 2^32), (Off.updExpCtrl, 2^34 * 4)]
      { on with fail := { mirrors := [(2, { state := 2, next := some 8, ctxs := [(0, { fulls := [0x500] })] })] } }).mirDisp 2,
      w.2))), withRegs [(Off.updMirrorIn 2, 2^63 + 2^49 * 9), (Off.updMirrorSpool 2, 2^32), (Off.updExpCtrl, 2^34 * 4)]
      { on with fail := { mirrors := [(2, { state := 2, next := some 8, ctxs := [(0, { fulls := [0x500] })] })] } },
      by decide +kernel⟩,
    ⟨2, 0, (recordBytes 8 kCommit 0 0 5 0 (natLe 0 6 ++ natLe 0xA000 6) (natLe 77 64) 0), okOf on ((withRegs [(Off.updMirrorIn 2,
      2^63 + 2^49 * 9), (Off.updMirrorSpool 2, 2^32), (Off.updExpCtrl, 2^34 * 4)]
      { on with fail := { mirrors := [(2, { state := 2, next := some 8, ctxs := [(0, { fulls := [0x500] })] })] } }).overRecords 2
      ([] ++ [(recordBytes 8 kCommit 0 0 5 0 (natLe 0 6 ++ natLe 0xA000 6) (natLe 77 64) 0)])), withRegs [(Off.updMirrorIn 2, 2^63
      + 2^49 * 9), (Off.updMirrorSpool 2, 2^32), (Off.updExpCtrl, 2^34 * 4)]
      { on with fail := { mirrors := [(2, { state := 2, next := some 8, ctxs := [(0, { fulls := [0x500] })] })] } },
      ⟨by decide +kernel, by decide +kernel, by decide +kernel, ok_of _ _ (by decide +kernel)⟩⟩,
    ⟨2, 0, (recordBytes 8 kCommit 0 0 5 0 (natLe 0 6 ++ natLe 0xA000 6) (natLe 77 64) 0), okOf on ((withRegs [(Off.updMirrorIn 2,
      2^63 + 2^49 * 9), (Off.updMirrorSpool 2, 2^32), (Off.updExpCtrl, 2^34 * 4)]
      { on with fail := { mirrors := [(2, { state := 2, next := some 8, ctxs := [(0, { fulls := [0x500] })] })] } }).overRecords 2
      ([] ++ [(recordBytes 8 kCommit 0 0 5 0 (natLe 0 6 ++ natLe 0xA000 6) (natLe 77 64) 0)])), withRegs [(Off.updMirrorIn 2, 2^63
      + 2^49 * 9), (Off.updMirrorSpool 2, 2^32), (Off.updExpCtrl, 2^34 * 4)]
      { on with fail := { mirrors := [(2, { state := 2, next := some 8, ctxs := [(0, { fulls := [0x500] })] })] } },
      ⟨by decide +kernel, by decide +kernel, by decide +kernel, ok_of _ _ (by decide +kernel)⟩⟩,
    ⟨2, 0, (recordBytes 8 kCommit 0 0 5 0 (natLe 0 6 ++ natLe 0xA000 6) (natLe 77 64) 0), okOf on ((withRegs [(Off.updMirrorIn 2,
      2^63 + 2^49 * 9), (Off.updMirrorSpool 2, 2^32), (Off.updExpCtrl, 2^34 * 4)]
      { on with fail := { mirrors := [(2, { state := 2, next := some 8, ctxs := [(0, { fulls := [0x500] })] })] } }).overRecords 2
      ([] ++ [(recordBytes 8 kCommit 0 0 5 0 (natLe 0 6 ++ natLe 0xA000 6) (natLe 77 64) 0)])), withRegs [(Off.updMirrorIn 2, 2^63
      + 2^49 * 9), (Off.updMirrorSpool 2, 2^32), (Off.updExpCtrl, 2^34 * 4)]
      { on with fail := { mirrors := [(2, { state := 2, next := some 8, ctxs := [(0, { fulls := [0x500] })] })] } },
      ⟨by decide +kernel, by decide +kernel, by decide +kernel, ok_of _ _ (by decide +kernel)⟩⟩,
    ⟨2, 0, (recordBytes 8 kCommit 0 0 5 0 (natLe 0 6 ++ natLe 0xA000 6) (natLe 77 64) 0), okOf on ((withRegs [(Off.updMirrorIn 2,
      2^63 + 2^49 * 9), (Off.updMirrorSpool 2, 2^32), (Off.updExpCtrl, 2^34 * 4)]
      { on with fail := { mirrors := [(2, { state := 2, next := some 8, ctxs := [(0, { fulls := [0x500] })] })] } }).overRecords 2
      ([] ++ [(recordBytes 8 kCommit 0 0 5 0 (natLe 0 6 ++ natLe 0xA000 6) (natLe 77 64) 0)])), withRegs [(Off.updMirrorIn 2, 2^63
      + 2^49 * 9), (Off.updMirrorSpool 2, 2^32), (Off.updExpCtrl, 2^34 * 4)]
      { on with fail := { mirrors := [(2, { state := 2, next := some 8, ctxs := [(0, { fulls := [0x500] })] })] } },
      ⟨by decide +kernel, by decide +kernel, by decide +kernel, ok_of _ _ (by decide +kernel)⟩⟩,
    ⟨2, (recordBytes 8 kCommit 0 0 5 0 (natLe 2 6 ++ natLe 0xA000 6) (natLe 77 64) 0), 2, withRegs [(Off.updMirrorIn 2, 2^63 +
      2^49 * 9), (Off.updMirrorSpool 2, 2^32), (Off.updExpCtrl, 2^34 * 4)]
      { on with fail := { mirrors := [(2, { state := 2, next := some 8, ctxs := [(0, { fulls := [0x500] })] })] } },
      by decide +kernel⟩,
    ⟨2, [], on, by decide +kernel⟩,
    ⟨2, [], [], [], mirClose, mirRes.1, mirRes.2, mirAp, ⟨by decide +kernel, by decide +kernel, by decide +kernel,
      by decide +kernel, by decide +kernel, by decide +kernel, by decide +kernel, ok_of (on, []) (mirAp.applyStep 2 ([] ++
      [mirClose]) []) (by decide +kernel), by decide +kernel⟩⟩,
    ⟨2, [], [], (recordBytes 8 kCommit 0 0 5 0 (natLe 0 6 ++ natLe 0xA000 6) (natLe 77 64) 0), 9, withRegs [(Off.updMirrorIn 2,
      2^63 + 2^49 * 9), (Off.updMirrorSpool 2, 2^32), (Off.updExpCtrl, 2^34 * 4)]
      { on with fail := { mirrors := [(2, { state := 1, next := some 9, ctxs := [(0, { inStep := true, applied := 2 })], spool := [(recordBytes 8 kCommit 0 0 5 0 (natLe 0 6 ++ natLe 0xA000 6) (natLe 77 64) 0)] })] } },
      by decide +kernel⟩,
    ⟨2, on, by decide +kernel⟩,
    ⟨2, 0, withRegs [(Off.updMirrorIn 2, 2^63 + 2^49 * 9), (Off.updMirrorSpool 2, 2^32), (Off.updExpCtrl, 2^34 * 4)]
      { on with fail := { mirrors := [(2, { state := 1, ctxs := [(0, { inStep := true, applied := 3, undo := [(0x500, [4, 5])], undoImage := [9] })] })] } },
      by decide +kernel⟩,
    ⟨2, 0, (recordBytes 8 kCommit 0 0 5 0 (natLe 0 6 ++ natLe 0xA000 6) (natLe 77 64) 0), withRegs [(Off.updMirrorIn 2, 2^63 +
      2^49 * 9), (Off.updMirrorSpool 2, 2^32), (Off.updExpCtrl, 2^34 * 4)]
      { on with fail := { mirrors := [(2, { state := 1, ctxs := [(0, { inStep := true, applied := 4 })], spool := [(recordBytes 7 1 0 0 5 0 [] [] 0), (recordBytes 8 kCommit 0 0 5 0 (natLe 0 6 ++ natLe 0xA000 6) (natLe 77 64) 0)] })] } },
      by decide +kernel⟩,
    ⟨2, false, withRegs [(Off.updMirrorIn 2, 2^63 + 2^49 * 9), (Off.updMirrorSpool 2, 2^32), (Off.updExpCtrl, 2^34 * 4)]
      { on with fail := { mirrors := [(2, { state := 1, spool := [(recordBytes 7 1 0 0 5 0 [] [] 0)] })] } }, by decide +kernel⟩,
    ⟨2, true, on, by decide +kernel⟩,
    ⟨2, 0, on, by decide +kernel⟩⟩

/-- The clauses of TakeoverMovesARank have something to speak of. -/
theorem hyps_TakeoverMovesARank :
    (∃ (mv : RankMove) (s : State), s.fail.moves.find? (fun m => decide (m.lt ≤ s.lockCycle)) = some mv ∧ s.clk.lock = true ∧ mv.x
      < 64 ∧ mv.rank = s.rank mv.x ∧ mv.standby ≠ s.moduleNo) ∧
    (∃ (mv : RankMove) (s : State), s.fail.moves.find? (fun m => decide (m.lt ≤ s.lockCycle)) = some mv ∧ s.clk.lock = true ∧ mv.x
      < 64 ∧ mv.rank ≠ s.rank mv.x ∧ mv.standby ≠ s.moduleNo ∧ (s.ctx mv.x).step ≠ mv.d + 1 ∧ s.journalBad mv.x = none) ∧
    (∃ (mv : RankMove) (s : State), s.fail.moves.find? (fun m => decide (m.lt ≤ s.lockCycle)) = some mv ∧ s.clk.lock = true ∧ mv.x
      < 64 ∧ mv.rank ≠ s.rank mv.x ∧ mv.standby ≠ s.moduleNo ∧ (s.ctx mv.x).step = mv.d + 1 ∧ s.journalBad mv.x = none) ∧
    (∃ (mv : RankMove) (s : State), s.fail.moves.find? (fun m => decide (m.lt ≤ s.lockCycle)) = some mv ∧ s.clk.lock = true ∧ mv.x
      < 64 ∧ mv.standby = s.moduleNo ∧ s.ownWork = false) ∧
    (∃ (mv : RankMove) (s : State), s.fail.moves.find? (fun m => decide (m.lt ≤ s.lockCycle)) = some mv ∧ s.clk.lock = true ∧ mv.x
      < 64 ∧ mv.standby = s.moduleNo ∧ s.ownWork = true) ∧
    (∃ (x a : Nat) (s : State), ((∀ m, m ∈ s.fail.moves → s.lockCycle < m.lt)) ∧ s.ctxs.map Prod.fst = [x] ∧ (s.ctx x).owesTargets
      = true ∧ (s.ctx x).knownTable = some a ∧ (s.swHdr x a).targets = 0 ∧ s.mayRederive x a (s.tgts x a) = true) ∧
    (∃ (s : State), ((∀ m, m ∈ s.fail.moves → s.lockCycle < m.lt)) ∧ ((∀ e, e ∈ s.ctxs → e.2.owesTargets = false))) ∧
    (∃ (s : State), s.clk.lock = false ∧ ((∃ m, m ∈ s.fail.moves ∧ m.lt ≤ s.lockCycle))) :=
  ⟨⟨⟨0, 0, 9, 5, 100⟩,
      { on with fail := { moves := [⟨0, 0, 9, 5, 100⟩] }, ctxs := [(0, { c0 with cmds := [cm 1 1 0 .started] })] },
      by decide +kernel⟩,
    ⟨⟨0, 3, 9, 5, 100⟩,
      { on with fail := { moves := [⟨0, 3, 9, 5, 100⟩] }, ctxs := [(0, { c0 with cmds := [cm 1 1 0 .started] })] },
      by decide +kernel⟩,
    ⟨⟨0, 3, 9, 5, 100⟩,
      { on with fail := { moves := [⟨0, 3, 9, 5, 100⟩] }, ctxs := [(0, { c0 with cmds := [cm 1 1 0 .started], step := 6, undo := [(0x500, [7])] })] },
      by decide +kernel⟩,
    ⟨⟨0, 3, 0, 5, 100⟩, { on with fail := { moves := [⟨0, 3, 0, 5, 100⟩] } }, by decide +kernel⟩,
    ⟨⟨0, 3, 0, 5, 100⟩,
      { on with fail := { moves := [⟨0, 3, 0, 5, 100⟩] }, ctxs := [(0, { c0 with cmds := [cm 1 1 0 .started] })] },
      by decide +kernel⟩,
    ⟨0, 0x9000, { on with ctxs := [(0, { c0 with owesTargets := true, table := some 0x9000 })] }, by decide +kernel⟩,
    ⟨{ on with fail := { moves := [⟨0, 3, 0, 5, 1000000⟩] } }, by decide +kernel⟩,
    ⟨{ on with clk := { on.clk with lock := false }, fail := { moves := [⟨0, 3, 0, 5, 0⟩] } }, by decide +kernel⟩⟩

/-- The clauses of SweepAcceptanceAndNorm have something to speak of. -/
theorem hyps_SweepAcceptanceAndNorm :
    (∃ (x : Ctx) (d : Cmd) (s : State), s.startableOp x.val 6 = some d ∧ s.Live x.val d ∧ s.sweepCheck x.val d ≠ stOk) ∧
    (∃ (x : Ctx) (d : Cmd) (s : State), s.startableOp x.val 6 = some d ∧ s.sweepCheck x.val d = stOk ∧ s.badAmong (s.sweepReads
      x.val d) = none) ∧
    (∃ (x : Ctx) (s : State), s.startableOp x.val 6 = none) ∧
    (∃ (x : Ctx) (w : Sweep) (d : Cmd) (s : State), s.sweepIn x.val .start = some w ∧ s.pass1Ready x.val w = true ∧ s.hive.halt =
      false ∧ ((s.ctx x.val).attempt = 0 ∨ (s.ctx x.val).crcFirst = (s.ctx x.val).stepCrc) ∧ s.sluicesOpen (s.pass1Reads x.val
      w.table) = true ∧ s.badAmong (s.pass1Grads x.val w.table) = none ∧ s.badAmong (s.pass1Audit x.val w.table) = none ∧
      s.badAmong (s.pass1Copies x.val w.table) = none ∧ (s.swHdr x.val w.table).audit = false ∧ (s.ctx x.val).cmd w.idx = some d ∧
      d.normJob = false) ∧
    (∃ (x : Ctx) (w : Sweep) (d : Cmd) (s : State), s.sweepIn x.val .start = some w ∧ s.pass1Ready x.val w = true ∧ s.hive.halt =
      false ∧ 0 < (s.ctx x.val).attempt ∧ (s.ctx x.val).crcFirst ≠ (s.ctx x.val).stepCrc ∧ s.Live x.val d ∧ d.idx = w.idx) ∧
    (∃ (x : Ctx) (w : Sweep) (s : State), (s.sweepIn x.val .start = none ∨ s.hive.halt = true ∨ (s.sweepIn x.val .start = some w ∧
      s.pass1Ready x.val w = false))) ∧
    (∃ (x : Ctx) (w : Sweep) (s : State), s.sweepIn x.val .start = some w ∧ s.pass1Ready x.val w = true ∧ s.hive.halt = false ∧
      ((s.ctx x.val).attempt = 0 ∨ (s.ctx x.val).crcFirst = (s.ctx x.val).stepCrc) ∧ s.sluicesOpen (s.pass1Reads x.val w.table) =
      false) ∧
    (∃ (x : Ctx) (p : NormPartial) (w : Sweep) (d : Cmd) (s : State), s.joined x.val = true ∧ (s.ctx x.val).parts = [] ∧ s.sweepIn
      x.val .norm = some w ∧ w.sent = true ∧ (s.ctx x.val).cmd w.idx = some d ∧ d.normJob = true ∧ p.result = true ∧ p.step.toNat
      = (s.swHdr x.val w.table).step) ∧
    (∃ (x : Ctx) (_p : NormPartial) (s : State), s.joined x.val = true ∧ (s.ctx x.val).parts = [] ∧ s.sweepIn x.val .norm = none) ∧
    (∃ (x : Ctx) (p : NormPartial) (s : State), (s.joined x.val = false ∨ p ∈ (s.ctx x.val).parts)) ∧
    (∃ (x : Ctx) (w : Sweep) (u : Nat) (s : State), s.sweepIn x.val .norm = some w ∧ w.readyAt = some u ∧ u + 100000000000 ≤
      s.clk.now) ∧
    (∃ (x : Ctx) (w : Sweep) (s : State), (s.sweepIn x.val .norm = none ∨ (s.sweepIn x.val .norm = some w ∧ (∀ u, w.readyAt = some
      u → s.clk.now < u + 100000000000)))) :=
  ⟨⟨0, cm 1 6 0x5000, ring [cm 1 6 0x5000], ⟨by decide +kernel, ⟨by decide +kernel, by decide +kernel, by decide +kernel⟩,
      by decide +kernel⟩⟩,
    ⟨0, cm 1 6 0x9000, { ring [cm 1 6 0x9000] with mem := { dev := tableMem } }, by decide +kernel⟩,
    ⟨0, on, by decide +kernel⟩,
    ⟨0, sw .start, cm 1 6 0x9000 .started, swp (sw .start), by decide +kernel⟩,
    ⟨0, sw .start, cm 1 6 0x9000 .started, swp (sw .start) (fun c => { c with attempt := 1, crcFirst := 5 }), ⟨by decide +kernel,
      by decide +kernel, by decide +kernel, by decide +kernel, by decide +kernel, ⟨by decide +kernel, by decide +kernel,
      by decide +kernel⟩, by decide +kernel⟩⟩,
    ⟨0, sw .start, on, by decide +kernel⟩,
    ⟨0, sw .start, shut (swp (sw .start)), by decide +kernel⟩,
    ⟨0, ⟨6, 1, true, 5, 0, [], [], [], []⟩, { sw .norm with sent := true }, cm 1 6 (0x9000 + 2 ^ 64) .started, withRegs
      [(Off.ctxJob 0, 2)] (swp { sw .norm with sent := true } (fun c => { c with cmds := [cm 1 6 (0x9000 + 2 ^ 64) .started] })),
      by decide +kernel⟩,
    ⟨0, ⟨6, 1, true, 5, 0, [], [], [], []⟩, withRegs [(Off.ctxJob 0, 2)] on, by decide +kernel⟩,
    ⟨0, ⟨6, 1, true, 5, 0, [], [], [], []⟩, on, by decide +kernel⟩,
    ⟨0, { sw .norm with readyAt := some 5 }, 5, swp { sw .norm with readyAt := some 5 }, by decide +kernel⟩,
    ⟨0, sw .start, on, by decide +kernel⟩⟩

/-- The clauses of SweepDecision have something to speak of. -/
theorem hyps_SweepDecision :
    (∃ (x : Ctx) (w : Sweep) (h : SwHdr) (ns : F32) (s : State), s.sweepIn x.val .decide = some w ∧ h = s.swHdr x.val w.table ∧ ns
      = scaledNorm h w.sum ∧ s.flag Off.numMonCtrl 0 = false ∧ w.layers = [] ∧ w.trips = [] ∧ w.bits = 0 ∧ w.mismatched = [] ∧
      w.stopped = [] ∧ s.recordBad x.val w.table = none ∧ (f32Val ns).nonFinite = false ∧ s.loadNat x.val (h.state + 16) 4 <
      h.warm) ∧
    (∃ (x : Ctx) (w : Sweep) (h : SwHdr) (ns : F32) (s : State), s.sweepIn x.val .decide = some w ∧ h = s.swHdr x.val w.table ∧ ns
      = scaledNorm h w.sum ∧ s.flag Off.numMonCtrl 0 = false ∧ w.layers = [] ∧ w.trips = [] ∧ w.bits = 0 ∧ w.mismatched = [] ∧
      w.stopped = [] ∧ s.recordBad x.val w.table = none ∧ (f32Val ns).nonFinite = true ∧ (s.ctx x.val).journal = []) ∧
    (∃ (x : Ctx) (w : Sweep) (h : SwHdr) (ns : F32) (n : Nat) (b : BitVec 2) (d : Cmd) (s : State), s.sweepIn x.val .decide = some
      w ∧ h = s.swHdr x.val w.table ∧ ns = scaledNorm h w.sum ∧ s.flag Off.numMonCtrl 0 = false ∧ w.layers = [] ∧ w.trips = [(n,
      b)] ∧ n < 1024 ∧ s.normAction n = 3 ∧ w.bits = 0 ∧ w.mismatched = [] ∧ w.stopped = [] ∧ s.recordBad x.val w.table = none ∧
      s.Live x.val d ∧ d.idx = w.idx ∧ d.isStep = true ∧ (s.ctx x.val).fault = none ∧ s.loadNat x.val (h.state + 16) 4 < h.warm) ∧
    (∃ (x : Ctx) (w : Sweep) (s : State), s.sweepIn x.val .decide = some w ∧ w.stopped ≠ []) ∧
    (∃ (x : Ctx) (s : State), s.sweepIn x.val .decide = none) :=
  ⟨⟨0, { sw .decide with sum := .one }, _, _, withRegs [(Off.numMonCtrl, 0)] (swp { sw .decide with sum := .one }),
      ⟨by decide +kernel, rfl, rfl, by decide +kernel⟩⟩,
    ⟨0, { sw .decide with sum := .nan }, _, _, withRegs [(Off.numMonCtrl, 0)] (swp { sw .decide with sum := .nan }),
      ⟨by decide +kernel, rfl, rfl, by decide +kernel⟩⟩,
    ⟨0, { sw .decide with trips := [(3, 2)] }, ((withRegs [(Off.numMonCtrl, 0), (Off.numLayerCfg 3, 2^18 * 3)] (swp
      { sw .decide with trips := [(3, 2)] }))).swHdr 0 0x9000, scaledNorm (((withRegs [(Off.numMonCtrl, 0), (Off.numLayerCfg 3,
      2^18 * 3)] (swp { sw .decide with trips := [(3, 2)] }))).swHdr 0 0x9000) ({ sw .decide with trips := [(3, 2)] }).sum, 3, 2,
      cm 1 6 0x9000 .started, withRegs [(Off.numMonCtrl, 0), (Off.numLayerCfg 3, 2^18 * 3)] (swp
      { sw .decide with trips := [(3, 2)] }),
      by and_intros <;> first | exact ⟨by decide +kernel, by decide +kernel, by decide +kernel⟩ | decide +kernel⟩,
    ⟨0, { sw .decide with stopped := [0] }, swp { sw .decide with stopped := [0] }, by decide +kernel⟩,
    ⟨0, on, by decide +kernel⟩⟩

/-- The clauses of SweepPassTwo have something to speak of. -/
theorem hyps_SweepPassTwo :
    (∃ (x : Ctx) (e : Stack) (w : Sweep) (i b : Nat) (c : HeldGrp) (g : Grp) (s : State), s.sweepIn x.val .pass2 = some w ∧
      s.hive.halt = false ∧ e.val ∉ w.stopped ∧ s.chamberUsed e.val < 16 ∧ (s.engineBlocks x.val w.table e.val)[w.takenOf e.val]?
      = some (i, b) ∧ c = s.heldOf x.val w i ∧ g = c.g ∧ s.badAmong (s.blockReads x.val (s.swHdr x.val w.table) g b).1 = none ∧
      s.badAmong (s.blockReads x.val (s.swHdr x.val w.table) g b).2 = none ∧ s.sluicesOpen ((s.blockReads x.val (s.swHdr x.val
      w.table) g b).1 ++ (s.blockReads x.val (s.swHdr x.val w.table) g b).2) = true ∧ ((∀ p, p ∈ g.planes b → p.1 + p.2 ≤
      0x10000000000))) ∧
    (∃ (x : Ctx) (e : Stack) (w : Sweep) (s : State), (s.sweepIn x.val .pass2 = none ∨ s.hive.halt = true ∨ (s.sweepIn x.val
      .pass2 = some w ∧ (e.val ∈ w.stopped ∨ 16 ≤ s.chamberUsed e.val)))) ∧
    (∃ (x : Ctx) (e : Stack) (w : Sweep) (i b : Nat) (es : List (Nat × Nat)) (s : State), s.sweepIn x.val .pass2 = some w ∧
      s.hive.halt = false ∧ e.val ∉ w.stopped ∧ s.chamberUsed e.val < 16 ∧ (s.engineBlocks x.val w.table e.val)[w.takenOf e.val]?
      = some (i, b) ∧ s.badAmong (s.blockReads x.val (s.swHdr x.val w.table) (s.heldOf x.val w i).g b).1 = none ∧ s.badAmong
      (s.blockReads x.val (s.swHdr x.val w.table) (s.heldOf x.val w i).g b).2 = none ∧ es = (s.blockReads x.val (s.swHdr x.val
      w.table) (s.heldOf x.val w i).g b).1 ++ (s.blockReads x.val (s.swHdr x.val w.table) (s.heldOf x.val w i).g b).2 ∧
      s.sluicesOpen es = false) ∧
    (∃ (x : Ctx) (e : Stack) (w : Sweep) (c : Chamber) (cs : List Chamber) (g : Grp) (s : State), s.sweepIn x.val .pass2 = some w
      ∧ w.entriesOf e.val = c :: cs ∧ g = (s.heldOf x.val w c.grp).g ∧ e.val ∉ w.stopped ∧ s.streaming = false ∧ ((s.engineBlocks
      x.val w.table e.val)[w.stampedOf e.val + 1]?).map (·.1) = some c.grp ∧ g.stamp + 8 * c.blk + 8 ≤ 0x10000000000 ∧ s.roomFor
      [s.entryDraft x.val w c] = true) ∧
    (∃ (x : Ctx) (e : Stack) (w : Sweep) (c : Chamber) (cs : List Chamber) (s : State), s.sweepIn x.val .pass2 = some w ∧
      w.entriesOf e.val = c :: cs ∧ e.val ∉ w.stopped ∧ s.roomFor [s.entryDraft x.val w c] = true ∧ s.streaming = true ∧ c.emitted
      = false) ∧
    (∃ (x : Ctx) (e : Stack) (w : Sweep) (c : Chamber) (cs : List Chamber) (g : Grp) (s : State), s.sweepIn x.val .pass2 = some w
      ∧ w.entriesOf e.val = c :: cs ∧ g = (s.heldOf x.val w c.grp).g ∧ e.val ∉ w.stopped ∧ s.roomFor [s.entryDraft x.val w c] =
      false ∧ g.stamp + 8 * c.blk + 8 ≤ 0x10000000000) ∧
    (∃ (x : Ctx) (e : Stack) (w : Sweep) (c : Chamber) (cs : List Chamber) (g : HeldGrp) (s : State), s.sweepIn x.val .pass2 =
      some w ∧ w.entriesOf e.val = c :: cs ∧ g = s.heldOf x.val w c.grp ∧ e.val ∉ w.stopped ∧ s.roomFor [s.entryDraft x.val w c] =
      true ∧ s.streaming = false ∧ ((s.engineBlocks x.val w.table e.val)[w.stampedOf e.val + 1]?).map (·.1) ≠ some c.grp ∧
      g.g.gstate + 64 ≤ 0x10000000000 ∧ w.held[c.grp]? = some g) ∧
    (∃ (x : Ctx) (e : Stack) (w : Sweep) (s : State), (s.sweepIn x.val .pass2 = none ∨ (s.sweepIn x.val .pass2 = some w ∧ (e.val ∈
      w.stopped ∨ w.entriesOf e.val = [])))) ∧
    (∃ (x : Ctx) (e : Stack) (_r : SramError) (w : Sweep) (s : State), (s.ctx x.val).sweep = some w ∧ e.val ∈ w.stopped ∧ (s.ctx
      x.val).stopped = false ∧ (s.ctx x.val).mayRun = true ∧ s.hive.halt = false ∧ s.rowsMended (s.mirroredExtents x.val w.table)
      = true ∧ w.entriesOf e.val = []) ∧
    (∃ (x : Ctx) (e : Stack) (r : SramError) (w : Sweep) (c : Chamber) (a : Nat) (bs : List Byte) (s : State), (s.ctx x.val).sweep
      = some w ∧ e.val ∈ w.stopped ∧ (s.ctx x.val).stopped = false ∧ (s.ctx x.val).mayRun = true ∧ s.hive.halt = false ∧
      s.rowsMended (s.mirroredExtents x.val w.table) = true ∧ s.roomFor [s.entryDraft x.val w c] = true ∧ r ≠ .uncorrectable ∧
      w.entriesOf e.val = [c] ∧ s.loadNat x.val ((s.heldOf x.val w c.grp).g.stamp + 8 * c.blk) 8 ≠ c.step ∧ c.old = [(a, bs)] ∧ a
      + bs.length ≤ 0x10000000000) ∧
    (∃ (x : Ctx) (e : Stack) (w : Sweep) (d : Cmd) (s : State), (s.ctx x.val).sweep = some w ∧ e.val ∈ w.stopped ∧ (s.ctx
      x.val).stopped = false ∧ (s.ctx x.val).mayRun = true ∧ s.hive.halt = false ∧ w.entriesOf e.val ≠ [] ∧ s.rowsMended
      (s.mirroredExtents x.val w.table) = true ∧ s.roomFor ((w.entriesOf e.val).map (s.entryDraft x.val w)) = true ∧ s.Live x.val
      d ∧ d.idx = w.idx) ∧
    (∃ (x : Ctx) (_e : Stack) (_r : SramError) (w : Sweep) (s : State), ((s.ctx x.val).sweep = none ∨ (s.ctx x.val).stopped = true
      ∨ s.hive.halt = true ∨ (s.ctx x.val).sweep = some w ∧ s.rowsMended (s.mirroredExtents x.val w.table) = false)) :=
  ⟨⟨0, 0, sw .pass2, 0, 0, _, _, swp (sw .pass2), ⟨by decide +kernel, by decide +kernel, by decide +kernel, by decide +kernel,
      by decide +kernel, rfl, rfl, by decide +kernel⟩⟩,
    ⟨0, 0, sw .pass2, on, by decide +kernel⟩,
    ⟨0, 0, sw .pass2, 0, 0, _, shut (swp (sw .pass2)), ⟨by decide +kernel, by decide +kernel, by decide +kernel,
      by decide +kernel, by decide +kernel, by decide +kernel, by decide +kernel, rfl, by decide +kernel⟩⟩,
    ⟨0, 0,
      { sw .pass2 with taken := [(0, 1)], chamber := [⟨0, 0, 0, 6, false, [(0x9280, [0, 0]), (0x92C0, [0, 0]), (0x9240, [0, 0, 0, 0])]⟩], held := [({ swp (sw .pass2) with mem := { dev := (tableMem.setNat 0x9008 2 1).setNat 0x9078 4 5000 } }).holdGrp 0 (({ swp (sw .pass2) with mem := { dev := (tableMem.setNat 0x9008 2 1).setNat 0x9078 4 5000 } }).grp 0 0x9000 0)] },
      ⟨0, 0, 0, 6, false, [(0x9280, [0, 0]), (0x92C0, [0, 0]), (0x9240, [0, 0, 0, 0])]⟩, [], _,
      { swp ({ sw .pass2 with taken := [(0, 1)], chamber := [⟨0, 0, 0, 6, false, [(0x9280, [0, 0]), (0x92C0, [0, 0]), (0x9240, [0, 0, 0, 0])]⟩], held := [({ swp (sw .pass2) with mem := { dev := (tableMem.setNat 0x9008 2 1).setNat 0x9078 4 5000 } }).holdGrp 0 (({ swp (sw .pass2) with mem := { dev := (tableMem.setNat 0x9008 2 1).setNat 0x9078 4 5000 } }).grp 0 0x9000 0)] }) with mem := { dev := (tableMem.setNat 0x9008 2 1).setNat 0x9078 4 5000 } },
      ⟨by decide +kernel, by decide +kernel, rfl, by decide +kernel⟩⟩,
    ⟨0, 0,
      { sw .pass2 with taken := [(0, 1)], chamber := [⟨0, 0, 0, 6, false, [(0x9280, [0, 0]), (0x92C0, [0, 0]), (0x9240, [0, 0, 0, 0])]⟩], held := [(swp (sw .pass2)).holdGrp 0 ((swp (sw .pass2)).grp 0 0x9000 0)] },
      ⟨0, 0, 0, 6, false, [(0x9280, [0, 0]), (0x92C0, [0, 0]), (0x9240, [0, 0, 0, 0])]⟩, [], withRegs [(Off.updExpCtrl, 1),
      (Off.updExpSpool 0, 2^32)] (swp
      ({ sw .pass2 with taken := [(0, 1)], chamber := [⟨0, 0, 0, 6, false, [(0x9280, [0, 0]), (0x92C0, [0, 0]), (0x9240, [0, 0, 0, 0])]⟩], held := [(swp (sw .pass2)).holdGrp 0 ((swp (sw .pass2)).grp 0 0x9000 0)] })),
      by decide +kernel⟩,
    ⟨0, 0,
      { sw .pass2 with taken := [(0, 1)], chamber := [⟨0, 0, 0, 6, false, [(0x9280, [0, 0]), (0x92C0, [0, 0]), (0x9240, [0, 0, 0, 0])]⟩], held := [(swp (sw .pass2)).holdGrp 0 ((swp (sw .pass2)).grp 0 0x9000 0)] },
      ⟨0, 0, 0, 6, false, [(0x9280, [0, 0]), (0x92C0, [0, 0]), (0x9240, [0, 0, 0, 0])]⟩, [], _, withRegs [(Off.updExpCtrl, 1)]
      (swp
      ({ sw .pass2 with taken := [(0, 1)], chamber := [⟨0, 0, 0, 6, false, [(0x9280, [0, 0]), (0x92C0, [0, 0]), (0x9240, [0, 0, 0, 0])]⟩], held := [(swp (sw .pass2)).holdGrp 0 ((swp (sw .pass2)).grp 0 0x9000 0)] })),
      ⟨by decide +kernel, by decide +kernel, rfl, by decide +kernel⟩⟩,
    ⟨0, 0,
      { sw .pass2 with taken := [(0, 1)], chamber := [⟨0, 0, 0, 6, false, [(0x9280, [0, 0]), (0x92C0, [0, 0]), (0x9240, [0, 0, 0, 0])]⟩], held := [(swp (sw .pass2)).holdGrp 0 ((swp (sw .pass2)).grp 0 0x9000 0)] },
      ⟨0, 0, 0, 6, false, [(0x9280, [0, 0]), (0x92C0, [0, 0]), (0x9240, [0, 0, 0, 0])]⟩, [], _, swp
      ({ sw .pass2 with taken := [(0, 1)], chamber := [⟨0, 0, 0, 6, false, [(0x9280, [0, 0]), (0x92C0, [0, 0]), (0x9240, [0, 0, 0, 0])]⟩], held := [(swp (sw .pass2)).holdGrp 0 ((swp (sw .pass2)).grp 0 0x9000 0)] }),
      ⟨by decide +kernel, by decide +kernel, rfl, by decide +kernel⟩⟩,
    ⟨0, 0, sw .pass2, on, by decide +kernel⟩,
    ⟨0, 0, .corrected, { sw .pass2 with stopped := [0], taken := [(0, 1)], stamped := [(0, 1)] }, swp
      ({ sw .pass2 with stopped := [0], taken := [(0, 1)], stamped := [(0, 1)] }), by decide +kernel⟩,
    ⟨0, 0, .corrected,
      { sw .pass2 with stopped := [0], taken := [(0, 1)], chamber := [⟨0, 0, 0, 6, false, [(0x9280, [7, 7])]⟩], held := [(swp (sw .pass2)).holdGrp 0 ((swp (sw .pass2)).grp 0 0x9000 0)] },
      ⟨0, 0, 0, 6, false, [(0x9280, [7, 7])]⟩, 0x9280, [7, 7], swp
      ({ sw .pass2 with stopped := [0], taken := [(0, 1)], chamber := [⟨0, 0, 0, 6, false, [(0x9280, [7, 7])]⟩], held := [(swp (sw .pass2)).holdGrp 0 ((swp (sw .pass2)).grp 0 0x9000 0)] }),
      by decide +kernel⟩,
    ⟨0, 0,
      { sw .pass2 with stopped := [0], taken := [(0, 1)], chamber := [⟨0, 0, 0, 6, false, [(0x9280, [7, 7])]⟩], held := [(swp (sw .pass2)).holdGrp 0 ((swp (sw .pass2)).grp 0 0x9000 0)] },
      cm 1 6 0x9000 .started, swp
      ({ sw .pass2 with stopped := [0], taken := [(0, 1)], chamber := [⟨0, 0, 0, 6, false, [(0x9280, [7, 7])]⟩], held := [(swp (sw .pass2)).holdGrp 0 ((swp (sw .pass2)).grp 0 0x9000 0)] }),
      by and_intros <;> first | exact ⟨by decide +kernel, by decide +kernel, by decide +kernel⟩ | decide +kernel⟩,
    ⟨0, 0, .corrected, sw .pass2, on, by decide +kernel⟩⟩

/-- The clauses of RederivationAndCommit have something to speak of. -/
theorem hyps_RederivationAndCommit :
    (∃ (x : Ctx) (w : Sweep) (u : State) (ts : List Tgt) (s : State), s.toRederive x.val = some w ∧ u = (s.boundaryLayers x.val
      w).foldl (fun s n => s.advanceLayer w n) s ∧ ts = u.rederiveTargets x.val w s.rotMode ∧ s.mayRederive x.val w.table ts =
      true ∧ s.sluicesOpen (s.rederiveReads x.val w.table ts ++ s.rederiveWrites x.val ts) = true ∧ s.badAmong (s.rederiveReads
      x.val w.table ts) = none ∧ s.badAmong (s.rederiveOwn x.val ts) = none) ∧
    (∃ (x : Ctx) (w : Sweep) (u : State) (ts : List Tgt) (a : Nat) (d : Cmd) (s : State), s.toRederive x.val = some w ∧ u =
      (s.boundaryLayers x.val w).foldl (fun s n => s.advanceLayer w n) s ∧ ts = u.rederiveTargets x.val w s.rotMode ∧
      s.mayRederive x.val w.table ts = true ∧ s.sluicesOpen (s.rederiveReads x.val w.table ts ++ s.rederiveWrites x.val ts) = true
      ∧ s.badAmong (s.rederiveReads x.val w.table ts) = some a ∧ s.Live x.val d ∧ d.idx = w.idx) ∧
    (∃ (x : Ctx) (w : Sweep) (u : State) (ts : List Tgt) (s : State), s.toRederive x.val = some w ∧ u = (s.boundaryLayers x.val
      w).foldl (fun s n => s.advanceLayer w n) s ∧ ts = u.rederiveTargets x.val w s.rotMode ∧ s.mayRederive x.val w.table ts =
      false) ∧
    (∃ (x : Ctx) (w : Sweep) (u : State) (ts : List Tgt) (s : State), s.toRederive x.val = some w ∧ u = (s.boundaryLayers x.val
      w).foldl (fun s n => s.advanceLayer w n) s ∧ ts = u.rederiveTargets x.val w s.rotMode ∧ s.mayRederive x.val w.table ts =
      true ∧ s.sluicesOpen (s.rederiveReads x.val w.table ts ++ s.rederiveWrites x.val ts) = false) ∧
    (∃ (x : Ctx) (w : Sweep) (s : State), s.toRederive x.val = some w ∧ s.tgts x.val w.table = [] ∧ s.hive.halt = false) ∧
    (∃ (x : Ctx) (s : State), (s.toRederive x.val = none ∨ s.hive.halt = true)) ∧
    (∃ (x : Ctx) (w : Sweep) (d : Cmd) (h : SwHdr) (s : State), s.sweepIn x.val .commit = some w ∧ h = s.swHdr x.val w.table ∧
      s.mayCommit x.val w = true ∧ s.Live x.val d ∧ d.idx = w.idx ∧ swf {} s.layers = true) ∧
    (∃ (x : Ctx) (w : Sweep) (s : State), (s.sweepIn x.val .commit = none ∨ (s.sweepIn x.val .commit = some w ∧ s.mayCommit x.val
      w = false))) ∧
    (∃ (x : Nat) (_w : Sweep) (s : State), (s.messagesDone x = false ∨ (s.ctx x).runs ≠ [] ∨ s.hive.halt = true)) :=
  ⟨⟨0, { sw .rederive with applied := true }, _, _,
      { swp ({ sw .rederive with applied := true }) with mem := { dev := tgtMem }, layers := [(3, { flagged := 2, age := 4 })] },
      ⟨by decide +kernel, rfl, rederive_all _ _ _ _ _ rfl, by decide +kernel⟩⟩,
    ⟨0, { sw .rederive with applied := true }, _, _, 0x9240, cm 1 6 0x9000 .started,
      { swp ({ sw .rederive with applied := true }) (fun c => { c with cmds := [cm 1 6 0x9000 .started] }) with mem := { dev := tgtMem, bad := [(0x9240, true)] } },
      ⟨by decide +kernel, rfl, rederive_all _ _ _ _ _ rfl, by decide +kernel, by decide +kernel, by decide +kernel,
      ⟨by decide +kernel, by decide +kernel, by decide +kernel⟩, by decide +kernel⟩⟩,
    ⟨0, { sw .rederive with applied := true }, _, _,
      { { swp ({ sw .rederive with applied := true }) with mem := { dev := tgtMem }, layers := [(3, { flagged := 2, age := 4 })] } with hive := { halt := true } },
      ⟨by decide +kernel, rfl, rederive_all _ _ _ _ _ rfl, by decide +kernel⟩⟩,
    ⟨0, { sw .rederive with applied := true }, _, _, shut
      ({ swp ({ sw .rederive with applied := true }) with mem := { dev := tgtMem }, layers := [(3, { flagged := 2, age := 4 })] }),
      ⟨by decide +kernel, rfl, rederive_all _ _ _ _ _ rfl, by decide +kernel⟩⟩,
    ⟨0, sw .rederive, { swp (sw .rederive) with layers := [(3, { flagged := 2, age := 4 })] }, by decide +kernel⟩,
    ⟨0, hv on (fun h => { h with halt := true }), by decide +kernel⟩,
    ⟨0, { sw .commit with applied := true, bits := 2, avg := 0x3F800000, norm := 0x40000000 }, cm 1 6 0x9000 .started, _,
      { swp ({ sw .commit with applied := true, bits := 2, avg := 0x3F800000, norm := 0x40000000 }) with layers := [(3, { flagged := 2, age := 4 })], sync := { counters := [(7, { value := 9, committed := 4 })] } },
      ⟨by decide +kernel, rfl, by decide +kernel, ⟨by decide +kernel, by decide +kernel, by decide +kernel⟩, by decide +kernel⟩⟩,
    ⟨0, sw .commit, on, by decide +kernel⟩,
    ⟨0, sw .commit, { on with ctxs := [(0, { c0 with runs := [⟨1, 0, [0], none, false⟩] })] }, by decide +kernel⟩⟩

/-- The clauses of FramesAndPacketsOut have something to speak of. -/
theorem hyps_FramesAndPacketsOut :
    (∃ (p : PortCode) (s : State), s.switchPending = false ∧ p.toNat < 16 ∧ (s.port p.toNat).up = true ∧ s.clk.lock = true ∧
      s.fail.moved = false ∧ (s.port p.toNat).sent.all (fun n => decide (n < s.clk.frame)) = true ∧ (s.port p.toNat).barges = [] ∧
      s.exporting = false ∧ ((s.port p.toNat).table ((s.port p.toNat).bufFor s.clk.frame)).tx = [] ∧ (s.port p.toNat).outRest = []
      ∧ (s.port p.toNat).queue = [] ∧ s.sync.outbox = []) ∧
    (∃ (p : PortCode) (q : Nat) (s : State), s.switchPending = false ∧ isCanal p.toNat = true ∧ portExists p.toNat = true ∧
      edgeEnd p.toNat = some q ∧ (s.port p.toNat).up = true ∧ s.clk.lock = true ∧ s.fail.moved = false ∧ (s.port p.toNat).sent.all
      (fun n => decide (n < s.clk.frame)) = true ∧ (s.port p.toNat).barges = [] ∧ s.exporting = false ∧ ((s.port p.toNat).table
      ((s.port p.toNat).bufFor s.clk.frame)).tx = [] ∧ (s.port p.toNat).outRest = [] ∧ (s.port p.toNat).queue = [] ∧ s.sync.outbox
      = []) ∧
    (∃ (p : PortCode) (s : State), s.switchPending = false ∧ ((s.port p.toNat).up = false ∨ s.clk.lock = false ∨ s.fail.moved =
      true ∨ portExists p.toNat = false ∨ (∃ n, (s.port p.toNat).sent = some n ∧ s.clk.frame ≤ n))) ∧
    (∃ (p frame slot i key : Nat) (d : Barge) (s : State), ((s.port p).table ((s.port p).bufFor frame)).txAt frame slot = some i ∧
      key = (s.port p).key ((s.port p).bufFor frame) i ∧ (s.port p).desc key = some d ∧ d.kind = 1 ∧ s.msgsFor p i ((s.port
      p).barge key).n = [] ∧ ((s.port p).barge key).n < s.stepCount d.counter ∧ s.onMove (d.addr + (flitBytes p * ((s.port
      p).barge key).n) % d.length) = false ∧ s.joins (sectorOf p) (sectorAt (d.addr + (flitBytes p * ((s.port p).barge key).n) %
      d.length)) = true ∧ s.badIn (d.addr + (flitBytes p * ((s.port p).barge key).n) % d.length) (flitBytes p) = none) ∧
    (∃ (p frame slot i key : Nat) (d : Barge) (s : State), ((s.port p).table ((s.port p).bufFor frame)).txAt frame slot = some i ∧
      key = (s.port p).key ((s.port p).bufFor frame) i ∧ (s.port p).desc key = some d ∧ d.kind = 1 ∧ s.msgsFor p i ((s.port
      p).barge key).n ≠ []) ∧
    (∃ (p : PortCode) (fr : BitVec 56) (e : Sent) (s : State), p.toNat < 16 ∧ e.late = none ∧ (s.port p.toNat).store.filter (fun e
      => e.frame == fr.toNat) = [e]) ∧
    (∃ (p : PortCode) (fr : BitVec 56) (s : State), (s.port p.toNat).store.filter (fun e => e.frame == fr.toNat) = []) ∧
    (∃ (p : PortCode) (b : BitVec 12) (key : Nat) (l : Berth) (ls : List Berth) (st : BargeSt) (s : State), (s.port
      p.toNat).barges = [(key, st)] ∧ key % 4096 = b.toNat ∧ st.line = l :: ls ∧ l.flit = none ∧ 0 < l.asks ∧ l.askedAt +
      100000000 ≤ s.clk.now ∧ l.asks < 8) ∧
    (∃ (p : PortCode) (b : BitVec 12) (key : Nat) (l : Berth) (ls : List Berth) (st : BargeSt) (s : State), (s.port
      p.toNat).barges = [(key, st)] ∧ key % 4096 = b.toNat ∧ st.line = l :: ls ∧ l.flit = none ∧ l.askedAt + 100000000 ≤ s.clk.now
      ∧ 8 ≤ l.asks ∧ (s.port p.toNat).up = true) ∧
    (∃ (p : PortCode) (b : BitVec 12) (s : State), ((∀ e ∈ (s.port p.toNat).barges, e.1 % 4096 = b.toNat → ∀ l ∈ e.2.line,
      l.flit.isSome = true ∨ l.asks = 0 ∨ s.clk.now < l.askedAt + 100000000))) ∧
    (∃ (p : PortCode) (k : Packet) (q : Nat) (s : State), (s.port p.toNat).up = true ∧ k.cls.toNat ≤ 4 ∧ k.reserved = 0 ∧
      s.fail.silenced.contains k.src.toNat = false ∧ k.dest.toNat ≠ s.moduleNo ∧ s.routeOf k.dest.toNat = some q ∧ k.hops ≠ 0 ∧
      sectorOf p.toNat = sectorOf q) ∧
    (∃ (p : PortCode) (k : Packet) (q c : Nat) (s : State), (s.port p.toNat).up = true ∧ k.cls.toNat ≤ 4 ∧ k.reserved = 0 ∧
      s.fail.silenced.contains k.src.toNat = false ∧ k.dest.toNat ≠ s.moduleNo ∧ s.routeOf k.dest.toNat = some q ∧ k.hops ≠ 0 ∧
      sectorOf p.toNat ≠ sectorOf q ∧ s.canalHop (sectorOf p.toNat) (sectorOf q) = some c) ∧
    (∃ (p : PortCode) (k : Packet) (s : State), p.toNat < 16 ∧ (s.port p.toNat).up = true ∧ k.cls.toNat ≤ 4 ∧ k.cls ≠ 2 ∧
      k.reserved = 0 ∧ s.fail.silenced.contains k.src.toNat = false ∧ k.dest.toNat ≠ s.moduleNo ∧ (s.routeOf k.dest.toNat = none ∨
      k.hops = 0)) ∧
    (∃ (p : PortCode) (k : Packet) (s : State), ((s.port p.toNat).up = false ∨ k.cls = 7)) :=
  ⟨⟨0, pt { state := 3 }, by decide +kernel⟩,
    ⟨0x40, 0x46, pt { state := 3 } on 0x40, by decide +kernel⟩,
    ⟨0, on, by decide +kernel⟩,
    ⟨0, 71680, 0, 0, 0, barge 1, withRegs []
      { on with clk := { on.clk with frame := 1024 * 70 }, sync := { counters := [(7, { value := 3 }), (8, { value := 3 })] }, lnk := { ports := [(0, { state := 3, table0 := tab 1 })] } },
      by decide +kernel⟩,
    ⟨0, 71680, 0, 0, 0, barge 1,
      { withRegs [] { on with clk := { on.clk with frame := 1024 * 70 }, sync := { counters := [(7, { value := 3 }), (8, { value := 3 })] }, lnk := { ports := [(0, { state := 3, table0 := tab 1 })] } } with sync := { outbox := [⟨sm 1 7 1, 9, some (0, 0, 0), 0⟩] } },
      by decide +kernel⟩,
    ⟨0, 5, ⟨5, 2, 0, false, [1], none⟩, pt { state := 3, store := [⟨5, 2, 0, false, [1], none⟩] }, by decide +kernel⟩,
    ⟨0, 5, on, by decide +kernel⟩,
    ⟨0, 0, 0, berth none, [], { line := [berth none] }, pt { state := 3, barges := [(0, { line := [berth none] })] },
      by decide +kernel⟩,
    ⟨0, 0, 0, berth none 8, [], { line := [berth none 8] }, pt
      { state := 3, table0 := tab 2, barges := [(0, { line := [berth none 8] })] }, by decide +kernel⟩,
    ⟨0, 0, on, by decide +kernel⟩,
    ⟨1, ⟨2, 0, 0, 15, 9, 3, 0, 0, []⟩, 1, withRegs [(Off.lnkRoute 2, 0x8100)] (pt { state := 3 } on 1), by decide +kernel⟩,
    ⟨0, ⟨2, 0, 0, 15, 9, 3, 0, 0, []⟩, 1, 0x40, withRegs [(Off.lnkRoute 2, 0x8100)]
      { on with lnk := { ports := [(0, { state := 3 }), (0x40, { state := 3 }), (0x46, { state := 3 })] } }, by decide +kernel⟩,
    ⟨0, ⟨3, 0, 0, 15, 9, 3, 0, 0, []⟩, pt { state := 3 }, by decide +kernel⟩,
    ⟨0, ⟨3, 0, 0, 15, 9, 3, 0, 0, []⟩, on, by decide +kernel⟩⟩

/-- The clauses of FramesIn have something to speak of. -/
theorem hyps_FramesIn :
    (∃ (p : PortCode) (_cs : List Nat) (n : Nat) (s : State), s.switchPending = false ∧ p.toNat < 16 ∧ (s.port p.toNat).up = true
      ∧ s.clk.lock = true ∧ s.fail.silenced.contains (s.port p.toNat).neighbour = false ∧ n = ((s.port p.toNat).got.elim
      (s.frameDue p.toNat) (· + 1)) ∧ (s.port p.toNat).badRun + 1 < 64) ∧
    (∃ (p : PortCode) (_cs : List Nat) (s : State), s.switchPending = false ∧ p.toNat < 16 ∧ (s.port p.toNat).up = true ∧
      s.clk.lock = true ∧ s.fail.silenced.contains (s.port p.toNat).neighbour = false ∧ 64 ≤ (s.port p.toNat).badRun + 1) ∧
    (∃ (p : PortCode) (f : Frame) (_cs : List Nat) (s : State), s.switchPending = false ∧ p.toNat < 16 ∧ (s.port p.toNat).up =
      true ∧ s.clk.lock = true ∧ s.fail.silenced.contains (s.port p.toNat).neighbour = false ∧ (s.port p.toNat).got.all (fun n =>
      decide (f.frame.toNat = n + 1)) = true ∧ f.tag.toNat = ((s.port p.toNat).table ((s.port p.toNat).bufFor f.frame.toNat)).tag
      ∧ f.map = List.replicate 40 2#2 ∧ f.flits = List.replicate 40 (idleBytes 128) ∧ (s.port p.toNat).inPart = [] ∧ (s.port
      p.toNat).barges = [] ∧ (s.port p.toNat).badRun < 64) ∧
    (∃ (p : PortCode) (f : Frame) (_cs : List Nat) (ws : List Frame) (s : State), s.switchPending = false ∧ isCanal p.toNat = true
      ∧ (s.port p.toNat).up = true ∧ s.clk.lock = true ∧ (s.port p.toNat).wire = f :: ws ∧ f.map = List.replicate 40 2#2 ∧ f.flits
      = List.replicate 40 (idleBytes 1024) ∧ (s.port p.toNat).inPart = [] ∧ (s.port p.toNat).barges = []) ∧
    (∃ (p : PortCode) (_f : Option Frame) (_cs : List Nat) (s : State), s.switchPending = false ∧ ((s.port p.toNat).up = false ∨
      s.clk.lock = false)) ∧
    (∃ (p : PortCode) (b : BitVec 12) (key a : Nat) (d : Barge) (l : Berth) (ls : List Berth) (bs : List Byte) (s : State),
      (s.port p.toNat).headKey b.toNat = some key ∧ (s.port p.toNat).desc key = some d ∧ d.kind = 2 ∧ ((s.port p.toNat).barge
      key).line = l :: ls ∧ l.flit = some (false, bs) ∧ a = d.addr + (flitBytes p.toNat * ((s.port p.toNat).barge key).n) %
      d.length ∧ a + bs.length ≤ 0x10000000000 ∧ s.flitReaches p.toNat [d.addr] = true ∧ s.homeAway (sectorOf p.toNat) false
      d.counter = false ∧ s.counterFull d.counter 1 = false ∧ s.overrun d.counter 1 = false ∧ s.sync.watches = []) ∧
    (∃ (p : PortCode) (b : BitVec 12) (s : State), (s.port p.toNat).headKey b.toNat = none) ∧
    (∃ (p : PortCode) (b : BitVec 12) (key o : Nat) (d : Barge) (l : Berth) (ls : List Berth) (bs : List Byte) (s : State),
      (s.port p.toNat).headKey b.toNat = some key ∧ (s.port p.toNat).desc key = some d ∧ d.kind = 5 ∧ ((s.port p.toNat).barge
      key).line = l :: ls ∧ l.flit = some (false, bs) ∧ bs.length % 4 = 0 ∧ ((s.port p.toNat).barge key).n < s.stepCount
      d.localCtr ∧ o = (flitBytes p.toNat * ((s.port p.toNat).barge key).n) % d.length ∧ s.badIn (d.loc + o) bs.length = none ∧
      d.addr + o + bs.length ≤ 0x10000000000 ∧ s.flitReaches p.toNat [d.addr, d.loc] = true ∧ s.homeAway (sectorOf p.toNat) false
      d.counter = false ∧ s.counterFull d.counter 1 = false ∧ s.overrun d.counter 1 = false ∧ s.sync.watches = []) ∧
    (∃ (p : PortCode) (b : BitVec 12) (key : Nat) (d : Barge) (s : State), (s.port p.toNat).headKey b.toNat = some key ∧ (s.port
      p.toNat).desc key = some d ∧ (d.kind ≠ 5 ∨ s.stepCount d.localCtr ≤ ((s.port p.toNat).barge key).n ∨ s.flitReaches p.toNat
      [d.addr, d.loc] = false)) :=
  ⟨⟨0, [3, 0, 2000], 6, pt { state := 3, got := some 5 }, by decide +kernel⟩,
    ⟨0, [], pt
      { state := 3, got := some 5, badRun := 63, table0 := tab 2, barges := [(0, { line := [berth (some (false, [1]))] })] },
      by decide +kernel⟩,
    ⟨0, ⟨6, 7, List.replicate 40 2, 8 * 3 + 1, List.replicate 40 (idleBytes 128)⟩, [1], pt
      { state := 3, got := some 5, table0 := { tag := 7 }, credit := [(1, 4)], badRun := 3 }, by decide +kernel⟩,
    ⟨0x40, ⟨6, 0, List.replicate 40 2, 0, List.replicate 40 (idleBytes 1024)⟩, [], [], pt
      { state := 3, wire := [⟨6, 0, List.replicate 40 2, 0, List.replicate 40 (idleBytes 1024)⟩] } on 0x40, by decide +kernel⟩,
    ⟨0, none, [], on, by decide +kernel⟩,
    ⟨0, 0, 0, 0x5000, barge 2, berth (some (false, [1, 2, 3, 4])), [], [1, 2, 3, 4],
      { pt { state := 3, table0 := tab 2, barges := [(0, { line := [berth (some (false, [1, 2, 3, 4]))] })] } with sync := { counters := [(8, { value := 3 })] } },
      by decide +kernel⟩,
    ⟨0, 0, on, by decide +kernel⟩,
    ⟨0, 0, 0, 0, barge 5, berth (some (false, [0, 0, 128, 63])), [], [0, 0, 128, 63],
      { pt { state := 3, table0 := tab 5, barges := [(0, { line := [berth (some (false, [0, 0, 128, 63]))] })] } with sync := { counters := [(8, { value := 3 })] } },
      by decide +kernel⟩,
    ⟨0, 0, 0, barge 2,
      { pt { state := 3, table0 := tab 2, barges := [(0, { line := [berth (some (false, [1, 2, 3, 4]))] })] } with sync := { counters := [(8, { value := 3 })] } },
      by decide +kernel⟩⟩

/-- The clauses of PortsAndFrameLock have something to speak of. -/
theorem hyps_PortsAndFrameLock :
    (∃ (p : Sector) (m : PortTraining) (s : State), s.flag (Off.lnkPortCtrl p.val) 0 = true ∧ s.lnk.refLost = false ∧ s.fail.moved
      = false ∧ (s.port p.val).state ≤ 2 ∧ m.asks ≠ some .needed ∧ m.lanesUp = true ∧ m.skewNs ≤ 20 ∧ m.xa + m.xb ≤ 20000 ∧
      s.clk.lock = true ∧ beyond3ns (m.xa - m.xb) = true) ∧
    (∃ (p : Sector) (m : PortTraining) (s : State), s.flag (Off.lnkPortCtrl p.val) 0 = true ∧ s.lnk.refLost = false ∧ s.fail.moved
      = false ∧ (s.port p.val).state ≤ 2 ∧ m.asks ≠ some .needed ∧ m.lanesUp = true ∧ m.skewNs ≤ 20 ∧ m.xa + m.xb ≤ 20000 ∧
      s.clk.lock = false ∧ m.neighbourLocked = false) ∧
    (∃ (p : Sector) (m : PortTraining) (s : State), s.flag (Off.lnkPortCtrl p.val) 0 = true ∧ s.lnk.refLost = false ∧ s.fail.moved
      = false ∧ (s.port p.val).state ≤ 2 ∧ m.asks ≠ some .needed ∧ m.lanesUp = true ∧ m.skewNs ≤ 20 ∧ 20000 < m.xa + m.xb) ∧
    (∃ (p : Sector) (m : PortTraining) (s : State), s.flag (Off.lnkPortCtrl p.val) 0 = true ∧ s.lnk.refLost = false ∧ s.fail.moved
      = false ∧ (s.port p.val).state ≤ 2 ∧ m.asks = some .needed) ∧
    (∃ (p : Sector) (m : PortTraining) (s : State), s.flag (Off.lnkPortCtrl p.val) 0 = true ∧ s.lnk.refLost = false ∧ s.fail.moved
      = false ∧ (s.port p.val).state ≤ 2 ∧ m.asks ≠ some .needed ∧ m.lanesUp = true ∧ m.skewNs ≤ 20 ∧ m.xa + m.xb ≤ 20000 ∧
      s.clk.lock = true ∧ beyond3ns (m.xa - m.xb) = false) ∧
    (∃ (p : Sector) (m : PortTraining) (c : Nat) (s : State), s.flag (Off.lnkPortCtrl p.val) 0 = true ∧ s.lnk.refLost = false ∧
      s.fail.moved = false ∧ (s.port p.val).state ≤ 2 ∧ m.asks ≠ some .needed ∧ m.lanesUp = true ∧ m.skewNs ≤ 20 ∧ m.xa + m.xb ≤
      20000 ∧ s.clk.lock = false ∧ m.neighbourLocked = true ∧ beyond3ns (m.xa - m.xb - 128 * wholeCycles (m.xa - m.xb)) = false ∧
      (c : Int) = 4 * s.clk.frame + s.clk.edge + wholeCycles (m.xa - m.xb)) ∧
    (∃ (p : Sector) (m : PortTraining) (s : State), s.flag (Off.lnkPortCtrl p.val) 0 = true ∧ s.lnk.refLost = false ∧ s.fail.moved
      = false ∧ (s.port p.val).state ≤ 2 ∧ m.asks ≠ some .needed ∧ (m.lanesUp = false ∨ 20 < m.skewNs)) ∧
    (∃ (p : Sector) (_m : PortTraining) (s : State), (s.flag (Off.lnkPortCtrl p.val) 0 = false ∨ s.lnk.refLost = true ∨
      s.fail.moved = true ∨ 2 < (s.port p.val).state)) ∧
    (∃ (s : State), s.flag Off.lnkNodeCfg 0 = true ∧ s.clk.lock = false ∧ s.lnk.refLost = false ∧ ((∀ p, p < 16 → (s.port
      p).neighbourLocked = false ∨ (s.port p).state < 2 ∨ 5 < (s.port p).state))) ∧
    (∃ (s : State), (s.flag Off.lnkNodeCfg 0 = false ∨ s.clk.lock = true ∨ s.lnk.refLost = true ∨ (∃ p, p < 16 ∧ (s.port
      p).neighbourLocked = true ∧ 2 ≤ (s.port p).state ∧ (s.port p).state ≤ 5))) ∧
    (∃ (p : Sector) (xa xb : Int) (s : State), (s.port p.val).up = true ∧ (s.port p.val).checked ≠ some s.lockCycle ∧ beyond3ns
      (xa - xb) = false) ∧
    (∃ (p : Sector) (xa xb : Int) (s : State), (s.port p.val).up = true ∧ (s.port p.val).checked ≠ some s.lockCycle ∧ beyond3ns
      (xa - xb) = true) ∧
    (∃ (p : Sector) (_xa _xb : Int) (s : State), ((s.port p.val).up = false ∨ (s.port p.val).checked = some s.lockCycle)) ∧
    (∃ (p : Sector) (_c : BitVec 8) (s : State), (s.port p.val).state ≠ 0 ∧ (s.port p.val).state ≠ 6) ∧
    (∃ (p : Sector) (_c : BitVec 8) (s : State), ((s.port p.val).state = 0 ∨ (s.port p.val).state = 6)) ∧
    (∃ (p : Sector) (n c fr b : Nat) (s : State), (s.port p.val).up = true ∧ (n < c * 100000 ∨ fr < b * 1000000) ∧ (s.port
      p.val).warnedAt.all (fun w => decide (w + 3600000000000000 ≤ s.clk.now)) = true) ∧
    (∃ (p : Sector) (n c fr b : Nat) (s : State), ((s.port p.val).up = false ∨ (c * 100000 ≤ n ∧ b * 1000000 ≤ fr) ∨ (∃ w, (s.port
      p.val).warnedAt = some w ∧ s.clk.now < w + 3600000000000000))) ∧
    (∃ (s : State), s.lnk.refLost = false) ∧
    (∃ (s : State), s.lnk.refLost = true) ∧
    (∃ (p : Sector) (v : Word) (s : State), s.barOpen = true ∧ v.toNat.testBit 0 = false ∧ bits v.toNat 31 2 = 0 ∧ (s.port
      p.val).up = false) ∧
    (∃ (p : Sector) (v : Word) (s : State), s.barOpen = true ∧ v.toNat.testBit 0 = false ∧ bits v.toNat 31 2 ≠ 0 ∧ (s.port
      p.val).up = false) ∧
    (∃ (p : Sector) (v : Word) (s : State), s.barOpen = true ∧ v.toNat.testBit 0 = false ∧ (s.port p.val).up = true) ∧
    (∃ (p : Sector) (v : Word) (s : State), s.barOpen = true ∧ v.toNat.testBit 0 = true ∧ bits v.toNat 31 2 = 0 ∧ s.flag
      (Off.lnkPortCtrl p.val) 0 = false) ∧
    (∃ (p : Sector) (v : Word) (s : State), s.barOpen = true ∧ v.toNat.testBit 0 = true ∧ v.toNat.testBit 1 = true ∧ s.flag
      (Off.lnkPortCtrl p.val) 0 = true ∧ ((s.port p.val).table0.free && (s.port p.val).table1.free) = true) ∧
    (∃ (p : Sector) (v : Word) (s : State), s.barOpen = true ∧ v.toNat.testBit 0 = true ∧ v.toNat.testBit 1 = true ∧ bits v.toNat
      31 2 = 0 ∧ s.flag (Off.lnkPortCtrl p.val) 0 = true ∧ ((s.port p.val).table0.free && (s.port p.val).table1.free) = false) ∧
    (∃ (f : Func) (_p : Sector) (_v : Word) (s : State), s.barOpen = true ∧ f.val ≠ 0) ∧
    (∃ (c : Fin 64) (q : Nat) (s : State), edgeEnd (0x40 + c.val) = some q ∧ (s.port (0x40 + c.val)).up = true ∧ 64 ≤ (s.port
      (0x40 + c.val)).badRun) ∧
    (∃ (c : Fin 64) (s : State), (edgeEnd (0x40 + c.val) = none ∨ (s.port (0x40 + c.val)).up = false ∨ (s.port (0x40 +
      c.val)).badRun < 64)) :=
  ⟨⟨0, ⟨true, 5, 400, 290, 9, 2, true, 0, 0, none⟩, withRegs [(Off.lnkPortCtrl 0, 1)] on, by decide +kernel⟩,
    ⟨0, ⟨true, 5, 300, 290, 9, 2, false, 0, 0, none⟩, withRegs [(Off.lnkPortCtrl 0, 1)]
      { on with clk := { on.clk with lock := false } }, by decide +kernel⟩,
    ⟨0, ⟨true, 5, 15000, 14000, 9, 2, true, 0, 0, none⟩, withRegs [(Off.lnkPortCtrl 0, 1)] on, by decide +kernel⟩,
    ⟨0, ⟨true, 5, 300, 290, 9, 2, true, 0, 0, some .needed⟩, withRegs [(Off.lnkPortCtrl 0, 1)] on, by decide +kernel⟩,
    ⟨0, ⟨true, 5, 300, 290, 9, 2, true, 0, 0, none⟩, withRegs [(Off.lnkPortCtrl 0, 1)] on, by decide +kernel⟩,
    ⟨0, ⟨true, 5, 1300, -10, 9, 2, true, 0, 0, none⟩, 3125000010, withRegs [(Off.lnkPortCtrl 0, 1)]
      { on with clk := { on.clk with lock := false } }, by decide +kernel⟩,
    ⟨0, ⟨false, 5, 300, 290, 9, 2, true, 0, 0, none⟩, withRegs [(Off.lnkPortCtrl 0, 1)] on, by decide +kernel⟩,
    ⟨0, ⟨true, 5, 300, 290, 9, 2, true, 0, 0, none⟩, on, by decide +kernel⟩,
    ⟨withRegs [(Off.lnkNodeCfg, 1)] { on with clk := { on.clk with lock := false } }, by decide +kernel⟩,
    ⟨on, by decide +kernel⟩,
    ⟨0, 300, 290, pt { state := 3 }, by decide +kernel⟩,
    ⟨0, 400, 290, pt { state := 3 }, by decide +kernel⟩,
    ⟨0, 400, 290, on, by decide +kernel⟩,
    ⟨0, 3, pt
      { state := 3, table0 := tab 2, barges := [(0, { line := [berth (some (false, [1]))] })], store := [⟨5, 2, 0, false, [1], none⟩], credit := [(0, 9)] }
      { on with ctxs := [(0, c0)] }, by decide +kernel⟩,
    ⟨0, 3, on, by decide +kernel⟩,
    ⟨0, 1000, 5000, 100, 0, pt { state := 3 }, by decide +kernel⟩,
    ⟨0, 1000, 5000, 100, 0, on, by decide +kernel⟩,
    ⟨pt
      { state := 3, table0 := tab 2, barges := [(0, { line := [berth (some (false, [1]))] })], store := [⟨5, 2, 0, false, [1], none⟩], credit := [(0, 9)] }
      { on with ctxs := [(0, c0)] }, by decide +kernel⟩,
    ⟨{ on with lnk := { on.lnk with refLost := true } }, by decide +kernel⟩,
    ⟨0, 0, on, by decide +kernel⟩,
    ⟨0, 0x100000, on, by decide +kernel⟩,
    ⟨0, 0, withRegs [(Off.lnkPortCtrl 0, 1)] (pt
      { state := 3, table0 := tab 2, barges := [(0, { line := [berth (some (false, [1]))] })], store := [⟨5, 2, 0, false, [1], none⟩], credit := [(0, 9)] }
      { on with ctxs := [(0, c0)] }), by decide +kernel⟩,
    ⟨0, 1, on, by decide +kernel⟩,
    ⟨0, 3, withRegs [(Off.lnkPortCtrl 0, 1)] (pt { state := 3 }), by decide +kernel⟩,
    ⟨0, 3, withRegs [(Off.lnkPortCtrl 0, 1)] (pt
      { state := 3, table0 := tab 2, barges := [(0, { line := [berth (some (false, [1]))] })], store := [⟨5, 2, 0, false, [1], none⟩], credit := [(0, 9)] }
      { on with ctxs := [(0, c0)] }), by decide +kernel⟩,
    ⟨1, 0, 1, on, by decide +kernel⟩,
    ⟨0, 0x46, pt { state := 3, badRun := 64, table0 := tab 2 } { on with ctxs := [(0, c0)] } 0x40, by decide +kernel⟩,
    ⟨2, on, by decide +kernel⟩⟩

/-- The clauses of LockTables have something to speak of. -/
theorem hyps_LockTables :
    (∃ (x : Ctx) (d : Cmd) (st r : Nat) (s : State), s.startableOp x.val 0x11 = some d ∧ s.Live x.val d ∧ (isHostAddr (d.addr 64)
      = false ∨ s.hostReady x.val (d.addr 64) = true) ∧ s.reachesAll 0 [d.addr 64] = true ∧ s.headerCheck x.val (d.addr 64) = some
      (st, r)) ∧
    (∃ (x : Ctx) (d : Cmd) (st r : Nat) (s : State), s.startableOp x.val 0x11 = some d ∧ s.Live x.val d ∧ (isHostAddr (d.addr 64)
      = false ∨ s.hostReady x.val (d.addr 64) = true) ∧ s.reachesAll 0 [d.addr 64] = true ∧ s.headerCheck x.val (d.addr 64) = none
      ∧ s.imageCheck (s.tableImage x.val (d.addr 64)) = some (st, r)) ∧
    (∃ (x : Ctx) (d : Cmd) (m : TableImage) (s : State), s.startableOp x.val 0x11 = some d ∧ s.Live x.val d ∧ (isHostAddr (d.addr
      64) = false ∨ s.hostReady x.val (d.addr 64) = true) ∧ s.reachesAll 0 [d.addr 64] = true ∧ s.headerCheck x.val (d.addr 64) =
      none ∧ m = s.tableImage x.val (d.addr 64) ∧ s.imageCheck m = none ∧ s.bufferBusy m.target = true) ∧
    (∃ (x : Ctx) (d : Cmd) (m : TableImage) (s : State), s.startableOp x.val 0x11 = some d ∧ s.Live x.val d ∧ (isHostAddr (d.addr
      64) = false ∨ s.hostReady x.val (d.addr 64) = true) ∧ s.reachesAll 0 [d.addr 64] = true ∧ s.headerCheck x.val (d.addr 64) =
      none ∧ m = s.tableImage x.val (d.addr 64) ∧ s.imageCheck m = none ∧ s.bufferBusy m.target = false ∧ d.arm = true ∧
      (s.armInTime d.armAt = false ∨ (s.switchPending = true ∧ s.switchAt ≠ d.armAt) ∨ (s.meetsTest m.target d.armAt = true ∧
      m.table.free = false))) ∧
    (∃ (x : Ctx) (d : Cmd) (m : TableImage) (s : State), s.startableOp x.val 0x11 = some d ∧ s.Live x.val d ∧ (isHostAddr (d.addr
      64) = false ∨ s.hostReady x.val (d.addr 64) = true) ∧ s.reachesAll 0 [d.addr 64] = true ∧ s.headerCheck x.val (d.addr 64) =
      none ∧ m = s.tableImage x.val (d.addr 64) ∧ s.imageCheck m = none ∧ s.bufferBusy m.target = false ∧ d.arm = false) ∧
    (∃ (x : Ctx) (d : Cmd) (m : TableImage) (s : State), s.startableOp x.val 0x11 = some d ∧ s.Live x.val d ∧ (isHostAddr (d.addr
      64) = false ∨ s.hostReady x.val (d.addr 64) = true) ∧ s.reachesAll 0 [d.addr 64] = true ∧ s.headerCheck x.val (d.addr 64) =
      none ∧ m = s.tableImage x.val (d.addr 64) ∧ s.imageCheck m = none ∧ s.bufferBusy m.target = false ∧ d.arm = true ∧
      ((s.switchPending = true → s.switchAt = d.armAt)) ∧ (s.meetsTest m.target d.armAt = false ∨ m.table.free = true) ∧
      s.clk.frame + 4096 ≤ 1024 * d.armAt) ∧
    (∃ (x : Ctx) (s : State), s.startableOp x.val 0x11 = none) ∧
    (∃ (v : Word) (s : State), s.barOpen = true ∧ v.toNat.testBit 31 = true ∧ bits v.toNat 27 16 = 0 ∧ s.clk.frame + 4096 ≤ 1024 *
      s.switchAt ∧ s.lnk.tests = [] ∧ s.switchPending = false) ∧
    (∃ (v : Word) (s : State), s.barOpen = true ∧ v.toNat.testBit 31 = false ∧ bits v.toNat 27 16 = 0) ∧
    (∃ (v : Word) (s : State), s.barOpen = true ∧ v.toNat.testBit 31 = true ∧ bits v.toNat 27 16 ≠ 0) ∧
    (∃ (v : Word) (s : State), s.barOpen = true ∧ v.toNat.testBit 31 = true ∧ bits v.toNat 27 16 = 0 ∧ (1024 * s.switchAt <
      s.clk.frame + 4096 ∨ s.switchPending = true)) ∧
    (∃ (f : Func) (_v : Word) (s : State), s.barOpen = true ∧ f.val ≠ 0) ∧
    (∃ (s : State), s.switchPending = true ∧ s.clk.lock = true ∧ 1024 * s.switchAt ≤ s.clk.frame) ∧
    (∃ (s : State), (s.switchPending = false ∨ s.clk.lock = false ∨ s.clk.frame < 1024 * s.switchAt)) ∧
    (∃ (p : PortCode) (u : Nat) (s : State), (s.port p.toNat).oldSince = some u ∧ (s.port p.toNat).leftovers (1 - (s.port
      p.toNat).active) = [] ∧ (s.port p.toNat).oldLate = []) ∧
    (∃ (p : PortCode) (u : Nat) (s : State), (s.port p.toNat).oldSince = some u ∧ u + 1000000000 ≤ s.clk.now) ∧
    (∃ (p : PortCode) (u : Nat) (s : State), ((s.port p.toNat).oldSince = none ∨ ((s.port p.toNat).oldSince = some u ∧ s.clk.now <
      u + 1000000000 ∧ ((s.port p.toNat).leftovers (1 - (s.port p.toNat).active) ≠ [] ∨ (s.port p.toNat).oldLate ≠ [])))) :=
  ⟨⟨0, cm 1 0x11 (0x10000 + 0), stBadDescriptor, failNone, (lockImage 1 (cm 1 0x11 (0x10000 + 0)) 5), ⟨by decide +kernel,
      ⟨by decide +kernel, by decide +kernel, by decide +kernel⟩, by decide +kernel⟩⟩,
    ⟨0, cm 1 0x11 (0x10000 + 0), stBadDescriptor, failAt 0xFFFF 0, (lockImage 0 (cm 1 0x11 (0x10000 + 0))), ⟨by decide +kernel,
      ⟨by decide +kernel, by decide +kernel, by decide +kernel⟩, by decide +kernel⟩⟩,
    ⟨0, cm 1 0x11 (0x10000 + 0), (withRegs [(Off.lnkTableSelect, 2 ^ 30 + 1)] (lockImage (1 + 2 ^ 64 * 0x5000 + 2 ^ 160 * 128) (cm
      1 0x11 (0x10000 + 0)))).tableImage 0 0x10000, withRegs [(Off.lnkTableSelect, 2 ^ 30 + 1)] (lockImage (1 + 2 ^ 64 * 0x5000 +
      2 ^ 160 * 128) (cm 1 0x11 (0x10000 + 0))), ⟨by decide +kernel, ⟨by decide +kernel, by decide +kernel, by decide +kernel⟩,
      by decide +kernel, by decide +kernel, by decide +kernel, congrArg (State.tableImage _ 0) (by decide +kernel),
      imageCheck_free _ _ (lockImage_free _ (by decide +kernel)) (by decide +kernel), by decide +kernel⟩⟩,
    ⟨0, cm 1 0x11 (0x10000 + 2 ^ 64 + 2 ^ 128 * 8), ((lockImage (1 + 2 ^ 64 * 0x5000 + 2 ^ 160 * 128) (cm 1 0x11 (0x10000 + 2 ^ 64
      + 2 ^ 128 * 8)))).tableImage 0 0x10000, (lockImage (1 + 2 ^ 64 * 0x5000 + 2 ^ 160 * 128) (cm 1 0x11 (0x10000 + 2 ^ 64 + 2 ^
      128 * 8))), ⟨by decide +kernel, ⟨by decide +kernel, by decide +kernel, by decide +kernel⟩, by decide +kernel,
      by decide +kernel, by decide +kernel, congrArg (State.tableImage _ 0) (by decide +kernel), imageCheck_free _ _
      (lockImage_free _ (by decide +kernel)) (by decide +kernel), by decide +kernel⟩⟩,
    ⟨0, cm 1 0x11 (0x10000 + 0), ((lockImage (1 + 2 ^ 64 * 0x5000 + 2 ^ 160 * 128) (cm 1 0x11 (0x10000 + 0)))).tableImage 0
      0x10000, (lockImage (1 + 2 ^ 64 * 0x5000 + 2 ^ 160 * 128) (cm 1 0x11 (0x10000 + 0))), ⟨by decide +kernel,
      ⟨by decide +kernel, by decide +kernel, by decide +kernel⟩, by decide +kernel, by decide +kernel, by decide +kernel, congrArg
      (State.tableImage _ 0) (by decide +kernel), imageCheck_free _ _ (lockImage_free _ (by decide +kernel)) (by decide +kernel),
      by decide +kernel⟩⟩,
    ⟨0, cm 1 0x11 (0x10000 + 2 ^ 64 + 2 ^ 128 * 800000), ((lockImage (1 + 2 ^ 64 * 0x5000 + 2 ^ 160 * 128) (cm 1 0x11 (0x10000 + 2
      ^ 64 + 2 ^ 128 * 800000)))).tableImage 0 0x10000, (lockImage (1 + 2 ^ 64 * 0x5000 + 2 ^ 160 * 128) (cm 1 0x11 (0x10000 + 2 ^
      64 + 2 ^ 128 * 800000))), ⟨by decide +kernel, ⟨by decide +kernel, by decide +kernel, by decide +kernel⟩, by decide +kernel,
      by decide +kernel, by decide +kernel, congrArg (State.tableImage _ 0) (by decide +kernel), imageCheck_free _ _
      (lockImage_free _ (by decide +kernel)) (by decide +kernel), by decide +kernel⟩⟩,
    ⟨0, on, by decide +kernel⟩,
    ⟨0x80000001, withRegs [(Off.lnkTableAt, 800000)] on, by decide +kernel⟩,
    ⟨5, on, by decide +kernel⟩,
    ⟨0x80010001, withRegs [(Off.lnkTableAt, 800000)] on, by decide +kernel⟩,
    ⟨0x80000001, withRegs [(Off.lnkTableAt, 8)] on, by decide +kernel⟩,
    ⟨1, 0, on, by decide +kernel⟩,
    ⟨withRegs [(Off.lnkTableAt, 700000), (Off.lnkTableSelect, 2 ^ 30 + 1)] (pt { state := 3 }), by decide +kernel⟩,
    ⟨on, by decide +kernel⟩,
    ⟨0, 7, pt { oldSince := some 7 }, by decide +kernel⟩,
    ⟨0, 7, pt { oldSince := some 7, table1 := tab 2, barges := [(4096, { line := [berth none] })] }, by decide +kernel⟩,
    ⟨0, 7, on, by decide +kernel⟩⟩

/-- The clauses of MessagesThatInspect have something to speak of. -/
theorem hyps_MessagesThatInspect :
    (∃ (src : MsgSrc) (m : Msg) (r : Acted) (c : Nat × Instr) (s : State), c ∈ [(0x01, .identify src m), (0x02, .health src m),
      (0x03, .resetModule src m), (0x10, .setBudget src m), (0x11, .setFreq src m), (0x20, .rankMove src m), (0x21, .jobAction src
      m), (0x30, .attest src m), (0x50, .fwActivateMessage src m)] ∧ s.Arrives c.1 src m ∧ s.beforeActing src m = some r ∧
      s.attestReady src m = true) ∧
    (∃ (src : MsgSrc) (m : Msg) (c : Nat × Instr) (s : State), c ∈ [(0x01, .identify src m), (0x02, .health src m), (0x03,
      .resetModule src m), (0x10, .setBudget src m), (0x11, .setFreq src m), (0x20, .rankMove src m), (0x21, .jobAction src m),
      (0x30, .attest src m), (0x50, .fwActivateMessage src m)] ∧ ((m.type.toNat ≠ c.1 ∧ m.row.isSome = true) ∨ s.towpathUp =
      false)) ∧
    (∃ (src : MsgSrc) (m : Msg) (c : Nat × Instr) (s : State), c ∈ [(0x01, .identify src m), (0x02, .health src m), (0x03,
      .resetModule src m), (0x10, .setBudget src m), (0x11, .setFreq src m), (0x20, .rankMove src m), (0x21, .jobAction src m),
      (0x30, .attest src m), (0x50, .fwActivateMessage src m)] ∧ s.Arrives c.1 src m ∧ m.reply = true ∧ s.beforeActing src m =
      none) ∧
    (∃ (src : MsgSrc) (m : Msg) (i : Instr) (s : State), i ∈ [.identify src m, .health src m, .resetModule src m, .setBudget src
      m, .setFreq src m, .rankMove src m, .jobAction src m, .fwActivateMessage src m] ∧ s.Arrives m.type.toNat src m ∧ m.row =
      none ∧ m.major.toNat = 3) ∧
    (∃ (src : MsgSrc) (m : Msg) (s : State), s.Fresh 0x01 src m ∧ s.beforeActing src m = none) ∧
    (∃ (e : BitVec 8) (m : Msg) (s : State), m.type.toNat = 0x01 ∧ m.reply = false ∧ s.recovery = true ∧ (s.box (m.boxOf (.fleet
      e))).full = false ∧ s.ownerCoreRuns m = true ∧ s.beforeActing (.fleet e) m = none) ∧
    (∃ (_src : MsgSrc) (_m : Msg) (s : State), s.recovery = true) ∧
    (∃ (src : MsgSrc) (m : Msg) (s : State), s.Fresh 0x02 src m ∧ s.beforeActing src m = none) ∧
    (∃ (src : MsgSrc) (m : Msg) (s : State), s.Fresh 0x03 src m ∧ s.beforeActing src m = none) ∧
    (∃ (e : BitVec 8) (m : Msg) (s : State), s.Fresh 0x30 (.fleet e) m ∧ s.beforeActing (.fleet e) m = none) ∧
    (∃ (x : Ctx) (m : Msg) (s : State), s.Fresh 0x30 (.host x) m ∧ s.beforeActing (.host x) m = none ∧ s.attestReady (.host x) m =
      true ∧ isHostAddr (m.get 32 6) = true ∧ s.mayAccess x.val (m.get 32 6) 768 = true) ∧
    (∃ (x : Ctx) (m : Msg) (s : State), s.Fresh 0x30 (.host x) m ∧ s.beforeActing (.host x) m = none ∧ s.attestReady (.host x) m =
      true ∧ (isHostAddr (m.get 32 6) = false ∨ s.mayAccess x.val (m.get 32 6) 768 = false)) :=
  ⟨⟨.fleet 9, { mg 3 [5, 0] with major := 9 }, { s := on, code := retCode stVersionMismatch 0 }, (0x03, .resetModule (.fleet 9)
      { mg 3 [5, 0] with major := 9 }), on, ⟨by decide +kernel, by simp only [State.Arrives]; decide +kernel, by decide +kernel⟩⟩,
    ⟨.fleet 9, mg 3 [], (0x01, .identify (.fleet 9) (mg 3 [])), on, by decide +kernel⟩,
    ⟨.fleet 9, { mg 3 [5, 0] with reply := true }, (0x03, .resetModule (.fleet 9) { mg 3 [5, 0] with reply := true }), on,
      ⟨by decide +kernel, by simp only [State.Arrives]; decide +kernel, by decide +kernel⟩⟩,
    ⟨.fleet 9, mg 0x99 [], .identify (.fleet 9) (mg 0x99 []), on, ⟨by decide +kernel,
      by simp only [State.Arrives]; decide +kernel, by decide +kernel⟩⟩,
    ⟨.fleet 9, mg 1 [], on, ⟨by simp only [State.Fresh, State.Arrives]; decide +kernel, by decide +kernel⟩⟩,
    ⟨9, mg 1 [], on.setFlag Off.fwlFwStat 60 true, by decide +kernel⟩,
    ⟨.fleet 9, mg 1 [], on.setFlag Off.fwlFwStat 60 true, by decide +kernel⟩,
    ⟨.fleet 9, mg 2 [], on, ⟨by simp only [State.Fresh, State.Arrives]; decide +kernel, by decide +kernel⟩⟩,
    ⟨.fleet 9, mg 3 [5, 0], on, ⟨by simp only [State.Fresh, State.Arrives]; decide +kernel, by decide +kernel⟩⟩,
    ⟨9, mg 0x30 (List.replicate 32 7), on, ⟨by simp only [State.Fresh, State.Arrives]; decide +kernel, by decide +kernel⟩⟩,
    ⟨0, mg 0x30 (List.replicate 32 7 ++ natLe 0x800000010000 6), withRegs [(Off.ctxHostSize 0, 0x100000)]
      { bx 0 { msg := some (mg 0x30 (List.replicate 32 7 ++ natLe 0x800000010000 6)), full := true, src := some (.host 0) } with ctxs := [(0, c0)] },
      ⟨by simp only [State.Fresh, State.Arrives]; decide +kernel, by decide +kernel⟩⟩,
    ⟨0, mg 0x30 (List.replicate 32 7 ++ natLe 64 6), withRegs [(Off.ctxHostSize 0, 0x100000)]
      { bx 0 { msg := some (mg 0x30 (List.replicate 32 7 ++ natLe 64 6)), full := true, src := some (.host 0) } with ctxs := [(0, c0)] },
      ⟨by simp only [State.Fresh, State.Arrives]; decide +kernel, by decide +kernel⟩⟩⟩

/-- The clauses of MessagesThatSteer have something to speak of. -/
theorem hyps_MessagesThatSteer :
    (∃ (src : MsgSrc) (m : Msg) (lc : Nat) (s : State), s.Fresh 0x10 src m ∧ s.beforeActing src m = none ∧ 600 ≤ m.get 0 4 ∧ m.get
      0 4 ≤ 4800 ∧ m.get 6 6 = lc ∧ s.lcNow + 64 ≤ lc) ∧
    (∃ (src : MsgSrc) (m : Msg) (s : State), s.Fresh 0x10 src m ∧ s.beforeActing src m = none ∧ (m.get 0 4 < 600 ∨ 4800 < m.get 0
      4)) ∧
    (∃ (src : MsgSrc) (m : Msg) (s : State), s.Fresh 0x10 src m ∧ s.beforeActing src m = none ∧ 600 ≤ m.get 0 4 ∧ m.get 0 4 ≤ 4800
      ∧ m.get 6 6 ≠ 0 ∧ m.get 6 6 < s.lcNow + 64) ∧
    (∃ (src : MsgSrc) (m : Msg) (lc : Nat) (s : State), s.Fresh 0x11 src m ∧ s.beforeActing src m = none ∧ 14 ≤ m.get 0 1 ∧ m.get
      0 1 ≤ 28 ∧ m.get 1 1 ≤ 1 ∧ m.get 2 6 = lc ∧ s.lcNow + 64 ≤ lc) ∧
    (∃ (src : MsgSrc) (m : Msg) (c : Nat × Nat × Instr) (s : State), c ∈ [(0x10, m.get 6 6, .setBudget src m), (0x11, m.get 2 6,
      .setFreq src m)] ∧ s.Fresh c.1 src m ∧ s.beforeActing src m = none ∧ c.2.1 = 0 ∧ ((c.1 = 0x10 → 600 ≤ m.get 0 4 ∧ m.get 0 4
      ≤ 4800)) ∧ ((c.1 = 0x11 → 14 ≤ m.get 0 1 ∧ m.get 0 1 ≤ 28 ∧ m.get 1 1 ≤ 1))) ∧
    (∃ (src : MsgSrc) (m : Msg) (k : Nat) (s : State), k = boxKey (.towpath .power) ∧ (s.box k).full = true ∧ s.receiverRuns k =
      true ∧ (s.box k).msg = some m ∧ (s.box k).src = some src ∧ (∀ x, src ≠ .host x) ∧ (s.box k).result = some (0, []) ∧ (s.box
      k).armOnAck = true ∧ m.type = 0x10 ∧ m.get 0 4 < 65536) ∧
    (∃ (src : MsgSrc) (m : Msg) (k : Nat) (s : State), k = boxKey (.towpath .power) ∧ (s.box k).full = true ∧ s.receiverRuns k =
      true ∧ (s.box k).msg = some m ∧ (s.box k).src = some src ∧ (∀ x, src ≠ .host x) ∧ (s.box k).result = some (0, []) ∧ (s.box
      k).armOnAck = true ∧ m.type = 0x11 ∧ m.get 0 1 ≤ 28 ∧ m.get 1 1 ≤ 1) ∧
    (∃ (src : MsgSrc) (m : Msg) (s : State), s.Fresh 0x11 src m ∧ s.beforeActing src m = none ∧ (m.get 0 1 < 14 ∨ 28 < m.get 0 1)) ∧
    (∃ (src : MsgSrc) (m : Msg) (x : Nat) (s : State), s.Fresh 0x20 src m ∧ s.beforeActing src m = none ∧ s.jobCtx (m.get 16 2) =
      some x ∧ s.aheadBy 128 (m.get 10 6) = true) ∧
    (∃ (src : MsgSrc) (m : Msg) (s : State), s.Fresh 0x20 src m ∧ s.beforeActing src m = none ∧ s.jobCtx (m.get 16 2) = none) ∧
    (∃ (src : MsgSrc) (m : Msg) (x : Nat) (s : State), s.Fresh 0x21 src m ∧ s.beforeActing src m = none ∧ s.jobCtx (m.get 0 2) =
      some x ∧ s.aheadBy 128 (m.get 10 6) = true ∧ m.get 2 6 = (s.ctx x).step + 1) ∧
    (∃ (src : MsgSrc) (m : Msg) (x : Nat) (s : State), s.Fresh 0x21 src m ∧ s.beforeActing src m = none ∧ s.jobCtx (m.get 0 2) =
      some x ∧ s.aheadBy 128 (m.get 10 6) = false) ∧
    (∃ (src : MsgSrc) (m : Msg) (s : State), s.Fresh 0x50 src m ∧ s.beforeActing src m = none ∧ s.fw.act = none ∧ m.get 1 1 ≠ 0 ∧
      s.emergency = false ∧ s.firstFail (m.get 0 1) ((coresOf (m.get 1 1)).map coreClass) = none ∧ (coresOf (m.get 1 1)).any
      (s.handoffDiffers (m.get 0 1)) = false) ∧
    (∃ (src : MsgSrc) (m : Msg) (s : State), s.Fresh 0x50 src m ∧ s.beforeActing src m = none ∧ s.fw.act = none ∧ m.get 1 1 ≠ 0 ∧
      s.emergency = false ∧ s.firstFail (m.get 0 1) ((coresOf (m.get 1 1)).map coreClass) ≠ none) ∧
    (∃ (src : MsgSrc) (m : Msg) (s : State), s.Fresh 0x50 src m ∧ s.beforeActing src m = none ∧ s.fw.act = none ∧ m.get 1 1 ≠ 0 ∧
      s.emergency = true) ∧
    (∃ (src : MsgSrc) (m : Msg) (a : Activation) (s : State), s.Fresh 0x50 src m ∧ s.beforeActing src m = none ∧ s.fw.act = some a
      ∧ m.get 1 1 ≠ 0) :=
  ⟨⟨.fleet 9, mg 0x10 (natLe 900 4 ++ natLe 50 2 ++ natLe 800000 6), 800000, on,
      ⟨by simp only [State.Fresh, State.Arrives]; decide +kernel, by decide +kernel⟩⟩,
    ⟨.fleet 9, mg 0x10 (natLe 599 4 ++ natLe 50 2 ++ natLe 0 6), on, ⟨by simp only [State.Fresh, State.Arrives]; decide +kernel,
      by decide +kernel⟩⟩,
    ⟨.fleet 9, mg 0x10 (natLe 900 4 ++ natLe 50 2 ++ natLe 762950 6), on,
      ⟨by simp only [State.Fresh, State.Arrives]; decide +kernel, by decide +kernel⟩⟩,
    ⟨.fleet 9, mg 0x11 ([20, 1] ++ natLe 800000 6), 800000, on, ⟨by simp only [State.Fresh, State.Arrives]; decide +kernel,
      by decide +kernel⟩⟩,
    ⟨.fleet 9, mg 0x10 (natLe 900 4 ++ natLe 50 2 ++ natLe 0 6), (0x10, 0, .setBudget (.fleet 9) (mg 0x10 (natLe 900 4 ++ natLe 50
      2 ++ natLe 0 6))), on, ⟨by decide +kernel, by simp only [State.Fresh, State.Arrives]; decide +kernel, by decide +kernel⟩⟩,
    ⟨.fleet 9, mg 0x10 (natLe 900 4 ++ natLe 50 2 ++ natLe 0 6), 785, bx 785
      { msg := some (mg 0x10 (natLe 900 4 ++ natLe 50 2 ++ natLe 0 6)), full := true, src := some (.fleet 9), result := some (0, []), armOnAck := true },
      by decide +kernel⟩,
    ⟨.fleet 9, mg 0x11 ([20, 1] ++ natLe 0 6), 785, bx 785
      { msg := some (mg 0x11 ([20, 1] ++ natLe 0 6)), full := true, src := some (.fleet 9), result := some (0, []), armOnAck := true },
      by decide +kernel⟩,
    ⟨.fleet 9, mg 0x11 ([29, 1] ++ natLe 0 6), on, ⟨by simp only [State.Fresh, State.Arrives]; decide +kernel, by decide +kernel⟩⟩,
    ⟨.fleet 9, mg 0x20 (natLe 1 2 ++ natLe 9 2 ++ natLe 6 6 ++ natLe 800000 6 ++ natLe 5 2), 0, withRegs [(Off.ctxJob 0, 2),
      (Off.ctxJobId 0, 5)] { on with ctxs := [(0, c0)] }, ⟨by simp only [State.Fresh, State.Arrives]; decide +kernel,
      by decide +kernel⟩⟩,
    ⟨.fleet 9, mg 0x20 (natLe 1 2 ++ natLe 9 2 ++ natLe 6 6 ++ natLe 800000 6 ++ natLe 5 2), on,
      ⟨by simp only [State.Fresh, State.Arrives]; decide +kernel, by decide +kernel⟩⟩,
    ⟨.fleet 9, mg 0x21 (natLe 5 2 ++ natLe 1 6 ++ [2, 0] ++ natLe 800000 6), 0, withRegs [(Off.ctxJob 0, 2), (Off.ctxJobId 0, 5)]
      { on with ctxs := [(0, c0)] }, ⟨by simp only [State.Fresh, State.Arrives]; decide +kernel, by decide +kernel⟩⟩,
    ⟨.fleet 9, mg 0x21 (natLe 5 2 ++ natLe 1 6 ++ [2, 0] ++ natLe 762950 6), 0, withRegs [(Off.ctxJob 0, 2), (Off.ctxJobId 0, 5)]
      { on with ctxs := [(0, c0)] }, ⟨by simp only [State.Fresh, State.Arrives]; decide +kernel, by decide +kernel⟩⟩,
    ⟨.fleet 9, mg 0x50 [1, 6], on, ⟨by simp only [State.Fresh, State.Arrives]; decide +kernel, by decide +kernel⟩⟩,
    ⟨.fleet 9, mg 0x50 [1, 6], fwm (on) (fun f => { f with dev1 := { bootGen := 0, images := [] } }),
      ⟨by simp only [State.Fresh, State.Arrives]; decide +kernel, by decide +kernel⟩⟩,
    ⟨.fleet 9, mg 0x50 [1, 6], on.setFlag Off.pwrLimitStat 29 true, ⟨by simp only [State.Fresh, State.Arrives]; decide +kernel,
      by decide +kernel⟩⟩,
    ⟨.fleet 9, mg 0x50 [1, 6], ⟨1, 6, none, true, 5, [], []⟩, fwm (on) (fun f =>
      { f with act := some ⟨1, 6, none, true, 5, [], []⟩, restarting := [] }),
      ⟨by simp only [State.Fresh, State.Arrives]; decide +kernel, by decide +kernel⟩⟩⟩

/-- The clauses of Mailboxes have something to speak of. -/
theorem hyps_Mailboxes :
    (∃ (f : Func) (x : Ctx) (_dmwr : Bool) (data : List Byte) (s : State), s.barOpen = true ∧ s.funcOwns f.val (some x.val) = true
      ∧ data.length = 64 ∧ (s.box x.val).full = false) ∧
    (∃ (f : Func) (x : Ctx) (data : List Byte) (s : State), s.barOpen = true ∧ s.funcOwns f.val (some x.val) = true ∧ data.length
      = 64 ∧ (s.box x.val).full = true) ∧
    (∃ (f : Func) (x : Ctx) (data : List Byte) (s : State), s.barOpen = true ∧ s.funcOwns f.val (some x.val) = true ∧ data.length
      = 64 ∧ (s.box x.val).full = true) ∧
    (∃ (f : Func) (x : Ctx) (_dmwr : Bool) (o : Nat) (data : List Byte) (s : State), s.barOpen = true ∧ s.funcOwns f.val (some
      x.val) = true ∧ o < 64 ∧ (o ≠ 0 ∨ data.length ≠ 64)) ∧
    (∃ (f : Func) (x : Ctx) (data : List Byte) (s : State), s.barOpen = true ∧ s.funcOwns f.val (some x.val) = true ∧ data.length
      = 4 ∧ (leNat data).testBit 31 = true) ∧
    (∃ (f : Func) (x : Ctx) (_dmwr : Bool) (_o : Nat) (_data : List Byte) (s : State), s.barOpen = true ∧ s.funcOwns f.val (some
      x.val) = false) ∧
    (∃ (_f : Func) (_x : Ctx) (_dmwr : Bool) (_o : Nat) (_data : List Byte) (_v : BitVec 32) (s : State), s.barOpen = false) ∧
    (∃ (f : Func) (x : Ctx) (_v : BitVec 32) (s : State), s.barOpen = true ∧ s.funcOwns f.val (some x.val) = true ∧ (s.box (64 +
      x.val)).full = true) ∧
    (∃ (f : Func) (x : Ctx) (_v : BitVec 32) (s : State), s.barOpen = true ∧ s.funcOwns f.val (some x.val) = true ∧ (s.box (64 +
      x.val)).full = false) ∧
    (∃ (b : MailboxId) (m : Msg) (src : MsgSrc) (code : BitVec 16) (reply : List Byte) (s : State), (s.box (boxKey b)).full = true
      ∧ s.receiverRuns (boxKey b) = true ∧ (s.box (boxKey b)).msg = some m ∧ (s.box (boxKey b)).src = some src ∧ (s.box (boxKey
      b)).result = some (code, reply) ∧ (∀ x, src ≠ .host x) ∧ (s.box (boxKey b)).armOnAck = false) ∧
    (∃ (b : MailboxId) (x : Ctx) (m : Msg) (code : BitVec 16) (s : State), boxKey b = x.val ∧ (s.box x.val).full = true ∧
      s.receiverRuns x.val = true ∧ (s.box x.val).msg = some m ∧ (s.box x.val).src = some (.host x) ∧ (s.box x.val).result = some
      (code, []) ∧ (s.box x.val).armOnAck = false) ∧
    (∃ (b : MailboxId) (x : Ctx) (m : Msg) (code : BitVec 16) (r : Byte) (rs : List Byte) (s : State), boxKey b = x.val ∧ (s.box
      x.val).full = true ∧ s.receiverRuns x.val = true ∧ (s.box x.val).msg = some m ∧ (s.box x.val).src = some (.host x) ∧ (s.box
      x.val).result = some (code, r :: rs) ∧ (s.box x.val).armOnAck = false) ∧
    (∃ (b : MailboxId) (m : Msg) (src : MsgSrc) (s : State), (s.box (boxKey b)).full = true ∧ s.receiverRuns (boxKey b) = true ∧
      (s.box (boxKey b)).msg = some m ∧ (s.box (boxKey b)).src = some src ∧ (s.box (boxKey b)).result = none ∧ m.reply = true ∧ (∀
      x, src ≠ .host x) ∧ s.beforeActing src m = none ∧ (s.box (boxKey b)).armOnAck = false) ∧
    (∃ (b : MailboxId) (s : State), ((s.box (boxKey b)).full = false ∨ s.receiverRuns (boxKey b) = false)) :=
  ⟨⟨0, 0, true, List.replicate 64 7, on, by decide +kernel⟩,
    ⟨0, 0, List.replicate 64 7, bx 0 { full := true }, by decide +kernel⟩,
    ⟨0, 0, List.replicate 64 7, bx 0 { full := true }, by decide +kernel⟩,
    ⟨0, 0, false, 4, List.replicate 64 7, on, by decide +kernel⟩,
    ⟨0, 0, natLe 0x80000000 4, bx 0 { ack := some 3 }, by decide +kernel⟩,
    ⟨1, 0, true, 0, List.replicate 64 7, on, by decide +kernel⟩,
    ⟨0, 0, true, 0, [], 0, State.reset, by decide +kernel⟩,
    ⟨0, 0, 0x10003, { bx 64 { full := true } with io := { on.io with msix := [(0, 0)] } }, by decide +kernel⟩,
    ⟨0, 0, 3, on, by decide +kernel⟩,
    ⟨.towpath .security, mg 1 [], .fleet 9, 0, [1], bx 784
      { msg := some (mg 1 []), full := true, src := some (.fleet 9), result := some (0, [1]) }, by decide +kernel⟩,
    ⟨.hostIn 0, 0, mg 1 [], 0, bx 0 { msg := some (mg 1 []), full := true, src := some (.host 0), result := some (0, []) },
      by decide +kernel⟩,
    ⟨.hostIn 0, 0, mg 1 [], 0, 7, [8], bx 0
      { msg := some (mg 1 []), full := true, src := some (.host 0), result := some (0, [7, 8]) }, by decide +kernel⟩,
    ⟨.towpath .security, { mg 1 [] with reply := true }, .fleet 9, bx 784
      { msg := some ({ mg 1 [] with reply := true }), full := true, src := some (.fleet 9), result := none }, by decide +kernel⟩,
    ⟨.hostIn 0, on, by decide +kernel⟩⟩

/-- The clauses of FirmwareAndFuses have something to speak of. -/
theorem hyps_FirmwareAndFuses :
    (∃ (i : Image) (s : State), s.securityUp = true ∧ 1 ≤ i.cls.toNat ∧ i.cls.toNat ≤ 5 ∧ s.fw.fuses.failCode (some i) = 0 ∧
      s.slot ≤ 1 ∧ (s.device (1 - s.slot)).images.length < 128) ∧
    (∃ (i : Image) (s : State), s.securityUp = true ∧ 1 ≤ i.cls.toNat ∧ i.cls.toNat ≤ 5 ∧ s.fw.fuses.failCode (some i) ≠ 0 ∧
      s.slot ≤ 1) ∧
    (∃ (c : Settings) (s : State), s.securityUp = true ∧ s.fw.fuses.settingsCode c = 0) ∧
    (∃ (c : Settings) (s : State), s.securityUp = true ∧ s.fw.fuses.settingsCode c ≠ 0) ∧
    (∃ (_mask : BitVec 4) (g : BitVec 256) (r : Trailer) (s : State), s.securityUp = true ∧ s.fw.fuses.trailerCode r g = 0) ∧
    (∃ (_mask : BitVec 4) (g : BitVec 256) (r : Trailer) (s : State), s.securityUp = true ∧ s.fw.fuses.trailerCode r g ≠ 0) ∧
    (∃ (_q : PldmQuery) (s : State), s.securityUp = true ∧ s.recovery = false) ∧
    (∃ (s : State), s.securityUp = true) ∧
    (∃ (_c : Component) (s : State), s.securityUp = false) ∧
    (∃ (_mode : BitVec 2) (_h : BitVec 256) (s : State), s.securityUp = true ∧ s.recovery = false ∧ s.fw.fuses.ownerMode = 0 ∧
      s.fw.fuses.ownerHash = 0) ∧
    (∃ (_mode : BitVec 2) (_h : BitVec 256) (s : State), (s.securityUp = false ∨ s.recovery = true ∨ s.fw.fuses.ownerMode ≠ 0 ∨
      s.fw.fuses.ownerHash ≠ 0)) ∧
    (∃ (x : Ctx) (d : Cmd) (s : State), s.startableOp x.val 0x20 (some 5) = some d ∧ s.Live x.val d ∧ d.f 83 80 ≠ 0 ∧ s.fw.act =
      none ∧ s.emergency = false ∧ s.firstFail (d.f 72 72) ((coresOf (d.f 83 80)).map coreClass) = none ∧ (coresOf (d.f 83
      80)).any (s.handoffDiffers (d.f 72 72)) = false) ∧
    (∃ (x : Ctx) (d : Cmd) (s : State), s.startableOp x.val 0x20 (some 5) = some d ∧ s.Live x.val d ∧ d.f 83 80 ≠ 0 ∧ s.fw.act =
      none ∧ s.emergency = true) ∧
    (∃ (x : Ctx) (d : Cmd) (s : State), s.startableOp x.val 0x20 (some 5) = some d ∧ s.Live x.val d ∧ d.f 83 80 ≠ 0 ∧ s.fw.act =
      none ∧ s.emergency = false ∧ s.firstFail (d.f 72 72) ((coresOf (d.f 83 80)).map coreClass) ≠ none) ∧
    (∃ (x : Ctx) (s : State), s.startableOp x.val 0x20 (some 5) = none) ∧
    (∃ (a : Activation) (s : State), s.fw.act = some a ∧ a.running = false ∧ s.calm = true ∧ s.firstFail a.slot ((coresOf
      a.cores).map coreClass) = none ∧ (coresOf a.cores).any (s.handoffDiffers a.slot) = false) ∧
    (∃ (a : Activation) (s : State), (s.fw.act = none ∨ (s.fw.act = some a ∧ (a.running = true ∨ s.calm = false)))) ∧
    (∃ (a : Activation) (c : Core) (s : State), s.fw.act = some a ∧ a.running = true ∧ a.todo.head? = some c ∧ (c = .power ∨ c =
      .security) ∧ c ∉ s.fw.restarting ∧ s.emergency = false ∧ s.calm = true) ∧
    (∃ (c : Core) (s : State), (s.fw.act = none ∨ s.emergency = true ∨ c = .scheduler)) ∧
    (∃ (a : Activation) (c e : Core) (r : List Core) (i : Image) (s : State), s.fw.act = some a ∧ a.running = true ∧ a.todo = c ::
      e :: r ∧ (c = .scheduler ∨ c = .hiveControl ∨ c ∈ s.fw.restarting) ∧ (s.device a.slot).image (coreClass c) = some i) ∧
    (∃ (a : Activation) (c : Core) (i : Image) (s : State), s.fw.act = some a ∧ a.running = true ∧ a.todo = [c] ∧ a.slot ≤ 1 ∧
      (s.device (1 - a.slot)).bootGen.toNat + 1 < 2 ^ 32 ∧ (c = .scheduler ∨ c = .hiveControl ∨ c ∈ s.fw.restarting) ∧ (s.device
      a.slot).image (coreClass c) = some i) ∧
    (∃ (a : Activation) (c : Core) (s : State), s.fw.act = some a ∧ a.running = true ∧ a.todo.head? = some c ∧ (c = .scheduler ∨ c
      = .hiveControl ∨ c ∈ s.fw.restarting)) ∧
    (∃ (_c : Core) (_ok : Bool) (s : State), s.fw.act = none) :=
  ⟨⟨factoryImage 2, on, by decide +kernel⟩,
    ⟨{ factoryImage 2 with svn := 70 }, on, by decide +kernel⟩,
    ⟨{ magic := 0x53544753, format := 1, pad := 0, gen := 5, count := 0, digest := sha256 [], reserved := 0, records := [], regionDigest := 0, trailer := factoryTrailer },
      on, by decide +kernel⟩,
    ⟨{ magic := 0x53544753, format := 1, pad := 0, gen := 5, count := 0, digest := 0, reserved := 0, records := [], regionDigest := 0, trailer := factoryTrailer },
      fwm (on) (fun f => { f with fuses := { f.fuses with ownerMode := 1 } }), by decide +kernel⟩,
    ⟨5, 0, factoryTrailer, on, by decide +kernel⟩,
    ⟨5, 0, { factoryTrailer with exponent := 3 }, on, by decide +kernel⟩,
    ⟨.fru true, on, by decide +kernel⟩,
    ⟨on, by decide +kernel⟩,
    ⟨.image (factoryImage 2), State.reset, by decide +kernel⟩,
    ⟨1, 77, on, by decide +kernel⟩,
    ⟨1, 77, State.reset, by decide +kernel⟩,
    ⟨0, cm 1 0x20 (5 + 2 ^ 8 + 2 ^ 16 * 6), ring [cm 1 0x20 (5 + 2 ^ 8 + 2 ^ 16 * 6)], ⟨by decide +kernel, ⟨by decide +kernel,
      by decide +kernel, by decide +kernel⟩, by decide +kernel⟩⟩,
    ⟨0, cm 1 0x20 (5 + 2 ^ 8 + 2 ^ 16 * 6), (ring [cm 1 0x20 (5 + 2 ^ 8 + 2 ^ 16 * 6)]).setFlag Off.pwrLimitStat 29 true,
      ⟨by decide +kernel, ⟨by decide +kernel, by decide +kernel, by decide +kernel⟩, by decide +kernel⟩⟩,
    ⟨0, cm 1 0x20 (5 + 2 ^ 8 + 2 ^ 16 * 6), fwm (ring [cm 1 0x20 (5 + 2 ^ 8 + 2 ^ 16 * 6)]) (fun f =>
      { f with dev1 := { bootGen := 0, images := [] } }), ⟨by decide +kernel, ⟨by decide +kernel, by decide +kernel,
      by decide +kernel⟩, by decide +kernel⟩⟩,
    ⟨0, on, by decide +kernel⟩,
    ⟨⟨1, 6, none, false, 5, [], []⟩, fwm (on) (fun f => { f with act := some ⟨1, 6, none, false, 5, [], []⟩, restarting := [] }),
      by decide +kernel⟩,
    ⟨⟨1, 6, none, false, 5, [], []⟩, on, by decide +kernel⟩,
    ⟨⟨1, 6, none, true, 5, [.power], []⟩, .power, fwm (bx 785 { full := true, src := some (.fleet 9) }) (fun f =>
      { f with act := some ⟨1, 6, none, true, 5, [.power], []⟩, restarting := [] }), by decide +kernel⟩,
    ⟨.power, on, by decide +kernel⟩,
    ⟨⟨1, 6, none, true, 5, [.scheduler, .hiveControl], []⟩, .scheduler, .hiveControl, [], factoryImage 3, fwm (on) (fun f =>
      { f with act := some ⟨1, 6, none, true, 5, [.scheduler, .hiveControl], []⟩, restarting := [] }), by decide +kernel⟩,
    ⟨⟨1, 6, none, true, 5, [.hiveControl], []⟩, .hiveControl, factoryImage 4, fwm (on) (fun f =>
      { f with act := some ⟨1, 6, none, true, 5, [.hiveControl], []⟩, restarting := [] }), by decide +kernel⟩,
    ⟨⟨1, 6, none, true, 5, [.hiveControl], []⟩, .hiveControl, fwm (on) (fun f =>
      { f with act := some ⟨1, 6, none, true, 5, [.hiveControl], []⟩, restarting := [] }), by decide +kernel⟩,
    ⟨.power, true, on, by decide +kernel⟩⟩

/-- The clauses of IdentityAndSessions have something to speak of. -/
theorem hyps_IdentityAndSessions :
    (∃ (p : SpdmPort) (s : State), s.spdmReaches p = true) ∧
    (∃ (p : SpdmPort) (_k : BitVec 8) (s : State), s.spdmReaches p = true) ∧
    (∃ (p : SpdmPort) (s : State), s.spdmReaches p = true ∧ (s.spdm p).version = true) ∧
    (∃ (p : SpdmPort) (_c _g : Bool) (s : State), s.spdmReaches p = true ∧ (s.spdm p).capabilities = true) ∧
    (∃ (p : SpdmPort) (r h _c _g : Bool) (s : State), s.spdmReaches p = true ∧ (s.spdm p).capabilities = true ∧ (r && h) = false) ∧
    (∃ (p : SpdmPort) (s : State), s.spdmReaches p = true ∧ (s.spdm p).algorithms = true) ∧
    (∃ (p : SpdmPort) (_k : BitVec 8) (s : State), s.spdmReaches p = true ∧ (s.spdm p).algorithms = true) ∧
    (∃ (p : SpdmPort) (k : BitVec 8) (_n : BitVec 256) (s : State), s.spdmReaches p = true ∧ (s.spdm p).algorithms = true ∧
      k.toNat < 2) ∧
    (∃ (p : SpdmPort) (k : BitVec 8) (_n : BitVec 256) (s : State), s.spdmReaches p = true ∧ (s.spdm p).algorithms = true ∧ 1 ≤
      k.toNat ∧ k.toNat ≤ 10) ∧
    (∃ (p : SpdmPort) (k : BitVec 8) (_n : BitVec 256) (s : State), s.spdmReaches p = true ∧ (s.spdm p).algorithms = true ∧ 10 <
      k.toNat ∧ k.toNat < 255) ∧
    (∃ (f : Func) (k : BitVec 8) (_key : Nat) (s : State), s.spdmReaches (.doe f) = true ∧ (s.spdm (.doe f)).algorithms = true ∧
      (s.spdm (.doe f)).sessions = true ∧ k.toNat < 2) ∧
    (∃ (p : SpdmPort) (_k : BitVec 8) (_key : Nat) (s : State), s.spdmReaches p = true ∧ (s.spdm p).algorithms = true ∧ (p = .mctp
      ∨ (s.spdm p).sessions = false)) ∧
    (∃ (f : Func) (_v : Bool) (s : State), s.spdmReaches (.doe f) = true ∧ (s.spdm (.doe f)).session.isSome = true) ∧
    (∃ (f : Func) (s : State), s.spdmReaches (.doe f) = true ∧ (s.spdm (.doe f)).finished = true) ∧
    (∃ (v : Bool) (c : Instr) (s : State), c ∈ [.finish .mctp v, .endSession .mctp] ∧ s.spdmReaches .mctp = true) ∧
    (∃ (p : SpdmPort) (r h c g : Bool) (k : BitVec 8) (n : BitVec 256) (key : Nat) (i : Instr) (s : State), i ∈ [.getCapabilities
      p, .negotiateAlgorithms p r h c g, .getDigests p, .getCertificate p k, .challenge p k n, .getMeasurements p k n,
      .keyExchange p k key] ∧ s.spdmReaches p = true ∧ s.spdm p = {}) ∧
    (∃ (p : SpdmPort) (o : Option (BitVec 8)) (r h c g v : Bool) (k : BitVec 8) (n : BitVec 256) (key : Nat) (i : Instr) (s :
      State), i ∈ [.getVersion ⟨p, o⟩, .getCapabilities p, .negotiateAlgorithms p r h c g, .getDigests p, .getCertificate p k,
      .challenge p k n, .getMeasurements p k n, .keyExchange p k key, .finish p v, .endSession p] ∧ s.spdmReaches p = false) ∧
    (∃ (f : Func) (i : Fin 4) (_key : BitVec 256) (_lo _hi : Nat) (s : State), s.spdmReaches (.doe f) = true ∧ (s.spdm (.doe
      f)).finished = true ∧ sget none s.io.streams (4 * f.val + i.val) = none) ∧
    (∃ (f : Func) (i : Fin 4) (e : IdeStream) (s : State), s.spdmReaches (.doe f) = true ∧ (s.spdm (.doe f)).finished = true ∧
      sget none s.io.streams (4 * f.val + i.val) = some e) ∧
    (∃ (f : Func) (_i : Fin 4) (s : State), s.spdmReaches (.doe f) = true ∧ (s.spdm (.doe f)).finished = true) ∧
    (∃ (f : Func) (_i : Fin 4) (_k : IdeKm) (s : State), s.spdmReaches (.doe f) = true ∧ (s.spdm (.doe f)).finished = false) ∧
    (∃ (f : Func) (_i : Fin 4) (_k : IdeKm) (s : State), s.spdmReaches (.doe f) = false) ∧
    (∃ (_a : BitVec 7) (s : State), s.pwr.aux = true ∧ s.fw.i3c = none) ∧
    (∃ (b _a : BitVec 7) (s : State), s.pwr.aux = true ∧ b.toNat = 0x30 + s.fw.traySlot.toNat) ∧
    (∃ (b _a : BitVec 7) (s : State), (s.pwr.aux = false ∨ b.toNat ≠ 0x30 + s.fw.traySlot.toNat)) ∧
    (∃ (_a : BitVec 7) (s : State), s.pwr.aux = true) ∧
    (∃ (_o e : Byte) (s : State), s.pwr.aux = true ∧ e ≠ 0 ∧ e ≠ 0xFF) ∧
    (∃ (_data : List Byte) (s : State), s.pwr.aux = true) ∧
    (∃ (b c : BitVec 8) (_data : List Byte) (g : MctpMessage) (s : State), s.pwr.aux = true ∧ (g = .unlisted b ∨ (g = .control c ∧
      (6 ≤ c.toNat ∨ c = 0)))) ∧
    (∃ (_c : MctpMessage) (_data : List Byte) (s : State), s.pwr.aux = false) :=
  ⟨⟨.doe 0, on, by decide +kernel⟩,
    ⟨.doe 0, 9, on, by decide +kernel⟩,
    ⟨.doe 0, conn { version := true }, by decide +kernel⟩,
    ⟨.doe 0, true, false, conn { version := true, capabilities := true }, by decide +kernel⟩,
    ⟨.doe 0, true, false, true, true, conn { version := true, capabilities := true }, by decide +kernel⟩,
    ⟨.doe 0, conn { version := true, capabilities := true, algorithms := true }, by decide +kernel⟩,
    ⟨.doe 0, 1, conn { version := true, capabilities := true, algorithms := true }, by decide +kernel⟩,
    ⟨.doe 0, 1, 7, conn { version := true, capabilities := true, algorithms := true }, by decide +kernel⟩,
    ⟨.doe 0, 10, 7, conn { version := true, capabilities := true, algorithms := true }, by decide +kernel⟩,
    ⟨.doe 0, 11, 7, conn { version := true, capabilities := true, algorithms := true }, by decide +kernel⟩,
    ⟨0, 1, 7, conn { version := true, capabilities := true, algorithms := true, sessions := true }, by decide +kernel⟩,
    ⟨.doe 0, 1, 7, conn { version := true, capabilities := true, algorithms := true }, by decide +kernel⟩,
    ⟨0, true, conn { version := true, capabilities := true, algorithms := true, session := some 5, finished := false },
      by decide +kernel⟩,
    ⟨0, conn { version := true, capabilities := true, algorithms := true, session := some 5, finished := true },
      by decide +kernel⟩,
    ⟨true, .finish .mctp true, on, by decide +kernel⟩,
    ⟨.doe 0, true, true, true, true, 0, 7, 9, .getDigests (.doe 0), on, by decide +kernel⟩,
    ⟨.doe 0, none, true, true, true, true, true, 0, 7, 9, .getDigests (.doe 0), State.reset, by decide +kernel⟩,
    ⟨0, 2, 7, 0, 100, conn { version := true, capabilities := true, algorithms := true, session := some 5, finished := true },
      by decide +kernel⟩,
    ⟨0, 2, ⟨7, 0, 100, false⟩, conn
      { version := true, capabilities := true, algorithms := true, session := some 5, finished := true } (.doe 0) [(2, some ⟨7, 0,
      100, false⟩)], by decide +kernel⟩,
    ⟨0, 2, conn { version := true, capabilities := true, algorithms := true, session := some 5, finished := true },
      by decide +kernel⟩,
    ⟨0, 2, .go, on, by decide +kernel⟩,
    ⟨0, 2, .go, State.reset, by decide +kernel⟩,
    ⟨9, on, by decide +kernel⟩,
    ⟨0x30, 9, on, by decide +kernel⟩,
    ⟨0x31, 9, on, by decide +kernel⟩,
    ⟨9, on, by decide +kernel⟩,
    ⟨0, 9, on, by decide +kernel⟩,
    ⟨[], on, by decide +kernel⟩,
    ⟨9, 0, [], .unlisted 9, on, by decide +kernel⟩,
    ⟨.control 1, [], State.reset, by decide +kernel⟩⟩

/-- The clauses of TheLog have something to speak of. -/
theorem hyps_TheLog :
    (∃ (_a : LogArgs) (s : State), s.pwr.aux = true) ∧
    (∃ (a : LogArgs) (s : State), s.pwr.aux = true ∧ a.fm = false ∧ s.flag Off.fwlLogCfg 31 = false) ∧
    (∃ (a : LogArgs) (s : State), s.pwr.aux = true ∧ a.fm = true ∧ s.mayWarn = true) ∧
    (∃ (a : LogArgs) (w : Nat) (s : State), s.pwr.aux = true ∧ a.fm = true ∧ s.log.warned[99]? = some w ∧ s.clk.now < w +
      1000000000000) ∧
    (∃ (a : LogArgs) (n : Nat) (s : State), s.pwr.aux = true ∧ s.flag Off.fwlLogCfg 31 = true ∧ 1 ≤ a.severity.toNat ∧
      a.severity.toNat ≤ 5 ∧ s.field Off.fwlLogCfg 10 8 ≤ a.severity.toNat ∧ s.log.held = [] ∧ s.log.gap = none ∧ s.hostUp 0 =
      true ∧ s.ideHolds 0 (s.field Off.fwlLogBase 63 12 * 4096) = false ∧ s.logRingFull s.log.seq = false ∧ n = s.field
      Off.fwlLogBase 63 12 * 4096 + 64 * (s.log.seq.toNat % 2 ^ s.logRingLog)) ∧
    (∃ (a : LogArgs) (s : State), s.pwr.aux = true ∧ s.flag Off.fwlLogCfg 31 = true ∧ a.severity.toNat = 5 ∧ s.hostUp 0 = false) ∧
    (∃ (_a : LogArgs) (s : State), s.pwr.aux = false) ∧
    (∃ (_v : Word) (s : State), s.barOpen = true ∧ s.log.gap = none) ∧
    (∃ (v : Word) (q : BitVec 32) (k n : Nat) (s : State), s.barOpen = true ∧ s.log.gap = some (q, k) ∧ s.log.held = [] ∧ s.flag
      Off.fwlLogCfg 31 = true ∧ s.hostUp 0 = true ∧ s.ideHolds 0 (s.field Off.fwlLogBase 63 12 * 4096) = false ∧ (s.setField
      Off.fwlLogPos 31 0 (v.toNat % 2 ^ 32)).logRingFull s.log.seq = false ∧ n = s.field Off.fwlLogBase 63 12 * 4096 + 64 *
      (s.log.seq.toNat % 2 ^ s.logRingLog)) ∧
    (∃ (f : Func) (_v : Word) (s : State), s.barOpen = true ∧ f.val ≠ 0) ∧
    (∃ (_f : Func) (_v : Word) (s : State), s.barOpen = false) ∧
    (∃ (n : Fin 4096) (_as : List Word) (s : State), s.pwr.aux = true ∧ traceExists n.val = true ∧ s.flag (Off.fwlTraceEn (n.val /
      32)) (n.val % 32) = true) ∧
    (∃ (n : Fin 4096) (_as : List Word) (s : State), (s.pwr.aux = false ∨ traceExists n.val = false ∨ s.flag (Off.fwlTraceEn
      (n.val / 32)) (n.val % 32) = false)) :=
  ⟨⟨la true, on, by decide +kernel⟩,
    ⟨la false, withRegs [(Off.fwlLogCfg, 0)] on, by decide +kernel⟩,
    ⟨la true, on, by decide +kernel⟩,
    ⟨la true, 20000000000000, { on with log := { warned := List.replicate 100 20000000000000 } }, by decide +kernel⟩,
    ⟨la false, 0x100000, on, by decide +kernel⟩,
    ⟨{ la false with severity := 5 }, withRegs [(Off.hifLinkStat, 0)] on, by decide +kernel⟩,
    ⟨la true, State.reset, by decide +kernel⟩,
    ⟨9, on, by decide +kernel⟩,
    ⟨0, 3, 7, 0x100000, { on with log := { gap := some (3, 7) } }, by decide +kernel⟩,
    ⟨1, 0, on, by decide +kernel⟩,
    ⟨0, 0, State.reset, by decide +kernel⟩,
    ⟨3, [7], withRegs [(Off.fwlTraceEn 0, 8)] on, by decide +kernel⟩,
    ⟨3, [7], on, by decide +kernel⟩⟩

/-- The clauses of RegisterWrites have something to speak of. -/
theorem hyps_RegisterWrites :
    (∃ (_f : Func) (o : BitVec 26) (_b : Nat) (_v : Word) (s : State), s.barOpen = true ∧ isMsix o.toNat = false ∧ regAt o.toNat =
      none) ∧
    (∃ (f : Func) (o : BitVec 26) (b i j : Nat) (_v : Word) (r : RegRow) (s : State), s.barOpen = true ∧ isMsix o.toNat = false ∧
      regAt o.toNat = some (r, i, j) ∧ (b ≠ r.bytes ∨ r.access = .ro ∨ (r.access = .bl ∧ s.locked = true) ∨ s.mayWrite f.val
      r.writer i j = false)) ∧
    (∃ (f : Func) (o : BitVec 26) (b i j : Nat) (_v : Word) (r : RegRow) (s : State), s.barOpen = true ∧ isMsix o.toNat = false ∧
      regAt o.toNat = some (r, i, j) ∧ b = r.bytes ∧ r.access ≠ .ro ∧ ((r.access = .bl → s.locked = false)) ∧ s.mayWrite f.val
      r.writer i j = true ∧ (r.reg ∈ [.secFuncPerm, .secCtxFunc, .secCtxMem, .secCtxHives, .secCtxLayers, .thmTjCfg, .ctxIrqCfg,
      .ctxHbCfg] ∨ (r.reg = .secCtxSlots ∧ j < 4))) ∧
    (∃ (f : Func) (o : BitVec 26) (b i j : Nat) (_v : Word) (r : RegRow) (s : State), s.barOpen = true ∧ isMsix o.toNat = false ∧
      regAt o.toNat = some (r, i, j) ∧ b = r.bytes ∧ r.access ≠ .ro ∧ ((r.access = .bl → s.locked = false)) ∧ s.mayWrite f.val
      r.writer i j = true ∧ r.reg ∈ [.numMonCtrl, .numStillCtrl, .numRotCtrl, .numOvfTrig, .numFreezeCtrl, .numLayerCfg,
      .lnkRoute]) ∧
    (∃ (_f : Func) (_o : BitVec 26) (_b : Nat) (_v : Word) (s : State), s.barOpen = false) ∧
    (∃ (_f : Func) (o : BitVec 26) (v : Word) (s : State), s.barOpen = true ∧ isErrStat o.toNat = true ∧ v.toNat.testBit 63 =
      true) ∧
    (∃ (_f : Func) (o : BitVec 26) (_v : Word) (s : State), s.barOpen = true ∧ isErrStat o.toNat = false) ∧
    (∃ (_f : Func) (v : Word) (s : State), s.barOpen = true ∧ v.toNat.testBit 0 = true ∧ bits v.toNat 31 1 = 0) ∧
    (∃ (_f : Func) (v : Word) (s : State), s.barOpen = true ∧ v.toNat.testBit 0 = true ∧ bits v.toNat 31 1 ≠ 0) ∧
    (∃ (_f : Func) (v : Word) (s : State), s.barOpen = true ∧ v.toNat.testBit 0 = false ∧ bits v.toNat 31 1 = 0) ∧
    (∃ (_f : Func) (p : Sector) (v : Word) (w : Nat) (s : State), s.barOpen = true ∧ w = v.toNat % 2 ^ 32 ∧ (extentsMeet (bits w 9
      0, bits w 26 16) (s.field (Off.canSpill p.val) 9 0, s.field (Off.canSpill p.val) 26 16) = true ∨ s.holdsSpill true p.val =
      true)) ∧
    (∃ (_f : Func) (p : Sector) (v : Word) (w : Nat) (s : State), s.barOpen = true ∧ w = v.toNat % 2 ^ 32 ∧ (extentsMeet (bits w 9
      0, bits w 26 16) (s.field (Off.lnkSpill p.val) 9 0, s.field (Off.lnkSpill p.val) 26 16) = true ∨ s.holdsSpill false p.val =
      true)) :=
  ⟨⟨0, 0x3FFFFFF, 8, 0, on, by decide +kernel⟩,
    ⟨0, BitVec.ofNat 26 (Off.hifModuleStat), 8, (rowAt (Off.hifModuleStat)).2.1, (rowAt (Off.hifModuleStat)).2.2, 7, (rowAt
      (Off.hifModuleStat)).1, on, by decide +kernel⟩,
    ⟨0, BitVec.ofNat 26 (Off.ctxHbCfg 0), 4, (rowAt (Off.ctxHbCfg 0)).2.1, (rowAt (Off.ctxHbCfg 0)).2.2, 0xFFFFFFFF, (rowAt
      (Off.ctxHbCfg 0)).1, on, by decide +kernel⟩,
    ⟨0, BitVec.ofNat 26 (Off.numLayerCfg 3), 8, (rowAt (Off.numLayerCfg 3)).2.1, (rowAt (Off.numLayerCfg 3)).2.2, 0xFFFFFFFF,
      (rowAt (Off.numLayerCfg 3)).1, on, by decide +kernel⟩,
    ⟨0, 0, 8, 0, State.reset, by decide +kernel⟩,
    ⟨1, BitVec.ofNat 26 (Off.memErrStat 3), 2 ^ 63, on, by decide +kernel⟩,
    ⟨1, 0, 0, on, by decide +kernel⟩,
    ⟨1, 1, on, by decide +kernel⟩,
    ⟨1, 3, on, by decide +kernel⟩,
    ⟨1, 0, on, by decide +kernel⟩,
    ⟨0, 3, 0x20005, 0x20005, withRegs [(Off.canSpill 3, 0x20006)] on, by decide +kernel⟩,
    ⟨0, 3, 0x20005, 0x20005, withRegs [(Off.lnkSpill 3, 0x20006)] on, by decide +kernel⟩⟩

/-- The clauses of StepTakesTheFrontCommand have something to speak of. -/
theorem hyps_StepTakesTheFrontCommand :
    (∃ (c : Instr) (r : List Instr) (s : State), s.pending = c :: r) ∧
    (∃ (s : State), s.pending = []) ∧
    (∃ (o : Nat) (v : Word) (s : State), s.pending = [] ∧ s.staged = [(o, some v)] ∧ s.log.held = []) :=
  ⟨⟨.anchorSet, [.frameTransmit 0], { on with pending := [.anchorSet, .frameTransmit 0] }, by decide +kernel⟩,
    ⟨on, by decide +kernel⟩,
    ⟨Off.numLayerCfg 3, 5, { on with staged := [(Off.numLayerCfg 3, some 5)] }, by decide +kernel⟩⟩

/-- The clauses of FusesHoldOverEveryStep have something to speak of. -/
theorem hyps_FusesHoldOverEveryStep :
    ∃ (s t : State), step s = .next t :=
  ⟨on, State.tick on, rfl⟩

end Sys2Proof.Tests
end

/-! Doorbell pages and descriptor reads (12 R245-R250), and the mailboxes of host contexts and cores (12 R247; 14 R301-R307). -/

namespace Sys2Proof.Machine

/-! ### An arriving descriptor in a replayed step -/

/-- A read that ends well: FETCH passes its descriptors, and they arrive in ring order. -/
theorem exec_descriptorArrival_ok {x : Ctx} {s : State} {i : BitVec 32} {n u : Nat} (hr : (s.ctx x.val).read = some (i, n, u)) :
    exec (.descriptorArrival x .ok) s = .next (State.arriveAll n
      ((s.modCtx x.val (fun c => { c with read := none })).modCtx x.val (fun c => { c with fetch := i + BitVec.ofNat 32 n }))
      x.val i) := by
  show execDescriptorArrival x .ok s = _
  simp only [execDescriptorArrival, hr]

/-- A context at its second attempt at a step, with no command fetched, that reads descriptor 0. -/
def replayedCtx : CtxSt :=
  { state := 1, sqBase := 0x200000, cqBase := 0x201000, sqLog := 6, cqLog := 6, tail := 1, read := some (0, 1, 0), attempt := 1 }

/-- Context 0 is such a one, and descriptor 0 is a RUN (13 Table 13-1) of version 2, which the checks of 13 R268 turn away. -/
def replayedRead : State :=
  { State.reset with mem := { host := Memory.setNat [] 0x200000 64 0x20001 }, ctxs := [(0, replayedCtx)] }

/-- The command that its descriptor spells. -/
def replayedCmd : Cmd := { idx := 0, desc := replayedRead.slotDesc (replayedRead.ctx 0) 0, since := replayedRead.clk.now }

/-- The state after the arrival. -/
def replayedAnswer : State :=
  State.arriveAll 1 ((replayedRead.modCtx 0 (fun c => { c with read := none })).modCtx 0
    (fun c => { c with fetch := 0 + BitVec.ofNat 32 1 })) 0 0

/-- Once fetched, the command is of the step under way: its entry counts that step's attempt (13 R271). -/
theorem replayedAnswer_entries : (replayedAnswer.ctx 0).entries.map Entry.replay = [1] := by decide +kernel

/-- Before the arrival no command is of the step under way: an entry made out there counts none. -/
theorem replayedRead_entries : ((replayedRead.ctx 0).entries ++
    [(replayedRead.ctx 0).entryOf replayedCmd stVersionMismatch 0]).map Entry.replay = [0] := by decide +kernel

/-- Refutes O27: the entry of a step command turned away at its arrival counts the attempt of the step that the command has joined,
where the clause takes the entry from the context before the arrival. With no command fetched and an attempt of 1 they differ. -/
theorem not_doorbellsAndDescriptorReads : ¬ Obligations.DoorbellsAndDescriptorReads := by
  unfold Obligations.DoorbellsAndDescriptorReads
  rintro ⟨-, -, -, -, -, -, -, -, -, -, rejected, -⟩
  have read : (replayedRead.ctx 0).read = some (0, 1, 0) := by decide +kernel
  obtain ⟨t, ht, answered, -⟩ := rejected 0 0 0 replayedCmd replayedRead read (by decide +kernel) (by decide +kernel) rfl
    (by decide +kernel)
  obtain rfl : replayedAnswer = t := Host.Outcome.next.inj ((exec_descriptorArrival_ok (x := 0) read).symm.trans ht)
  have attempts : [1] = [0] := calc
    _ = (replayedAnswer.ctx 0).entries.map Entry.replay := replayedAnswer_entries.symm
    _ = _ := congrArg (List.map Entry.replay) answered
    _ = [0] := replayedRead_entries
  exact absurd attempts (by decide)

/-! ### Mailboxes -/

theorem State.box_congr {s t : State} (h : t.mail = s.mail) (k : Nat) : t.box k = s.box k := by simp [State.box, h]

@[simp] theorem State.box_modBox_self (s : State) (k : Nat) (f : Mailbox → Mailbox) : (s.modBox k f).box k = f (s.box k) :=
  sget_smod_self _ _ _ _

theorem State.box_modBox_ne (s : State) {k j : Nat} (f : Mailbox → Mailbox) (h : j ≠ k) : (s.modBox k f).box j = s.box j :=
  sget_sput_ne _ _ _ h

/-- A message put in a mailbox waits there, undecided. -/
theorem State.box_putBox_self (s : State) (k : Nat) (src : MsgSrc) (m : Msg) : (s.putBox k src m).box k =
    { s.box k with msg := some m, full := true, src := some src, result := none, arrivedLc := s.lcNow, armOnAck := false } :=
  s.box_modBox_self k _

theorem Kept.modBox {as : List Area} {s t : State} (h : Kept as s t) (ha : Area.mail ∈ as) (k : Nat) (f : Mailbox → Mailbox) :
    Kept as s (t.modBox k f) := h.mail ha _

/-! ### Interrupts, completions and entries of a free code -/

/-- An interrupt leaves the mailboxes alone: it is sent, stays pending, or is lost. -/
@[simp] theorem State.irq_mail (s : State) (f v : Nat) : (s.irq f v).mail = s.mail := by
  unfold State.irq
  split
  · split <;> rfl
  · rfl

theorem Kept.irq {as : List Area} {s t : State} (h : Kept as s t) (hi : Area.io ∈ as) (ho : Area.out ∈ as) (f v : Nat) :
    Kept as s (t.irq f v) := by
  unfold State.irq
  split
  · split
    · exact h.io hi _
    · exact h.send ho _
  · exact h

@[simp] theorem State.dmwrDone_mail (s : State) (f : Nat) (dmwr : Bool) (code : Nat) : (s.dmwrDone f dmwr code).mail = s.mail := by
  cases dmwr <;> rfl

@[simp] theorem State.dmwrDone_log (s : State) (f : Nat) (dmwr : Bool) (code : Nat) : (s.dmwrDone f dmwr code).log = s.log := by
  cases dmwr <;> rfl

@[simp] theorem State.dmwrDone_out (s : State) (f : Nat) (dmwr : Bool) (code : Nat) :
    (s.dmwrDone f dmwr code).out = if dmwr then .completion f code :: s.out else s.out := by
  cases dmwr <;> rfl

theorem Kept.dmwrDone {as : List Area} {s t : State} (h : Kept as s t) (ho : Area.out ∈ as) (f : Nat) (dmwr : Bool) (code : Nat) :
    Kept as s (t.dmwrDone f dmwr code) := by
  cases dmwr
  · exact h
  · exact h.send ho _

/-- A write turned away is one entry in the log. -/
theorem State.ignored_seq (s : State) (f off v : Nat) : (s.ignored f off v).log.seq = s.log.seq + 1 := (s.logEntry_log _).1

theorem State.noteFree_seq (s : State) (sev : Nat) (fm : Bool) (source : Nat) (args : List Nat) (x : Option Nat) :
    (s.noteFree sev fm source args x).log.seq = s.log.seq + 1 := (s.drawn.logEntry_log _).1

@[simp] theorem State.noteFree_mail (s : State) (sev : Nat) (fm : Bool) (source : Nat) (args : List Nat) (x : Option Nat) :
    (s.noteFree sev fm source args x).mail = s.mail := by simp [State.noteFree]

theorem Kept.noteFree {as : List Area} {s t : State} (h : Kept as s t) (ha : logAreas ⊆ as) (sev : Nat) (fm : Bool) (source : Nat)
    (args : List Nat) (x : Option Nat) : Kept as s (t.noteFree sev fm source args x) :=
  h.drawn.note ha _ _ _ _ _ _ _ _

/-! ### Writes of a mailbox window (12 R247) -/

/-- A write of a message slot by the function that owns its window. -/
theorem exec_inSlot_slot {f : Func} {x : Ctx} {s : State} (dmwr : Bool) {o : Nat} (data : List Byte) (hb : s.barOpen = true)
    (hf : s.funcOwns f.val (some x.val) = true) (ho : o < 64) :
    exec (.inSlot f x dmwr o data) s = .next (s.slotWrite f.val x dmwr o data) := by
  show execInSlot f x dmwr o data s = _
  simp [execInSlot, hb, hf, ho]

/-- A write beyond the message slot by the function that owns its window. -/
theorem exec_inSlot_window {f : Func} {x : Ctx} {s : State} (dmwr : Bool) {o : Nat} (data : List Byte) (hb : s.barOpen = true)
    (hf : s.funcOwns f.val (some x.val) = true) (ho : ¬ o < 64) :
    exec (.inSlot f x dmwr o data) s = .next (s.windowWrite f.val x dmwr o data) := by
  show execInSlot f x dmwr o data s = _
  simp [execInSlot, hb, hf, ho]

/-- A write of another function's window. -/
theorem exec_inSlot_foreign {f : Func} {x : Ctx} {s : State} (dmwr : Bool) (o : Nat) (data : List Byte) (hb : s.barOpen = true)
    (hf : s.funcOwns f.val (some x.val) = false) :
    exec (.inSlot f x dmwr o data) s = .next
      (((s.ignored f.val (0x4000 * x.val + o) (leNat (data.take 8))).drawn).dmwrDone f.val dmwr (s.freeBelow 3)) := by
  show execInSlot f x dmwr o data s = _
  simp [execInSlot, hb, hf]

theorem exec_inSlot_closed {s : State} (f : Func) (x : Ctx) (dmwr : Bool) (o : Nat) (data : List Byte) (hb : s.barOpen = false) :
    exec (.inSlot f x dmwr o data) s = .next s := by
  show execInSlot f x dmwr o data s = _
  simp [execInSlot, hb]

/-- 64 bytes at the start of an empty slot are the message. -/
theorem State.slotWrite_empty (s : State) (f : Nat) (x : Ctx) (dmwr : Bool) {data : List Byte} (hl : data.length = 64)
    (he : (s.box x.val).full = false) :
    s.slotWrite f x dmwr 0 data = (s.putBox x.val (.host x) (msgOfBytes data)).dmwrDone f dmwr 0 := by
  simp [State.slotWrite, hl, he]

/-- A non-posted write of 64 bytes to a full slot is counted and ends with Completer Abort. -/
theorem State.slotWrite_full_dmwr (s : State) (f : Nat) (x : Ctx) {data : List Byte} (hl : data.length = 64)
    (he : (s.box x.val).full = true) :
    s.slotWrite f x true 0 data = (s.countField (Off.hifFuncStat f) 15 0 1).send (.completion f 2) := by
  simp [State.slotWrite, State.slotRefused, hl, he]

/-- A posted one sets OVERRUN and is logged. -/
theorem State.slotWrite_full_posted (s : State) (f : Nat) (x : Ctx) {data : List Byte} (hl : data.length = 64)
    (he : (s.box x.val).full = true) :
    s.slotWrite f x false 0 data =
      (s.modBox x.val (fun b => { b with overrun := true })).noteFree 2 false 0x50 [] (some x.val) := by
  simp [State.slotWrite, State.slotRefused, hl, he]

/-- A write that is not the whole slot is turned away. -/
theorem State.slotWrite_partial (s : State) (f : Nat) (x : Ctx) (dmwr : Bool) {o : Nat} {data : List Byte}
    (h : o ≠ 0 ∨ data.length ≠ 64) : s.slotWrite f x dmwr o data = s.slotRefused f x.val dmwr := if_pos h

/-- IN_ACK: the bit written 1 clears VALID. -/
theorem State.windowWrite_ack (s : State) (f : Nat) (x : Ctx) {data : List Byte} (hl : data.length = 4)
    (hv : (leNat data).testBit 31 = true) :
    s.windowWrite f x false 0x40 data = s.modBox x.val (fun b => { b with valid := false }) := by
  simp [State.windowWrite, State.dmwrDone, hl, hv]

/-! ### The host's acknowledgement of its outbound mailbox (14 R303) -/

theorem exec_outAck_full {f : Func} {x : Ctx} {s : State} (v : BitVec 32) (hb : s.barOpen = true)
    (hf : s.funcOwns f.val (some x.val) = true) (he : (s.box (64 + x.val)).full = true) :
    exec (.outAck f x v) s = .next
      ((s.modBox (64 + x.val) (fun b => { b with full := false, ack := some (v.setWidth 16) })).irq (s.funcOf x.val) 0) := by
  show execOutAck f x v s = _
  simp [execOutAck, hb, hf, he]

theorem exec_outAck_empty {f : Func} {x : Ctx} {s : State} (v : BitVec 32) (hb : s.barOpen = true)
    (hf : s.funcOwns f.val (some x.val) = true) (he : (s.box (64 + x.val)).full = false) :
    exec (.outAck f x v) s = .next s := by
  show execOutAck f x v s = _
  simp [execOutAck, hb, hf, he]

theorem exec_outAck_closed {s : State} (f : Func) (x : Ctx) (v : BitVec 32) (hb : s.barOpen = false) :
    exec (.outAck f x v) s = .next s := by
  show execOutAck f x v s = _
  simp [execOutAck, hb]

/-! ### The receiver's acknowledgement (14 R301, R303, R307) -/

/-- What every acknowledgement does: it is kept for repeats of the message, stands in the acknowledge register with FULL clear, and is
sent. -/
def State.ackWritten (s : State) (k : Nat) (src : MsgSrc) (m : Msg) (code : BitVec 16) (reply : List Byte) : State :=
  ((s.keepAck ⟨src, m, code, reply⟩).modBox k (fun b =>
    { b with full := false, result := none, ack := some code, valid := true, armOnAck := false })).send (.ack src code reply)

/-- The mailbox acknowledged. -/
theorem State.box_ackWritten_self {s : State} {k : Nat} (ha : (s.box k).armOnAck = false) (src : MsgSrc) (m : Msg) (code : BitVec 16)
    (reply : List Byte) : (s.ackWritten k src m code reply).box k =
      { s.box k with full := false, result := none, ack := some code, valid := true } := by
  refine (State.box_modBox_self (s.keepAck ⟨src, m, code, reply⟩) k _).trans ?_
  simp [show (s.keepAck ⟨src, m, code, reply⟩).box k = s.box k from rfl, ha]

/-- The acknowledgement just kept is the last of its source and receiver. -/
theorem State.lastAck_ackWritten (s : State) (k : Nat) (src : MsgSrc) (m : Msg) (code : BitVec 16) (reply : List Byte) :
    (s.ackWritten k src m code reply).lastAck src m = some ⟨src, m, code, reply⟩ :=
  List.find?_cons_of_pos (by simp [LastAck.isFor])

theorem Kept.ackWritten {as : List Area} {s t : State} (h : Kept as s t) (hm : Area.mail ∈ as) (ho : Area.out ∈ as) (k : Nat)
    (src : MsgSrc) (m : Msg) (code : BitVec 16) (reply : List Byte) : Kept as s (t.ackWritten k src m code reply) :=
  ((h.mail hm _).modBox hm _ _).send ho _

theorem State.lastAck_congr {s t : State} (h : t.mail = s.mail) (src : MsgSrc) (m : Msg) : t.lastAck src m = s.lastAck src m := by
  simp [State.lastAck, h]

section
variable {s : State} {k : Nat} {m : Msg}

/-- Nothing waits for the acknowledgement. -/
theorem State.armAcked_eq_self (ha : (s.box k).armOnAck = false) : s.armAcked k m = s := by
  simp [State.armAcked, ha]

/-- To the fleet manager or a module it is only sent. -/
theorem State.acknowledge_of_ne_host {src : MsgSrc} (ha : (s.box k).armOnAck = false) (hs : ∀ x, src ≠ .host x)
    (code : BitVec 16) (reply : List Byte) : s.acknowledge k src m code reply = s.ackWritten k src m code reply := by
  unfold State.acknowledge
  rw [State.armAcked_eq_self ha]
  cases src with
  | host x => exact absurd rfl (hs x)
  | fleet e => rfl
  | peer p => rfl

/-- To a host vector 0 fires. -/
theorem State.acknowledge_host (ha : (s.box k).armOnAck = false) (x : Ctx) (code : BitVec 16) :
    s.acknowledge k (.host x) m code [] =
      (s.ackWritten k (.host x) m code []).irq ((s.ackWritten k (.host x) m code []).funcOf x.val) 0 := by
  unfold State.acknowledge
  rw [State.armAcked_eq_self ha]
  rfl

/-- To a host a reply stands in its outbound mailbox besides. -/
theorem State.acknowledge_host_reply (ha : (s.box k).armOnAck = false) (x : Ctx) (code : BitVec 16) (r : Byte) (rs : List Byte) :
    s.acknowledge k (.host x) m code (r :: rs) =
      ((s.ackWritten k (.host x) m code (r :: rs)).irq ((s.ackWritten k (.host x) m code (r :: rs)).funcOf x.val) 0).modBox
        (64 + x.val) (fun b => { b with msg := some (m.replyOf (r :: rs)), full := true }) := by
  unfold State.acknowledge
  rw [State.armAcked_eq_self ha]
  rfl

end

section
variable {b : MailboxId} {s : State} {m : Msg} {src : MsgSrc}

/-- A mailbox that is empty, or whose receiver does not run, waits. -/
theorem exec_mailboxAck_idle (h : (s.box (boxKey b)).full = false ∨ s.receiverRuns (boxKey b) = false) :
    exec (.mailboxAck b) s = .next s := by
  show execMailboxAck b s = _
  have hc : ((s.box (boxKey b)).full && s.receiverRuns (boxKey b)) = false := by
    rcases h with h | h
    · rw [h, Bool.false_and]
    · rw [h, Bool.and_false]
  simp only [execMailboxAck, hc]

/-- The receiver has decided: its code is written, unless the reply waits for its outbound mailbox. -/
theorem exec_mailboxAck_decided {k : Nat} {code : BitVec 16} {reply : List Byte} (hk : boxKey b = k)
    (hf : (s.box k).full = true) (hr : s.receiverRuns k = true) (hm : (s.box k).msg = some m) (hs : (s.box k).src = some src)
    (hd : (s.box k).result = some (code, reply)) :
    exec (.mailboxAck b) s = .next (if s.replyFits src reply then s.acknowledge k src m code reply else s) := by
  subst hk
  show execMailboxAck b s = _
  simp [execMailboxAck, hf, hr, hm, hs, hd]

/-- The receiver decides now, and its code is written. -/
theorem exec_mailboxAck_undecided {code : BitVec 16} {reply : List Byte} (hf : (s.box (boxKey b)).full = true)
    (hr : s.receiverRuns (boxKey b) = true) (hm : (s.box (boxKey b)).msg = some m) (hs : (s.box (boxKey b)).src = some src)
    (hd : (s.box (boxKey b)).result = none) (hn : s.actNow (boxKey b) src m = s.decided (boxKey b) code reply) :
    exec (.mailboxAck b) s =
      .next (if (s.decided (boxKey b) code reply).replyFits src reply
        then (s.decided (boxKey b) code reply).acknowledge (boxKey b) src m code reply
        else s.decided (boxKey b) code reply) := by
  show execMailboxAck b s = _
  have hb : ((s.decided (boxKey b) code reply).box (boxKey b)).result = some (code, reply) := by simp [State.decided]
  simp [execMailboxAck, hf, hr, hm, hs, hd, hn, hb]

/-- A reply for a module or the fleet manager waits for no outbound mailbox. -/
theorem State.replyFits_of_ne_host (hs : ∀ x, src ≠ .host x) (s : State) (reply : List Byte) : s.replyFits src reply = true := by
  cases src with
  | host x => exact absurd rfl (hs x)
  | fleet e => rfl
  | peer p => rfl

/-- An acknowledgement of a host without a reply waits for nothing. -/
theorem State.replyFits_host_nil (s : State) (x : Ctx) : s.replyFits (.host x) [] = true := rfl

/-- A reply to a host waits for its outbound mailbox. -/
theorem State.replyFits_host (s : State) (x : Ctx) (r : Byte) (rs : List Byte) :
    s.replyFits (.host x) (r :: rs) = !(s.box (64 + x.val)).full := rfl

theorem State.attestReady_of_ne_host (hs : ∀ x, src ≠ .host x) (s : State) (m : Msg) : s.attestReady src m = true := by
  cases src with
  | host x => exact absurd rfl (hs x)
  | fleet e => rfl
  | peer p => rfl

/-- A reply is acknowledged with OK and not acted on. -/
theorem State.actNow_reply (hs : ∀ x, src ≠ .host x) (hm : m.reply = true) (hb : s.beforeActing src m = none) (k : Nat) :
    s.actNow k src m = s.decided k 0 [] := by
  simp [State.actNow, State.attestReady_of_ne_host hs, State.answerTo, hb, hm]

end

/-- Settles O52: each write and acknowledgement is one change of a mailbox, with what is sent or logged besides. -/
theorem mailboxes : Obligations.Mailboxes := by
  unfold Obligations.Mailboxes
  refine ⟨?inEmpty, ?inFullDmwr, ?inFullPosted, ?inPartial, ?inAck, ?foreign, ?closed, ?outFull, ?outEmpty, ?ackModule, ?ackHost,
    ?ackHostReply, ?ackReply, ?idle⟩
  case inEmpty =>
    intro f x dmwr data s hb hf hl he
    rw [exec_inSlot_slot dmwr data hb hf (by decide), s.slotWrite_empty _ x dmwr hl he]
    refine ⟨_, rfl, ?_⟩
    simp only [State.box_congr (State.dmwrDone_mail ..), State.dmwrDone_out, State.box_putBox_self]
    exact ⟨trivial, trivial, trivial, trivial, rfl, fun k hk => s.box_modBox_ne _ hk,
      ((Kept.refl _ s).modBox (by simp) _ _).dmwrDone (by simp) _ _ _⟩
  case inFullDmwr =>
    intro f x data s hb hf hl he
    rw [exec_inSlot_slot true data hb hf (by decide), s.slotWrite_full_dmwr _ x hl he]
    exact ⟨_, rfl, rfl, rfl, s.field_countField_self _ 15 0 1 (by decide) (by decide),
      ((Kept.refl _ s).countField (by simp) _ _ _ _).send (by simp) _,
      ((RegsKept.refl _ s).countField (by simp) _ _ _).of_regs rfl⟩
  case inFullPosted =>
    intro f x data s hb hf hl he
    rw [exec_inSlot_slot false data hb hf (by decide), s.slotWrite_full_posted _ x hl he]
    refine ⟨_, rfl, ?_, State.noteFree_seq .., ((Kept.refl _ s).modBox (by simp) _ _).noteFree (by simp) _ _ _ _ _⟩
    rw [State.box_congr (State.noteFree_mail ..), State.box_modBox_self]
  case inPartial =>
    intro f x dmwr o data s hb hf ho h
    rw [exec_inSlot_slot dmwr data hb hf ho, s.slotWrite_partial _ x dmwr h]
    refine ⟨_, rfl, ?_⟩
    cases dmwr with
    | false => exact ⟨by simp, fun _ => ⟨s.box_modBox_self _ _, rfl⟩, fun k hk => s.box_modBox_ne _ hk,
        (Kept.refl _ s).modBox (by simp) _ _, (RegsKept.refl _ s).of_regs rfl⟩
    | true => exact ⟨fun _ => ⟨rfl, rfl⟩, by simp, fun k _ => rfl,
        ((Kept.refl _ s).countField (by simp) _ _ _ _).send (by simp) _, ((RegsKept.refl _ s).countField (by simp) _ _ _).of_regs rfl⟩
  case inAck =>
    intro f x data s hb hf hl hv
    rw [exec_inSlot_window false data hb hf (by decide), s.windowWrite_ack _ x hl hv]
    exact ⟨_, rfl, s.box_modBox_self _ _, (Kept.refl _ s).modBox (by simp) _ _⟩
  case foreign =>
    intro f x dmwr o data s hb hf
    refine ⟨_, exec_inSlot_foreign dmwr o data hb hf, by simp [State.ignored], by simp [State.ignored_seq], ?_⟩
    exact ((Kept.refl _ s).note (by simp) _ _ _ _ _ _ _ _).drawn.dmwrDone (by simp [logAreas]) _ _ _
  case closed =>
    intro f x dmwr o data v s hb
    exact ⟨exec_inSlot_closed f x dmwr o data hb, exec_outAck_closed f x v hb⟩
  case outFull =>
    intro f x v s hb hf he
    refine ⟨_, exec_outAck_full v hb hf he, ?_, fun k hk => ?_, ((Kept.refl _ s).modBox (by simp) _ _).irq (by simp) (by simp) _ _⟩
    · rw [State.box_congr (State.irq_mail ..), State.box_modBox_self]
    · rw [State.box_congr (State.irq_mail ..), State.box_modBox_ne _ _ hk]
  case outEmpty => exact fun f x v s hb hf he => exec_outAck_empty v hb hf he
  case ackModule =>
    intro b m src code reply s hfull hruns hmsg hsrc hres hs harm
    rw [exec_mailboxAck_decided rfl hfull hruns hmsg hsrc hres, if_pos (s.replyFits_of_ne_host hs reply),
      State.acknowledge_of_ne_host harm hs]
    exact ⟨_, rfl, State.box_ackWritten_self harm .., s.lastAck_ackWritten .., rfl,
      (Kept.refl _ s).ackWritten (by simp) (by simp) _ _ _ _ _⟩
  case ackHost =>
    intro b x m code s hb hfull hruns hmsg hsrc hres harm
    rw [exec_mailboxAck_decided hb hfull hruns hmsg hsrc hres, if_pos (s.replyFits_host_nil x), State.acknowledge_host harm]
    refine ⟨_, rfl, ?_, ?_, ((Kept.refl _ s).ackWritten (by simp) (by simp) _ _ _ _ _).irq (by simp) (by simp) _ _⟩
    · rw [State.box_congr (State.irq_mail ..), State.box_ackWritten_self harm]
    · rw [State.lastAck_congr (State.irq_mail ..), State.lastAck_ackWritten]
  case ackHostReply =>
    intro b x m code r rs s hb hfull hruns hmsg hsrc hres harm
    have hne : x.val ≠ 64 + x.val := by omega
    rw [exec_mailboxAck_decided hb hfull hruns hmsg hsrc hres, State.replyFits_host]
    cases hout : (s.box (64 + x.val)).full with
    | true => exact ⟨s, rfl, fun _ => rfl, by simp, Kept.refl _ s⟩
    | false =>
      rw [if_pos Bool.not_false, State.acknowledge_host_reply harm]
      refine ⟨_, rfl, by simp, fun _ => ?_,
        (((Kept.refl _ s).ackWritten (by simp) (by simp) _ _ _ _ _).irq (by simp) (by simp) _ _).modBox (by simp) _ _⟩
      rw [State.box_modBox_ne _ _ hne, State.box_congr (State.irq_mail ..), State.box_ackWritten_self harm, State.box_modBox_self]
      exact ⟨rfl, rfl, rfl, rfl⟩
  case ackReply =>
    intro b m src s hfull hruns hmsg hsrc hres hreply hs hbefore harm
    have harm' : ((s.decided (boxKey b) 0 []).box (boxKey b)).armOnAck = false := by simp [State.decided, harm]
    rw [exec_mailboxAck_undecided hfull hruns hmsg hsrc hres (s.actNow_reply hs hreply hbefore _),
      if_pos (State.replyFits_of_ne_host hs ..), State.acknowledge_of_ne_host harm' hs]
    refine ⟨_, rfl, ?_, ?_, ((Kept.refl _ s).modBox (by simp) _ _).ackWritten (by simp) (by simp) _ _ _ _ _⟩
    all_goals rw [State.box_ackWritten_self harm']
  case idle => exact fun b s h => exec_mailboxAck_idle h

end Sys2Proof.Machine

/-! Writes of BAR 0 (12 R245; 17 R361; 18 R364-R371). -/

namespace Sys2Proof.Machine

/-! ### Entries of a write turned away -/

@[simp] theorem State.ignored_keeps (s : State) (f off v : Nat) : (s.ignored f off v).lnk = s.lnk ∧
    (s.ignored f off v).staged = s.staged := by simp [State.ignored]

theorem State.reg_ignored (s : State) (f off v : Nat) {o : Nat} (h : o ∉ logRegs) : (s.ignored f off v).reg o = s.reg o :=
  s.reg_note _ _ _ _ _ _ _ _ h

theorem State.flag_ignored (s : State) (f off v i : Nat) {o : Nat} (h : o ∉ logRegs) :
    (s.ignored f off v).flag o i = s.flag o i := by
  rw [State.flag, s.reg_ignored _ _ _ h, State.flag]

theorem Kept.ignored {as : List Area} {s t : State} (h : Kept as s t) (ha : logAreas ⊆ as) (f off v : Nat) :
    Kept as s (t.ignored f off v) := h.note ha _ _ _ _ _ _ _ _

theorem RegsKept.ignored {os : List Nat} {s t : State} (h : RegsKept os s t) (ho : logRegs ⊆ os) (f off v : Nat) :
    RegsKept os s (t.ignored f off v) := h.logEntry ho _

theorem Kept.stageReg {as : List Area} {s t : State} (h : Kept as s t) (ha : Area.staged ∈ as) (o v : Nat) :
    Kept as s (t.stageReg o v) := h.staged ha _

theorem RegsKept.stageReg {os : List Nat} {s t : State} (h : RegsKept os s t) (o v : Nat) : RegsKept os s (t.stageReg o v) :=
  h.of_regs rfl

theorem RegsKept.weaken {os ps : List Nat} {s t : State} (h : RegsKept os s t) (hs : os ⊆ ps) : RegsKept ps s t :=
  fun o ho => h o (fun hm => ho (hs hm))

/-! ### Looking a register up -/

/-- What the map finds is a row of it, at an offset of that row. -/
theorem mem_index_of_regFind {off : Nat} {rs : List RegRow} {r : RegRow} {i j : Nat} (h : regFind off rs = some (r, i, j)) :
    r ∈ rs ∧ r.index off = some (i, j) := by
  induction rs with
  | nil => cases h
  | cons q qs ih =>
    simp only [regFind] at h
    cases hq : q.index off with
    | none =>
      rw [hq] at h
      exact ⟨List.mem_cons_of_mem _ (ih h).1, (ih h).2⟩
    | some e =>
      rw [hq] at h
      cases h
      exact ⟨List.mem_cons_self, hq⟩

theorem mem_regRows_of_regAt {off i j : Nat} {r : RegRow} (h : regAt off = some (r, i, j)) : r ∈ regRows :=
  (mem_index_of_regFind h).1

/-- A register lies at or above the base of its row. -/
theorem base_le_of_regAt {off i j : Nat} {r : RegRow} (h : regAt off = some (r, i, j)) : r.base ≤ off := by
  have hi := (mem_index_of_regFind h).2
  cases Nat.lt_or_ge off r.base with
  | inl hlt =>
    rw [RegRow.index, if_pos hlt] at hi
    cases hi
  | inr hle => exact hle

/-- The register at an offset, with its indices. -/
def regNamed (off : Nat) : Option (Reg × Nat × Nat) := (regAt off).map (fun e => (e.1.reg, e.2))

theorem regAt_of_regNamed {off i j : Nat} {g : Reg} (h : regNamed off = some (g, i, j)) :
    ∃ r, regAt off = some (r, i, j) ∧ r.reg = g := by
  obtain ⟨⟨r, k⟩, hr, he⟩ := Option.map_eq_some_iff.mp h
  cases he
  exact ⟨r, hr, rfl⟩

theorem regNamed_of_regAt {off i j : Nat} {r : RegRow} (h : regAt off = some (r, i, j)) : regNamed off = some (r.reg, i, j) := by
  simp [regNamed, h]

theorem regNamed_memPart : ∀ (n : Stack) (i : Fin 8), regNamed (Off.memPart n.val i.val) = some (.memPart, n.val, i.val) := by
  decide +kernel

theorem regNamed_memSluice : ∀ (n : Stack) (i : Fin 8),
    regNamed (Off.memSluice n.val i.val) = some (.memSluice, n.val, i.val) := by decide +kernel

theorem regNamed_lnkSpill : ∀ p : Sector, regNamed (Off.lnkSpill p.val) = some (.lnkSpill, p.val, 0) := by decide +kernel

theorem regNamed_canSpill : ∀ p : Sector, regNamed (Off.canSpill p.val) = some (.canSpill, p.val, 0) := by decide +kernel

theorem regNamed_lnkErrStat : ∀ p : Sector, regNamed (Off.lnkErrStat p.val) = some (.lnkErrStat, p.val, 0) := by decide +kernel

/-- The log's registers are FWL.LOG_STAT and FWL.LOG_POS. -/
theorem regNamed_logRegs : ∀ o ∈ logRegs, ∃ g ∈ [Reg.fwlLogStat, Reg.fwlLogPos], regNamed o = some (g, 0, 0) := by
  decide +kernel

/-- A register that is neither is not one of the log's. -/
theorem not_mem_logRegs {off i j : Nat} {r : RegRow} (h : regAt off = some (r, i, j)) (hs : r.reg ≠ .fwlLogStat)
    (hp : r.reg ≠ .fwlLogPos) : off ∉ logRegs := by
  intro hm
  obtain ⟨g, hg, hn⟩ := regNamed_logRegs off hm
  rw [regNamed_of_regAt h] at hn
  cases hn
  simp [hs, hp] at hg

/-- From 0x11010 on no offset is of the MSI-X table or its pending bits. -/
theorem isMsix_of_le {off : Nat} (h : 0x11010 ≤ off) : isMsix off = false := by
  simp only [isMsix, Bool.or_eq_false_iff, decide_eq_false_iff_not]
  omega

/-! ### REGISTER_WRITE -/

/-- The value that a write of `b` bytes brings. -/
def writtenValue (b : Nat) (v : Word) : Nat := if b = 8 then v.toNat else v.toNat % 2 ^ 32

section
variable {s : State} {f : Func} {o : BitVec 26} {b i j : Nat} {v : Word} {r : RegRow}

theorem exec_registerWrite_open (hb : s.barOpen = true) :
    exec (.registerWrite f o b v) s = .next (s.writeRegister f.val o.toNat b (writtenValue b v)) := by
  show execRegisterWrite f o b v s = _
  simp [execRegisterWrite, hb, writtenValue]

theorem exec_registerWrite_closed (hb : s.barOpen = false) : exec (.registerWrite f o b v) s = .next s := by
  show execRegisterWrite f o b v s = _
  simp [execRegisterWrite, hb]

end

section
variable {s : State} {off i j : Nat} {r : RegRow}

/-- No register stands at the offset. -/
theorem State.writeRegister_unlisted (hm : isMsix off = false) (hr : regAt off = none) (f b v : Nat) :
    s.writeRegister f off b v = s.ignored f off v := by simp [State.writeRegister, hm, hr]

/-- The size, the access, the lock or the writer turns the write away. -/
theorem State.writeRegister_barred {f b : Nat} (hm : isMsix off = false) (hr : regAt off = some (r, i, j))
    (h : b ≠ r.bytes ∨ r.access = .ro ∨ (r.access = .bl ∧ s.locked = true) ∨ s.mayWrite f r.writer i j = false) (v : Nat) :
    s.writeRegister f off b v = s.ignored f off v := by
  have h' : b ≠ r.bytes ∨ r.access = .ro ∨ (r.access = .bl ∧ s.locked) ∨ !s.mayWrite f r.writer i j := by simpa using h
  simp only [State.writeRegister, hm, hr]
  exact if_pos h'

/-- Nothing turns the write away but the register's own rule. -/
theorem State.writeRegister_permitted {f b : Nat} (hm : isMsix off = false) (hr : regAt off = some (r, i, j)) (hb : b = r.bytes)
    (ha : r.access ≠ .ro) (hl : r.access = .bl → s.locked = false) (hw : s.mayWrite f r.writer i j = true) (v : Nat) :
    s.writeRegister f off b v = s.regEffect r i j off f v := by
  have h' : ¬ (b ≠ r.bytes ∨ r.access = .ro ∨ (r.access = .bl ∧ s.locked) ∨ !s.mayWrite f r.writer i j) := by
    simpa [hb, ha, hw] using hl
  simp only [State.writeRegister, hm, hr]
  exact if_neg h'

/-- A write that the register's own rule turns away is ignored, whether or not it is permitted. -/
theorem State.writeRegister_refused {f v : Nat} (hm : isMsix off = false) (hr : regAt off = some (r, i, j))
    (h : s.regEffect r i j off f v = s.ignored f off v) (b : Nat) : s.writeRegister f off b v = s.ignored f off v := by
  simp only [State.writeRegister, hm, hr, h]
  exact ite_self _

/-! ### What a permitted write does -/

theorem State.noteReserved_clear (hr : regAt off = some (r, i, j)) (f : Nat) {v : Nat} (hv : v &&& r.reserved = 0) :
    s.noteReserved f off v = s := by simp [State.noteReserved, hr, hv]

theorem State.noteReserved_set (hr : regAt off = some (r, i, j)) (f : Nat) {v : Nat} (hv : v &&& r.reserved ≠ 0) :
    s.noteReserved f off v = s.ignored f off v := by simp [State.noteReserved, hr, hv]

/-- A reserved bit written 1 is at most logged. -/
theorem State.noteReserved_eq_or (s : State) (f off v : Nat) :
    s.noteReserved f off v = s ∨ s.noteReserved f off v = s.ignored f off v := by
  unfold State.noteReserved
  split
  · split
    · exact .inl rfl
    · exact .inr rfl
  · exact .inl rfl

theorem State.reg_noteReserved (s : State) (f off v : Nat) {o : Nat} (h : o ∉ logRegs) :
    (s.noteReserved f off v).reg o = s.reg o := by
  rcases s.noteReserved_eq_or f off v with e | e
  · rw [e]
  · rw [e, s.reg_ignored _ _ _ h]

@[simp] theorem State.noteReserved_keeps (s : State) (f off v : Nat) : (s.noteReserved f off v).lnk = s.lnk ∧
    (s.noteReserved f off v).staged = s.staged := by
  rcases s.noteReserved_eq_or f off v with e | e <;> simp [e]

theorem Kept.noteReserved {as : List Area} {s t : State} (h : Kept as s t) (ha : logAreas ⊆ as) (f off v : Nat) :
    Kept as s (t.noteReserved f off v) := by
  rcases t.noteReserved_eq_or f off v with e | e
  · rwa [e]
  · rw [e]
    exact h.ignored ha _ _ _

theorem RegsKept.noteReserved {os : List Nat} {s t : State} (h : RegsKept os s t) (ho : logRegs ⊆ os) (f off v : Nat) :
    RegsKept os s (t.noteReserved f off v) := by
  rcases t.noteReserved_eq_or f off v with e | e
  · rwa [e]
  · rw [e]
    exact h.ignored ho _ _ _

/-- The registers of the set-up without a rule of their own, but for SEC.CTX_SLOTS. -/
def plainRegs : List Reg :=
  [.secFuncPerm, .secCtxFunc, .secCtxMem, .secCtxHives, .secCtxLayers, .thmTjCfg, .ctxIrqCfg, .ctxHbCfg]

/-- The settings of the data plane without a rule of their own (01 R19; log 36). -/
def stagedRegs : List Reg :=
  [.numMonCtrl, .numStillCtrl, .numRotCtrl, .numOvfTrig, .numFreezeCtrl, .numLayerCfg, .lnkRoute]

theorem State.regEffect_plain (h : r.reg ∈ plainRegs ∨ (r.reg = .secCtxSlots ∧ j < 4)) (f v : Nat) :
    s.regEffect r i j off f v = s.putReg f off r.rw r.w1c v := by
  rcases h with h | ⟨h, hj⟩
  · simp only [plainRegs, List.mem_cons, List.not_mem_nil, or_false] at h
    rcases h with h | h | h | h | h | h | h | h <;> simp only [State.regEffect, h] <;> rfl
  · have hj' : j ≠ 4 := by omega
    simp only [State.regEffect, h, hj']
    rfl

theorem State.regEffect_staged (h : r.reg ∈ stagedRegs) (f v : Nat) :
    s.regEffect r i j off f v = (s.stageReg off (maskedWrite r.rw 0 (s.reg off) v)).noteReserved f off v := by
  simp only [stagedRegs, List.mem_cons, List.not_mem_nil, or_false] at h
  rcases h with h | h | h | h | h | h | h <;> simp only [State.regEffect, h] <;> rfl

/-- A spill area that meets the other of its comb die, or whose old area holds spilled flits, stays (R371). -/
theorem State.regEffect_lnkSpill (h : r.reg = .lnkSpill) {v : Nat} (hs : s.spillOk true i v = false) (f : Nat) :
    s.regEffect r i j off f v = s.ignored f off v := by
  simp [State.regEffect, h, hs]

theorem State.regEffect_canSpill (h : r.reg = .canSpill) {v : Nat} (hs : s.spillOk false i v = false) (f : Nat) :
    s.regEffect r i j off f v = s.ignored f off v := by
  simp [State.regEffect, h, hs]

/-- While a commit waits the partitions and sluices stay (R368). -/
theorem State.regEffect_sluicePending (h : r.reg = .memPart ∨ r.reg = .memSluice) (hp : s.flag (Off.memSluiceCmd i) 2 = true)
    (f v : Nat) : s.regEffect r i j off f v = s.ignored f off v := by
  rcases h with h | h <;> simp [State.regEffect, h, hp]

end

/-- A write at the offset of a register whose own rule turns it away. -/
theorem exec_registerWrite_refused {s : State} {f : Func} {b i j off : Nat} {v : Word} {g : Reg} (hb : s.barOpen = true)
    (hlo : 0x11010 ≤ off) (hhi : off < 2 ^ 26) (hn : regNamed off = some (g, i, j))
    (h : ∀ r, r.reg = g → s.regEffect r i j off f.val (writtenValue b v) = s.ignored f.val off (writtenValue b v)) :
    exec (.registerWrite f (BitVec.ofNat 26 off) b v) s = .next (s.ignored f.val off (writtenValue b v)) := by
  obtain ⟨r, hr, hg⟩ := regAt_of_regNamed hn
  rw [exec_registerWrite_open hb, BitVec.toNat_ofNat, Nat.mod_eq_of_lt hhi,
    State.writeRegister_refused (isMsix_of_le hlo) hr (h r hg)]

theorem State.spillOk_eq_false {s : State} {link : Bool} {n v : Nat}
    (h : extentsMeet (bits v 9 0, bits v 26 16) (s.field (if link then Off.canSpill n else Off.lnkSpill n) 9 0,
      s.field (if link then Off.canSpill n else Off.lnkSpill n) 26 16) = true ∨ s.holdsSpill link n = true) :
    s.spillOk link n v = false := by
  rcases h with h | h <;> simp [State.spillOk, h]

/-! ### Error counts (R367) -/

/-- The registers that count errors. -/
def errRegs : List Reg := [.memErrStat, .lnkErrStat, .canErrStat]

/-- Their rows: 8 bytes, written by every function, above the MSI-X table; CLEAR is none of their reserved bits, which LNK.ERR_STAT and
MEM.ERR_STAT do not have. -/
theorem errRegs_rows : ∀ r ∈ regRows, r.reg ∈ errRegs → r.bytes = 8 ∧ r.access = .rw ∧ r.writer = .any ∧ 0x11010 ≤ r.base ∧
    2 ^ 63 &&& r.reserved = 0 ∧ (r.reg = .canErrStat ∨ r.reserved = 0) := by decide +kernel

theorem isErrStat_iff {off : Nat} : isErrStat off = true ↔ ∃ r i j, regAt off = some (r, i, j) ∧ r.reg ∈ errRegs := by
  unfold isErrStat
  cases h : regAt off with
  | none => simp
  | some e =>
    obtain ⟨r, i, j⟩ := e
    simp [errRegs, or_assoc]

theorem State.mayWrite_any (s : State) (f i j : Nat) : s.mayWrite f .any i j = true := by simp [State.mayWrite]

/-- The port whose count of each lane is zeroed with an error-count register. -/
def clearedPort (g : Reg) (i : Nat) : Option Nat := if g = .lnkErrStat then some i else none

/-- The counts of an error-count register are zeroed; reserved bits written 1 are logged. -/
theorem State.regEffect_errCount {s : State} {off i j : Nat} {r : RegRow} (hr : regAt off = some (r, i, j)) (he : r.reg ∈ errRegs)
    (f v : Nat) : s.regEffect r i j off f v = (s.clearCounts off v (clearedPort r.reg i)).noteReserved f off v := by
  obtain ⟨-, -, -, -, -, hres⟩ := errRegs_rows r (mem_regRows_of_regAt hr) he
  have hclear : r.reserved = 0 → ∀ t : State, t.noteReserved f off v = t := fun h t =>
    State.noteReserved_clear hr f (by rw [h, Nat.and_zero])
  simp only [errRegs, List.mem_cons, List.not_mem_nil, or_false] at he
  rcases he with h | h | h
  · rw [hclear (by simpa [h] using hres)]
    simp [State.regEffect, h, clearedPort]
  · rw [hclear (by simpa [h] using hres)]
    simp [State.regEffect, h, clearedPort]
  · simp [State.regEffect, h, clearedPort]

/-- CLEAR at an error-count register acts as its row says. -/
theorem exec_errorCountClear_counts {s : State} {f : Func} {o : BitVec 26} {v : Word} {r : RegRow} {i j : Nat}
    (hb : s.barOpen = true) (hr : regAt o.toNat = some (r, i, j)) (he : r.reg ∈ errRegs) :
    exec (.errorCountClear f o v) s =
      .next ((s.clearCounts o.toNat v.toNat (clearedPort r.reg i)).noteReserved f.val o.toNat v.toNat) := by
  obtain ⟨hbytes, hacc, hwr, hbase, -, -⟩ := errRegs_rows r (mem_regRows_of_regAt hr) he
  have hm := isMsix_of_le (Nat.le_trans hbase (base_le_of_regAt hr))
  show execErrorCountClear f o v s = _
  rw [execErrorCountClear, hb, isErrStat_iff.mpr ⟨r, i, j, hr, he⟩, Bool.and_self, if_pos rfl,
    State.writeRegister_permitted hm hr hbytes.symm (by simp [hacc]) (by simp [hacc]) (by rw [hwr, s.mayWrite_any]),
    State.regEffect_errCount hr he]

theorem exec_errorCountClear_idle {s : State} {f : Func} {o : BitVec 26} {v : Word}
    (h : s.barOpen = false ∨ isErrStat o.toNat = false) : exec (.errorCountClear f o v) s = .next s := by
  show execErrorCountClear f o v s = _
  have hc : (s.barOpen && isErrStat o.toNat) = false := by rcases h with h | h <;> simp [h]
  simp [execErrorCountClear, hc]

section
variable {s : State} {off v : Nat}

/-- CLEAR written 1 zeroes the register, and the lanes' counts of its port. -/
theorem State.clearCounts_none (hv : v.testBit 63 = true) : s.clearCounts off v none = s.setReg off 0 := by
  simp [State.clearCounts, hv]

theorem State.clearCounts_some (hv : v.testBit 63 = true) (p : Nat) :
    s.clearCounts off v (some p) = (s.setReg off 0).modPort p (fun t => { t with corr := [] }) := by
  simp [State.clearCounts, hv]

theorem State.reg_clearCounts (hv : v.testBit 63 = true) (port : Option Nat) : (s.clearCounts off v port).reg off = 0 := by
  cases port with
  | none => rw [State.clearCounts_none hv]; exact s.reg_setReg_self off 0
  | some p => rw [State.clearCounts_some hv]; exact s.reg_setReg_self off 0

theorem State.corr_clearCounts (hv : v.testBit 63 = true) (p : Nat) : ((s.clearCounts off v (some p)).port p).corr = [] := by
  rw [State.clearCounts_some hv]
  simp [State.modPort, State.port]

theorem Kept.clearCounts (hv : v.testBit 63 = true) (port : Option Nat) : Kept [.regs, .lnk] s (s.clearCounts off v port) := by
  have h := (Kept.refl [.regs, .lnk] s).setReg (by simp) off 0
  cases port with
  | none => rwa [State.clearCounts_none hv]
  | some p => rw [State.clearCounts_some hv]; exact h.lnk (by simp) _

theorem RegsKept.clearCounts (hv : v.testBit 63 = true) (port : Option Nat) : RegsKept [off] s (s.clearCounts off v port) := by
  have h := (RegsKept.refl [off] s).setReg (List.mem_singleton_self off) 0
  cases port with
  | none => rwa [State.clearCounts_none hv]
  | some p => rw [State.clearCounts_some hv]; exact h.of_regs rfl

end

/-! ### PROT_LOCK (17 R361) -/

/-- The row of SEC.PROT_LOCK. -/
def lockRow : RegRow := ⟨.secProtLock, 0x2c00000, 0x0, 1, 0x0, 1, 4, .wor, .any, 0x0, 0x0, 0x0, 0x1⟩

theorem regAt_secProtLock : regAt Off.secProtLock = some (lockRow, 0, 0) := by decide +kernel

/-- All of its bits but LOCK are reserved. -/
theorem and_lockRow_reserved (v : Nat) : v % 2 ^ 32 &&& lockRow.reserved = 2 ^ 1 * bits v 31 1 := by
  rw [show lockRow.reserved = 2 ^ 1 * (2 ^ 31 - 1) by decide]
  apply Nat.eq_of_testBit_eq
  intro i
  rw [Nat.testBit_and, Nat.testBit_mod_two_pow, Nat.testBit_two_pow_mul, Nat.testBit_two_pow_mul, Nat.testBit_two_pow_sub_one,
    testBit_bits]
  cases i with
  | zero => simp
  | succ i => simp [Nat.add_comm 1 i, Bool.and_comm, show i + 1 < 32 ↔ i < 31 by omega]

theorem exec_protLock_open {s : State} (f : Func) (v : Word) (hb : s.barOpen = true) : exec (.protLock f v) s =
    .next ((if v.toNat.testBit 0 then s.lockNow else s).noteReserved f.val Off.secProtLock (v.toNat % 2 ^ 32)) := by
  show execProtLock f v s = _
  rw [execProtLock, if_pos hb, State.writeRegister_permitted (b := 4) (by decide) regAt_secProtLock rfl (by decide)
    (fun h => absurd h (by decide)) (s.mayWrite_any ..)]
  simp [State.regEffect, lockRow]

theorem exec_protLock_closed {s : State} (f : Func) (v : Word) (hb : s.barOpen = false) : exec (.protLock f v) s = .next s := by
  show execProtLock f v s = _
  simp [execProtLock, hb]

/-- LOCK shows in SEC.PROT_LOCK and in HIF.MODULE_STAT, and nothing else changes. -/
theorem State.lockNow_spec (s : State) : s.lockNow.locked = true ∧ s.lockNow.flag Off.hifModuleStat 15 = true ∧
    Kept [.regs] s s.lockNow ∧ RegsKept [Off.secProtLock, Off.hifModuleStat] s s.lockNow := by
  refine ⟨?_, State.flag_setFlag_self _ _ _ _ (by decide), ((Kept.refl _ s).setFlag (by simp) _ _ _).setFlag (by simp) _ _ _,
    ((RegsKept.refl _ s).setFlag (by simp) _ _).setFlag (by simp) _ _⟩
  rw [State.locked, State.lockNow, State.flag_setFlag_ne _ _ _ _ (by decide), State.flag_setFlag_self _ _ _ _ (by decide)]

/-! ### The obligation -/

/-- Settles O56: a write is turned away by its offset, size, access, lock or writer, by the register's own rule, or it has the effect
of the register's row, with an entry where reserved bits are set. -/
theorem registerWrites : Obligations.RegisterWrites := by
  unfold Obligations.RegisterWrites
  refine ⟨?unlisted, ?barred, ?plain, ?staged, ?closed, ?clear, ?noCount, ?lock, ?lockReserved, ?noLock, ?linkSpill, ?canalSpill⟩
  case unlisted =>
    intro f o b v s hb hm hr
    rw [exec_registerWrite_open hb, s.writeRegister_unlisted hm hr]
    rfl
  case barred =>
    intro f o b i j v r s hb hm hr h
    rw [exec_registerWrite_open hb, s.writeRegister_barred hm hr h]
    rfl
  case plain =>
    intro f o b i j v r s hb hm hr hbytes hacc hlock hw hreg
    have hlog : o.toNat ∉ logRegs := not_mem_logRegs hr (fun h => by simp [h] at hreg) (fun h => by simp [h] at hreg)
    rw [exec_registerWrite_open hb, s.writeRegister_permitted hm hr hbytes hacc hlock hw, State.regEffect_plain hreg]
    have hk := (Kept.refl [.regs] s).setReg (by simp) o.toNat (maskedWrite r.rw r.w1c (s.reg o.toNat) (writtenValue b v))
    have hrk := (RegsKept.refl [o.toNat] s).setReg (List.mem_singleton_self _)
      (maskedWrite r.rw r.w1c (s.reg o.toNat) (writtenValue b v))
    refine ⟨_, rfl, ?_, fun (hv : writtenValue b v &&& r.reserved = 0) => ?_,
      fun (hv : writtenValue b v &&& r.reserved ≠ 0) => ?_⟩
    · rw [State.putReg, State.reg_noteReserved _ _ _ _ hlog, State.reg_setReg_self]
      rfl
    · rw [State.putReg, State.noteReserved_clear hr _ hv]
      exact ⟨hk, hrk⟩
    · rw [State.putReg, State.noteReserved_set hr _ hv]
      exact ⟨State.ignored_seq .., (hk.weaken (by simp [logAreas])).ignored (by simp) _ _ _,
        (hrk.weaken (by simp)).ignored (by simp) _ _ _⟩
  case staged =>
    intro f o b i j v r s hb hm hr hbytes hacc hlock hw hreg
    rw [exec_registerWrite_open hb, s.writeRegister_permitted hm hr hbytes hacc hlock hw, State.regEffect_staged hreg]
    have hk := (Kept.refl [.staged] s).stageReg (by simp) o.toNat (maskedWrite r.rw 0 (s.reg o.toNat) (writtenValue b v))
    refine ⟨_, rfl, ?_, fun (hv : writtenValue b v &&& r.reserved = 0) => ?_,
      fun (hv : writtenValue b v &&& r.reserved ≠ 0) => ?_⟩
    · simp only [State.noteReserved_keeps]
      rfl
    · rw [State.noteReserved_clear hr _ hv]
      exact hk
    · rw [State.noteReserved_set hr _ hv]
      exact ⟨State.ignored_seq .., (hk.weaken (by simp)).ignored (by simp) _ _ _,
        ((RegsKept.refl _ s).stageReg _ _).ignored (List.Subset.refl _) _ _ _⟩
  case closed =>
    intro f o b v s hb
    exact ⟨exec_registerWrite_closed hb, exec_errorCountClear_idle (.inl hb), exec_protLock_closed f v hb⟩
  case clear =>
    intro f o v s hb he hv
    obtain ⟨r, i, j, hr, hreg⟩ := isErrStat_iff.mp he
    obtain ⟨-, -, -, -, hfree, -⟩ := errRegs_rows r (mem_regRows_of_regAt hr) hreg
    have hlog : o.toNat ∉ logRegs := not_mem_logRegs hr (fun h => by simp [h, errRegs] at hreg)
      (fun h => by simp [h, errRegs] at hreg)
    have hk := Kept.clearCounts (s := s) (off := o.toNat) hv (clearedPort r.reg i)
    have hrk := RegsKept.clearCounts (s := s) (off := o.toNat) hv (clearedPort r.reg i)
    rw [exec_errorCountClear_counts hb hr hreg]
    refine ⟨_, rfl, ?_, fun p hp ho => ?_, (hk.weaken (by simp [logAreas])).noteReserved (by simp) _ _ _,
      (hrk.weaken (by simp)).noteReserved (by simp) _ _ _, fun hv' => ?_⟩
    · rw [State.reg_noteReserved _ _ _ _ hlog, State.reg_clearCounts hv]
    · have hn := (regNamed_of_regAt hr).symm.trans ((congrArg regNamed ho).trans (regNamed_lnkErrStat ⟨p, hp⟩))
      simp only [Option.some.injEq, Prod.mk.injEq] at hn
      obtain ⟨hg, rfl, -⟩ := hn
      simp only [State.port, State.noteReserved_keeps]
      rw [hg]
      exact State.corr_clearCounts hv i
    · rw [State.noteReserved_clear hr _ (by rw [hv', hfree])]
      exact ⟨hk, hrk⟩
  case noCount => exact fun f o v s _ he => exec_errorCountClear_idle (.inr he)
  case lock =>
    intro f v s hb hset hclear
    obtain ⟨hlocked, hshown, hk, hrk⟩ := s.lockNow_spec
    refine ⟨s.lockNow, ?_, hlocked, hshown, hk, hrk⟩
    rw [exec_protLock_open f v hb, if_pos hset, State.noteReserved_clear regAt_secProtLock]
    rw [and_lockRow_reserved, hclear, Nat.mul_zero]
  case lockReserved =>
    intro f v s hb hset hres
    obtain ⟨hlocked, hshown, hk, hrk⟩ := s.lockNow_spec
    rw [exec_protLock_open f v hb, if_pos hset, State.noteReserved_set regAt_secProtLock _ (by rw [and_lockRow_reserved]; omega)]
    refine ⟨_, rfl, (State.flag_ignored _ _ _ _ _ (by decide)).trans hlocked,
      (State.flag_ignored _ _ _ _ _ (by decide)).trans hshown,
      State.ignored_seq .., (hk.weaken (by simp [logAreas])).ignored (by simp) _ _ _,
      (hrk.weaken (by simp)).ignored (by simp) _ _ _⟩
  case noLock =>
    intro f v s hb hset hclear
    rw [exec_protLock_open f v hb, hset, State.noteReserved_clear regAt_secProtLock]
    · rfl
    · rw [and_lockRow_reserved, hclear, Nat.mul_zero]
  case linkSpill =>
    rintro f p v w s hb rfl h
    exact exec_registerWrite_refused hb (by unfold Off.lnkSpill; omega) (by unfold Off.lnkSpill; omega) (regNamed_lnkSpill p)
      fun r hr => State.regEffect_lnkSpill hr (State.spillOk_eq_false h) _
  case canalSpill =>
    rintro f p v w s hb rfl h
    exact exec_registerWrite_refused hb (by unfold Off.canSpill; omega) (by unfold Off.canSpill; omega) (regNamed_canSpill p)
      fun r hr => State.regEffect_canSpill hr (State.spillOk_eq_false h) _

end Sys2Proof.Machine

/-! Scrub, refresh and sluices of the stacks (07 R119-R123, R132, R138; 18 R368). -/

namespace Sys2Proof.Machine

/-! ### A clean access -/

/-- A stack that reports nothing of its inner code. -/
theorem State.innerReport_zero {c : BitVec 8} (h : c = 0) (s : State) (n a : Nat) : s.innerReport n a c.toNat = s := by
  subst h
  rfl

/-- A read of a readable unit without symbol errors finds nothing. -/
theorem State.readUnit_clean {s : State} {a : Nat} {errs : List SymbolError} (he : errLanes errs = [])
    (hb : sget false s.mem.bad a = false) (n : Nat) : s.readUnit n a errs = s := by
  simp [State.readUnit, he, hb]

theorem State.readCorrects_clean {errs : List SymbolError} (he : errLanes errs = []) (s : State) (n a : Nat) :
    s.readCorrects n a errs = false := by simp [State.readCorrects, he]

/-! ### The patrol (R138) -/

/-- An access takes at least its own time. -/
theorem StackSt.le_touch (k : StackSt) (a m : Nat) (w : Bool) : m ≤ (k.touch a m w).1 := by
  simp only [StackSt.touch]
  omega

/-- A stack whose patrol has read an access, at the cost of no partition. -/
def StackSt.patrol (k : StackSt) (a : Nat) : StackSt :=
  { (k.touch a 1 false).2 with patrolled := k.patrolled + 1, taken := k.taken + (k.touch a 1 false).1 }

theorem StackSt.patrol_spec (k : StackSt) (a : Nat) : (k.patrol a).patrolled = k.patrolled + 1 ∧ (k.patrol a).charged = k.charged ∧
    k.taken < (k.patrol a).taken :=
  ⟨rfl, rfl, Nat.lt_add_of_pos_right (k.le_touch a 1 false)⟩

theorem exec_patrolScrub_clean {s : State} {n : Stack} {u : BitVec 30} {m : StackMeets} (hu : s.unitOk n.val u.toNat = true)
    (hi : m.inner = 0) (hp : m.parity.toNat < 2) (he : errLanes m.errs = [])
    (hb : sget false s.mem.bad (n.val * 0x800000000 + 32 * u.toNat) = false) :
    exec (.patrolScrub n u m) s = .next (s.modStk n.val (fun k => k.patrol (n.val * 0x800000000 + 32 * u.toNat))) := by
  show execPatrolScrub n u m s = _
  have hp' : ¬ 2 ≤ m.parity.toNat := by omega
  simp only [execPatrolScrub, hu, hp', Bool.not_true, Bool.false_eq_true, if_false, State.innerReport_zero hi]
  exact congrArg Host.Outcome.next (State.readUnit_clean (s := s.modStk ..) he hb _)

theorem exec_patrolScrub_unusable {s : State} {n : Stack} {u : BitVec 30} (hu : s.unitOk n.val u.toNat = false) (m : StackMeets) :
    exec (.patrolScrub n u m) s = .next s := by
  show execPatrolScrub n u m s = _
  simp [execPatrolScrub, hu]

/-! ### A command completes well (12 R251) -/

/-- Releasing slots drops leading commands. -/
theorem releaseCmds_suffix (cs : List Cmd) (r : BitVec 32) : (releaseCmds cs r).1 <:+ cs := by
  induction cs generalizing r with
  | nil => exact List.suffix_refl _
  | cons c cs ih =>
    rw [releaseCmds]
    split
    · exact (ih _).trans (List.suffix_cons c cs)
    · exact List.suffix_refl _

/-- No SUSPEND that did not wait before waits after a release. -/
theorem CtxSt.suspends_release {c : CtxSt} {idx : Nat} (h : c.suspends idx = []) : c.release.suspends idx = [] := by
  have hs : (c.release.suspends idx).Sublist (c.suspends idx) := (releaseCmds_suffix c.cmds c.released).sublist.filter _
  exact List.eq_nil_of_sublist_nil (h ▸ hs)

/-- A command that ends takes the SUSPENDs with its index out of those that wait. -/
theorem CtxSt.suspends_ended {c : CtxSt} {idx i : Nat} (h : c.suspends idx = []) (g : Cmd → Cmd) (hg : ∀ d, (g d).phase = .done)
    (es : List Entry) :
    ({ c with entries := es, cmds := c.cmds.map (fun d => if d.idx = i then g d else d) } : CtxSt).suspends idx = [] := by
  simp only [CtxSt.suspends, List.filter_eq_nil_iff, List.forall_mem_map] at h ⊢
  intro d hd
  split
  · simp [Cmd.live, hg d]
  · exact h d hd

/-- A command that completes. -/
def Cmd.ended (d : Cmd) : Cmd := { d with phase := .done, final := d.final || !d.isStep, failed := false }

/-- The context once a command of it has completed well. -/
def CtxSt.answered (c : CtxSt) (d : Cmd) (status result : Nat) : CtxSt :=
  CtxSt.release { c with
    entries := c.entries ++ [c.entryOf d status result], cmds := c.cmds.map (fun e => if e.idx = d.idx then e.ended else e) }

theorem CtxsKept.refl (x : Nat) (s : State) : CtxsKept x s s := fun _ _ => rfl

theorem CtxsKept.modCtx {x : Nat} {s t : State} (h : CtxsKept x s t) (f : CtxSt → CtxSt) : CtxsKept x s (t.modCtx x f) :=
  fun y hy => (t.ctx_modCtx_ne f hy).trans (h y hy)

theorem CtxsKept.of_ctxs {x : Nat} {s t u : State} (h : CtxsKept x s t) (hu : u.ctxs = t.ctxs) : CtxsKept x s u :=
  fun y hy => (State.ctx_congr hu y).trans (h y hy)

/-- A live command that ends with OK leaves its entry, and changes nothing but its context. -/
theorem State.complete1_ok {s : State} {x : Nat} {d : Cmd} (hc : (s.ctx x).cmd d.idx = some d) (hl : d.live = true) (result : Nat) :
    (s.complete1 x d.idx stOk result).ctx x = (s.ctx x).answered d stOk result ∧
      CtxsKept x s (s.complete1 x d.idx stOk result) ∧ Kept [.ctxs] s (s.complete1 x d.idx stOk result) := by
  have he : s.complete1 x d.idx stOk result =
      ((s.modCtx x (fun c => { c with entries := c.entries ++ [c.entryOf d stOk result] })).modCmd x d.idx Cmd.ended).modCtx x
        CtxSt.release := by
    have hf : (d.isStep && failsStep stOk) = false := Bool.and_false _
    simp only [State.complete1, hc, hl, hf, Bool.not_true, Bool.false_and, Bool.false_eq_true, if_false]
    rfl
  rw [he]
  refine ⟨?_, ((CtxsKept.refl x s).modCtx _).modCtx _ |>.modCtx _,
    (((Kept.refl _ s).modCtx (by simp) _ _).modCtx (by simp) _ _).modCtx (by simp) _ _⟩
  simp [State.modCmd, CtxSt.answered]

/-- A live command that no SUSPEND waits for completes with OK. -/
theorem State.complete_ok {s : State} {x : Nat} {d : Cmd} (h : s.Live x d) (result : Nat) :
    Answers s (s.complete x d.idx stOk result) x d stOk result ∧ CtxsKept x s (s.complete x d.idx stOk result) ∧
      Kept [.ctxs] s (s.complete x d.idx stOk result) := by
  obtain ⟨hc, hl, hs⟩ := h
  obtain ⟨hctx, hothers, hk⟩ := State.complete1_ok hc hl result
  have he : s.complete x d.idx stOk result = s.complete1 x d.idx stOk result := by
    simp only [State.complete, hctx]
    rw [show ((s.ctx x).answered d stOk result).suspends d.idx = [] from
      CtxSt.suspends_release (CtxSt.suspends_ended hs Cmd.ended (fun _ => rfl) _)]
    rfl
  rw [he]
  exact ⟨by rw [Answers, hctx]; rfl, hothers, hk⟩

/-! ### SCRUB (R138; 13 Table 13-11) -/

/-- A command looked up by its index after a change of it. -/
theorem State.cmd_modCmd {s : State} {x : Nat} {d : Cmd} {idx : Nat} (h : (s.ctx x).cmd idx = some d) {f : Cmd → Cmd}
    (hf : ∀ e, (f e).idx = e.idx) : ((s.modCmd x idx f).ctx x).cmd idx = some (f d) := by
  have hd : d.idx = idx := by simpa using List.find?_some h
  have hp : ((fun e : Cmd => e.idx == idx) ∘ fun e => if e.idx = idx then f e else e) = fun e => e.idx == idx := by
    funext e
    by_cases he : e.idx = idx <;> simp [he, hf]
  rw [State.modCmd, State.ctx_modCtx_self, CtxSt.cmd, List.find?_map, hp, ← CtxSt.cmd, h, Option.map_some, if_pos hd]

theorem exec_scrub_idle {s : State} {x : Ctx} (h : s.scrubTurn x.val = none) (m : StackMeets) : exec (.scrub ⟨x, m⟩) s = .next s := by
  show execScrub ⟨x, m⟩ s = _
  simp [execScrub, h]

theorem exec_scrub_last {s : State} {x : Ctx} {d : Cmd} (h : s.scrubTurn x.val = some d) (hl : d.mgmtLen ≤ 32 * d.progress)
    (m : StackMeets) : exec (.scrub ⟨x, m⟩) s = .next (s.complete x.val d.idx stOk (min d.units 0xFFFFFFFF)) := by
  show execScrub ⟨x, m⟩ s = _
  simp [execScrub, h, hl]

/-- One more access of a SCRUB's range is read. -/
def Cmd.scrubbed (d : Cmd) (corrected : Nat) : Cmd := { d with progress := d.progress + 1, units := d.units + corrected }

/-- A SCRUB starts or goes on with an access that needs no correction. -/
def State.scrubRead (s : State) (x idx n a : Nat) : State :=
  ((s.start x idx).served n a false).modCmd x idx (fun e => e.scrubbed 0)

theorem State.cmd_scrubRead (s : State) {x : Nat} {d : Cmd} (hc : (s.ctx x).cmd d.idx = some d) (n a : Nat) :
    ((s.scrubRead x d.idx n a).ctx x).cmd d.idx =
      some { d with phase := .started, since := s.clk.now, progress := d.progress + 1 } := by
  have hstart : ((s.start x d.idx).ctx x).cmd d.idx = some { d with phase := .started, since := s.clk.now } :=
    State.cmd_modCmd hc fun _ => rfl
  have hserved : (((s.start x d.idx).served n a false).ctx x).cmd d.idx = some { d with phase := .started, since := s.clk.now } :=
    hstart
  exact State.cmd_modCmd hserved (f := fun e => e.scrubbed 0) fun _ => rfl

theorem State.ctxsKept_scrubRead (s : State) (x idx n a : Nat) : CtxsKept x s (s.scrubRead x idx n a) :=
  have hstart : CtxsKept x s (s.start x idx) := (CtxsKept.refl x s).modCtx _
  have hserved : CtxsKept x s ((s.start x idx).served n a false) := hstart.of_ctxs rfl
  hserved.modCtx _

theorem State.kept_scrubRead (s : State) (x idx n a : Nat) : Kept [.ctxs, .stks] s (s.scrubRead x idx n a) :=
  (((Kept.refl _ s).modCtx (by simp) _ _).modStk (by simp) _ _).modCtx (by simp) _ _

/-- An access that meets no error is charged to its partition and adds nothing to the count. -/
theorem exec_scrub_clean {s : State} {x : Ctx} {d : Cmd} {m : StackMeets} (h : s.scrubTurn x.val = some d)
    (hl : 32 * d.progress < d.mgmtLen) (hi : m.inner = 0) (hp : m.parity.toNat < 2) (he : errLanes m.errs = [])
    (hu : s.unitOk ((d.mgmtAddr + 32 * d.progress) / 0x800000000) ((d.mgmtAddr + 32 * d.progress) % 0x800000000 / 32) = true)
    (ho : s.sluiceOpen ((d.mgmtAddr + 32 * d.progress) / 0x800000000) ((d.mgmtAddr + 32 * d.progress) % 0x800000000) = true)
    (hb : sget false s.mem.bad (d.mgmtAddr + 32 * d.progress) = false) :
    exec (.scrub ⟨x, m⟩) s = .next
      (s.scrubRead x.val d.idx ((d.mgmtAddr + 32 * d.progress) / 0x800000000) (d.mgmtAddr + 32 * d.progress)) := by
  show execScrub ⟨x, m⟩ s = _
  have hl' : ¬ d.mgmtLen ≤ 32 * d.progress := by omega
  have hp' : ¬ 2 ≤ m.parity.toNat := by omega
  generalize ha : d.mgmtAddr + 32 * d.progress = a at *
  have hu' : (s.start x.val d.idx).unitOk (a / 0x800000000) (a % 0x800000000 / 32) = true := hu
  have ho' : (s.start x.val d.idx).sluiceOpen (a / 0x800000000) (a % 0x800000000) = true := ho
  simp only [execScrub, h, ha, hl', hp', hu', ho', Bool.not_true, Bool.false_eq_true, if_false, State.innerReport_zero hi,
    State.readCorrects_clean he]
  rw [State.readUnit_clean (s := (s.start x.val d.idx).served ..) he hb]
  rfl

/-! ### Refresh and windows (R121, R122, R132) -/

theorem exec_refresh_dead {s : State} {n : Stack} (h : (s.stk n.val).dead = true) (b : Bool) : exec (.refresh ⟨n, b⟩) s = .next s := by
  show execRefresh ⟨n, b⟩ s = _
  simp [execRefresh, h]

/-- A refresh at the stack's rate is counted once or twice. -/
theorem exec_refresh_rate {s : State} {n : Stack} (h : (s.stk n.val).dead = false) :
    exec (.refresh ⟨n, false⟩) s = .next (s.modStk n.val (fun k => { k with
      refreshes := k.refreshes + (if s.flag (Off.memTherm n.val) 3 then 2 else 1)
      taken := k.taken + (if s.flag (Off.memTherm n.val) 3 then 2 else 1) * Config.refreshTime })) := by
  show execRefresh ⟨n, false⟩ s = _
  cases hf : s.flag (Off.memTherm n.val) 3 <;> simp [execRefresh, h, hf, b2n]

/-- One that the stack asks for is counted by itself. -/
theorem exec_refresh_managed {s : State} {n : Stack} (h : (s.stk n.val).dead = false) :
    exec (.refresh ⟨n, true⟩) s = .next (s.modStk n.val (fun k => { k with
      managed := k.managed + 1, taken := k.taken + Config.refreshTime })) := by
  show execRefresh ⟨n, true⟩ s = _
  simp [execRefresh, h, b2n]

theorem exec_sluiceWindow_due {s : State} {n : Stack} (h : (s.stk n.val).window ≠ s.sluiceNo) :
    exec (.sluiceWindow n) s = .next (s.modStk n.val (fun k => { k with
      charged := k.carry (s.windowTime n.val), taken := 0, waits := k.asked, asked := [], window := s.sluiceNo })) :=
  whenReady_true (decide_eq_true h) _ _

theorem exec_sluiceWindow_same {s : State} {n : Stack} (h : (s.stk n.val).window = s.sluiceNo) :
    exec (.sluiceWindow n) s = .next s := whenReady_false (decide_eq_false (not_not_intro h)) _ _

/-! ### Commits (R123; 18 R368) -/

theorem exec_sluiceCommit_closed {s : State} (f : Func) (n : Stack) (hb : s.barOpen = false) :
    exec (.sluiceCommit f n) s = .next s := by
  show execSluiceCommit f n s = _
  simp [execSluiceCommit, hb]

theorem exec_sluiceCommit_barred {s : State} {f : Func} (n : Stack) (hb : s.barOpen = true)
    (hw : s.mayWrite f.val .pf 0 0 = false) :
    exec (.sluiceCommit f n) s = .next (s.ignored f.val (Off.memSluiceCmd n.val) 1) := by
  show execSluiceCommit f n s = _
  simp [execSluiceCommit, State.sluiceCommit, hb, hw]

theorem exec_sluiceCommit_start {s : State} {f : Func} {n : Stack} (hb : s.barOpen = true)
    (hw : s.mayWrite f.val .pf 0 0 = true) (hp : s.flag (Off.memSluiceCmd n.val) 2 = false) :
    exec (.sluiceCommit f n) s =
      .next ((s.setFlag (Off.memSluiceCmd n.val) 2 true).modStk n.val (fun k => { k with commit := true })) := by
  show execSluiceCommit f n s = _
  simp [execSluiceCommit, State.sluiceCommit, hb, hw, hp]

/-- A register below the block of firmware and the log is not one of the log's. -/
theorem not_mem_logRegs_of_lt {o : Nat} (h : o < 0x2800000) : o ∉ logRegs := by
  intro hm
  simp only [logRegs, Off.fwlLogStat, Off.fwlLogPos, List.mem_cons, List.not_mem_nil, or_false] at hm
  omega

/-- The settings written are read from the partitions' and the sluices' registers. -/
theorem State.written_congr {s t : State} {n : Nat} (hp : ∀ i < 8, t.reg (Off.memPart n i) = s.reg (Off.memPart n i))
    (hs : ∀ i < 8, t.reg (Off.memSluice n i) = s.reg (Off.memSluice n i)) : t.written n = s.written n := by
  simp only [State.written, State.field]
  congr 1
  · exact List.map_congr_left fun i hi => by rw [hp i (List.mem_range.mp hi)]
  · exact List.map_congr_left fun i hi => by rw [hs i (List.mem_range.mp hi)]

/-- The log's registers are none of them. -/
theorem State.written_ignored (s : State) (n : Stack) (f off v : Nat) : (s.ignored f off v).written n.val = s.written n.val :=
  State.written_congr
    (fun i hi => s.reg_ignored _ _ _ (not_mem_logRegs_of_lt (by unfold Off.memPart; omega)))
    (fun i hi => s.reg_ignored _ _ _ (not_mem_logRegs_of_lt (by unfold Off.memSluice; omega)))

/-- The commit of a stack is no longer under way. -/
def State.commitTaken (s : State) (n : Nat) : State :=
  (s.setFlag (Off.memSluiceCmd n) 2 false).modStk n (fun k => { k with commit := false })

theorem State.written_commitTaken (s : State) (n : Nat) : (s.commitTaken n).written n = s.written n :=
  State.written_congr
    (fun i hi => s.reg_setField_ne 2 2 _ (by unfold Off.memPart Off.memSluiceCmd; omega))
    (fun i hi => s.reg_setField_ne 2 2 _ (by unfold Off.memSluice Off.memSluiceCmd; omega))

theorem State.stk_commitTaken_self (s : State) (n : Nat) : (s.commitTaken n).stk n = { s.stk n with commit := false } :=
  State.stk_modStk_self _ _ _

theorem State.stk_commitTaken_ne (s : State) {n m : Nat} (h : m ≠ n) : (s.commitTaken n).stk m = s.stk m :=
  State.stk_modStk_ne (s.setFlag ..) _ h

theorem State.flag_commitTaken (s : State) (n : Nat) : (s.commitTaken n).flag (Off.memSluiceCmd n) 2 = false :=
  s.flag_setFlag_self _ 2 false (by decide)

theorem Kept.commitTaken {as : List Area} {s t : State} (h : Kept as s t) (hr : Area.regs ∈ as) (hs : Area.stks ∈ as) (n : Nat) :
    Kept as s (t.commitTaken n) := (h.setFlag hr _ _ _).modStk hs _ _

theorem RegsKept.commitTaken {os : List Nat} {s t : State} (h : RegsKept os s t) {n : Nat} (ho : Off.memSluiceCmd n ∈ os) :
    RegsKept os s (t.commitTaken n) := (h.setFlag ho 2 false).of_regs rfl

/-- The state once a commit is refused for a check and a partition. -/
def State.commitRefused (s : State) (n c p : Nat) : State :=
  ((s.commitTaken n).setFlag (Off.memSluiceCmd n) 1 true).note 3 false 0x20 0x0120 [n, c, p] none 0 n

theorem State.stk_commitRefused (s : State) (n c p : Nat) : (s.commitRefused n c p).stk n = { s.stk n with commit := false } := by
  simp only [State.commitRefused, State.stk, State.note_keeps, State.setFlag_keeps]
  exact s.stk_commitTaken_self n

/-- REFUSED is set and PENDING clear. -/
theorem State.flags_commitRefused (s : State) (n : Stack) (c p : Nat) :
    (s.commitRefused n.val c p).flag (Off.memSluiceCmd n.val) 2 = false ∧
      (s.commitRefused n.val c p).flag (Off.memSluiceCmd n.val) 1 = true := by
  have hlog : Off.memSluiceCmd n.val ∉ logRegs := not_mem_logRegs_of_lt (by unfold Off.memSluiceCmd; omega)
  simp only [State.flag, State.commitRefused, State.reg_note _ _ _ _ _ _ _ _ _ hlog]
  exact ⟨(State.flag_setField_apart _ _ 1 1 _ 2 (by decide) (by decide) (by decide)).trans (s.flag_commitTaken _),
    State.flag_setFlag_self _ _ 1 true (by decide)⟩

theorem exec_sluiceApply_idle {s : State} {n : Stack} (h : (s.stk n.val).commit = false) : exec (.sluiceApply n) s = .next s := by
  show execSluiceApply n s = _
  simp [execSluiceApply, h]

theorem exec_sluiceApply_passed {s : State} {n : Stack} (h : (s.stk n.val).commit = true)
    (hc : sluiceCheck (s.written n.val).1 (s.written n.val).2 = none) :
    exec (.sluiceApply n) s = .next ((s.commitTaken n.val).modStk n.val (fun k =>
      { k with parts := (s.written n.val).1, shares := (s.written n.val).2 })) := by
  show execSluiceApply n s = _
  rw [← s.written_commitTaken n.val] at hc ⊢
  simp only [State.commitTaken] at hc ⊢
  simp [execSluiceApply, h, hc]

theorem exec_sluiceApply_failed {s : State} {n : Stack} {c p : Nat} (h : (s.stk n.val).commit = true)
    (hc : sluiceCheck (s.written n.val).1 (s.written n.val).2 = some (c, p)) :
    exec (.sluiceApply n) s = .next (s.commitRefused n.val c p) := by
  show execSluiceApply n s = _
  rw [← s.written_commitTaken n.val] at hc
  simp only [State.commitRefused, State.commitTaken] at hc ⊢
  simp [execSluiceApply, h, hc]

/-! ### The obligation -/

/-- Settles O13: each command is one change of its stack, and of its ring for SCRUB; a commit reads the settings that stood when it was
made, as no write changes them until it is taken. -/
theorem stackBandwidth : Obligations.StackBandwidth := by
  unfold Obligations.StackBandwidth
  refine ⟨?patrol, ?patrolUnusable, ?scrubLast, ?scrubAccess, ?scrubIdle, ?refresh, ?managed, ?refreshDead, ?window, ?windowSame,
    ?commit, ?commitBarred, ?commitClosed, ?applied, ?refused, ?applyIdle, ?pending⟩
  case patrol =>
    intro n u m s hu hi hp he hb
    refine ⟨_, exec_patrolScrub_clean hu hi hp he hb, ?_⟩
    rw [State.stk_modStk_self]
    obtain ⟨hpatrolled, hcharged, htaken⟩ := (s.stk n.val).patrol_spec (n.val * 0x800000000 + 32 * u.toNat)
    exact ⟨hpatrolled, hcharged, htaken, fun k hk => s.stk_modStk_ne _ hk, (Kept.refl _ s).modStk (by simp) _ _⟩
  case patrolUnusable => exact fun n u m s hu => exec_patrolScrub_unusable hu m
  case scrubLast =>
    intro x m d s ht hl hlive
    exact ⟨_, exec_scrub_last ht hl m, State.complete_ok hlive _⟩
  case scrubAccess =>
    intro x m d s ht hl hlive hi hp he hu ho hb
    obtain ⟨hc, -, -⟩ := hlive
    exact ⟨_, exec_scrub_clean ht hl hi hp he hu ho hb, s.cmd_scrubRead hc _ _,
      s.ctxsKept_scrubRead _ _ _ _, s.kept_scrubRead _ _ _ _⟩
  case scrubIdle => exact fun x m s h => exec_scrub_idle h m
  case refresh =>
    intro n s h
    exact ⟨_, exec_refresh_rate h, s.stk_modStk_self _ _, fun m hm => s.stk_modStk_ne _ hm, (Kept.refl _ s).modStk (by simp) _ _⟩
  case managed =>
    intro n s h
    exact ⟨_, exec_refresh_managed h, s.stk_modStk_self _ _, fun m hm => s.stk_modStk_ne _ hm, (Kept.refl _ s).modStk (by simp) _ _⟩
  case refreshDead => exact fun n b s h => exec_refresh_dead h b
  case window =>
    intro n s h
    exact ⟨_, exec_sluiceWindow_due h, s.stk_modStk_self _ _, fun m hm => s.stk_modStk_ne _ hm, (Kept.refl _ s).modStk (by simp) _ _⟩
  case windowSame => exact fun n s h => exec_sluiceWindow_same h
  case commit =>
    intro f n s hb hw hp
    refine ⟨_, exec_sluiceCommit_start hb hw hp, s.flag_setFlag_self _ 2 true (by decide), ?_⟩
    rw [State.stk_modStk_self]
    exact ⟨rfl, rfl, rfl, fun m hm => State.stk_modStk_ne _ _ hm, ((Kept.refl _ s).setFlag (by simp) _ _ _).modStk (by simp) _ _,
      ((RegsKept.refl _ s).setFlag (List.mem_singleton_self _) 2 true).of_regs rfl⟩
  case commitBarred => exact fun f n s hb hw => exec_sluiceCommit_barred n hb hw
  case commitClosed => exact fun f n s hb => exec_sluiceCommit_closed f n hb
  case applied =>
    intro n s h hc
    refine ⟨_, exec_sluiceApply_passed h hc, ?_, fun m hm => ?_, s.flag_commitTaken n.val,
      ((Kept.refl _ s).commitTaken (by simp) (by simp) _).modStk (by simp) _ _,
      ((RegsKept.refl _ s).commitTaken (List.mem_singleton_self _)).of_regs rfl⟩
    · rw [State.stk_modStk_self, State.stk_commitTaken_self]
    · rw [State.stk_modStk_ne _ _ hm, s.stk_commitTaken_ne hm]
  case refused =>
    intro n c p s h hc
    obtain ⟨hpending, hrefused⟩ := s.flags_commitRefused n c p
    exact ⟨_, exec_sluiceApply_failed h hc, s.stk_commitRefused n.val c p, hpending, hrefused, (State.logEntry_log _ _).1,
      (((Kept.refl _ s).commitTaken (by simp [logAreas]) (by simp) _).setFlag (by simp [logAreas]) _ _ _).note (by simp)
        _ _ _ _ _ _ _ _,
      (((RegsKept.refl _ s).commitTaken List.mem_cons_self).setFlag List.mem_cons_self 1 true).logEntry (by simp) _⟩
  case applyIdle => exact fun n s h => exec_sluiceApply_idle h
  case pending =>
    intro f n i v s hb hp
    refine ⟨?_, ?_, fun o w => s.written_ignored n _ _ _⟩
    · exact exec_registerWrite_refused hb (by unfold Off.memPart; omega) (by unfold Off.memPart; omega) (regNamed_memPart n i)
        fun r hr => State.regEffect_sluicePending (.inl hr) hp _ _
    · exact exec_registerWrite_refused hb (by unfold Off.memSluice; omega) (by unfold Off.memSluice; omega) (regNamed_memSluice n i)
        fun r hr => State.regEffect_sluicePending (.inr hr) hp _ _

end Sys2Proof.Machine
